-- ==== Sys2Proof/Word.lean ====
section
/-!
DEFINITION. Words of the LJ4: the widths of R75, R70, R169 and the plainest arithmetic on them.
-/
namespace Sys2Proof

/-- One byte of memory. -/
abbrev Byte := BitVec 8
/-- A 32-bit group (R109) or a hart register (R230). -/
abbrev W32 := BitVec 32
/-- A slot of a bundle (R75), a scalar register (R147). -/
abbrev W64 := BitVec 64
/-- A vector register (R169). -/
abbrev VReg := BitVec 1024

/-- Bits `hi` down to `lo` of a natural number. -/
def bitsOf (n hi lo : Nat) : Nat := (n >>> lo) % 2 ^ (hi + 1 - lo)

/-- Bit `k` of a natural number. -/
def bitOf (n k : Nat) : Bool := n.testBit k

/-- The integer that the low `w` bits of `n` hold in two's complement. -/
def toSigned (w n : Nat) : Int :=
  let m := n % 2 ^ w
  if 2 * m < 2 ^ w then (m : Int) else (m : Int) - (2 ^ w : Nat)

/-- The low `w` bits, in two's complement, of an integer. -/
def ofSigned (w : Nat) (i : Int) : Nat := (i % (2 ^ w : Nat)).toNat

/-- A Boolean as a bit. -/
def bit01 (b : Bool) : Nat := if b then 1 else 0

/-- `n` with bits `hi` down to `lo` replaced by the low bits of `v`. -/
def setBits (n hi lo v : Nat) : Nat :=
  let w := hi + 1 - lo
  n - (bitsOf n hi lo) * 2 ^ lo + (v % 2 ^ w) * 2 ^ lo

end Sys2Proof
end

