-- ==== Sys2Proof/Machine/SMap.lean ====
section
/-!
DEFINITION. Sparse maps from numbers, as lists of pairs with rising keys, and memory in its one canonical form.
-/
namespace Sys2Proof.Machine
open Sys2Proof

/-- A map from numbers: pairs with strictly rising keys. -/
abbrev SMap (α : Type) := List (Nat × α)

/-- The value under a key, if listed. -/
def sget? {α : Type} : SMap α → Nat → Option α
  | [], _ => none
  | (k', v) :: m, k => if k' = k then some v else sget? m k

/-- The value under a key, `d` where the key is not listed. -/
def sget {α : Type} (d : α) (m : SMap α) (k : Nat) : α := (sget? m k).getD d

/-- The map with `v` under key `k`. -/
def sput {α : Type} : SMap α → Nat → α → SMap α
  | [], k, v => [(k, v)]
  | (k', v') :: m, k, v =>
    if k < k' then (k, v) :: (k', v') :: m
    else if k = k' then (k, v) :: m
    else (k', v') :: sput m k v

/-- The map without key `k`. -/
def sdel {α : Type} : SMap α → Nat → SMap α
  | [], _ => []
  | (k', v') :: m, k => if k = k' then m else (k', v') :: sdel m k

/-- Memory: listed bytes by physical address (R192). An address that is not listed reads 0x00. -/
abbrev Mem := List Host.Cell

/-- What an address that is not listed reads as. -/
def Mem.fill : Byte := 0

/-- The byte at an address. -/
def Mem.read (m : Mem) (a : Nat) : Byte := sget Mem.fill m a

/-- Memory with byte `v` at address `a`; a byte equal to what an unlisted address reads as is not listed. -/
def Mem.write (m : Mem) (a : Nat) (v : Byte) : Mem := if v = Mem.fill then sdel m a else sput m a v

/-- The keys of the list rise strictly from above `lo` (`none`: from anywhere). -/
def risingFrom {α : Type} : Option Nat → SMap α → Bool
  | _, [] => true
  | none, (k, _) :: m => risingFrom (some k) m
  | some lo, (k, _) :: m => decide (lo < k) && risingFrom (some k) m

/-- The canonical form: strictly rising addresses, and no byte equal to what an unlisted address reads as. -/
def Mem.wf (m : Mem) : Bool := risingFrom none m && m.all (fun c => c.2 != Mem.fill)

/-- `n` bytes from address `a` up. -/
def Mem.readBytes (m : Mem) (a : Nat) : Nat → List Byte
  | 0 => []
  | n + 1 => m.read a :: Mem.readBytes m (a + 1) n

/-- The number that `n` bytes at address `a` make, least significant byte first (R75). -/
def Mem.readLE (m : Mem) (a : Nat) : Nat → Nat
  | 0 => 0
  | n + 1 => (m.read a).toNat + 256 * Mem.readLE m (a + 1) n

/-- Write bytes from address `a` up. -/
def Mem.writeBytes (m : Mem) (a : Nat) : List Byte → Mem
  | [] => m
  | b :: bs => Mem.writeBytes (m.write a b) (a + 1) bs

/-- Write the low `n` bytes of `v` at address `a`, least significant byte first. -/
def Mem.writeLE (m : Mem) (a : Nat) : Nat → Nat → Mem
  | 0, _ => m
  | n + 1, v => Mem.writeLE (m.write a (BitVec.ofNat 8 v)) (a + 1) n (v / 256)

/-- Change the `n`-th element of a list. -/
def lset {α : Type} : List α → Nat → α → List α
  | [], _, _ => []
  | _ :: l, 0, v => v :: l
  | x :: l, n + 1, v => x :: lset l n v

/-- Remove the `n`-th element of a list. -/
def ldel {α : Type} : List α → Nat → List α
  | [], _ => []
  | _ :: l, 0 => l
  | x :: l, n + 1 => x :: ldel l n

/-- Change every element that satisfies a test. -/
def lmap {α : Type} (p : α → Bool) (f : α → α) (l : List α) : List α := l.map fun x => if p x then f x else x

/-- The first `n` natural numbers that satisfy a test, as a count. -/
def countTo (n : Nat) (p : Nat → Bool) : Nat := ((List.range n).filter p).length

/-- All naturals below `n` satisfy a test. -/
def allTo (n : Nat) (p : Nat → Bool) : Bool := (List.range n).all p

/-- Some natural below `n` satisfies a test. -/
def anyTo (n : Nat) (p : Nat → Bool) : Bool := (List.range n).any p

/-- The numbers of the set bits of `m`, lowest first, below `n`. -/
def setBitsOf (n m : Nat) : List Nat := (List.range n).filter fun k => m.testBit k

end Sys2Proof.Machine
end

