-- ==== Sys2Proof/Syntax.lean ====
section
/-!
DEFINITION. The instructions and steps of the LJ4, one constructor per row of the operation table.

A slot operation carries the fields of its format (R81 to R88) bit for bit, and with them the prefix fields of its
bundle's Y slot (R88), which act on the whole bundle. The two units of the one vector map (R90) are an operand of
the operations that both accept. A step of an engine, of the graph engine, of a link or of the host has no fields of
its own: the turn that runs it (Machine/State.lean) says where it happens and which of the pending things it acts on.
-/
namespace Sys2Proof

/-- The prefix fields of the Y slot (R88), common to every operation of the bundle. -/
structure Pfx where
  ra  : BitVec 1
  sc  : BitVec 3
  np  : BitVec 6
  fio : BitVec 1
  lio : BitVec 1
  lv  : BitVec 3
  deriving DecidableEq, Repr

/-- RRR format (R81), bits [55:0]. -/
structure Rrr where
  lat : BitVec 4
  rm  : BitVec 2
  fi  : BitVec 1
  fo  : BitVec 1
  sat : BitVec 1
  ef  : BitVec 5
  d   : BitVec 10
  a   : BitVec 10
  b   : BitVec 10
  msk : BitVec 3
  x   : BitVec 9
  deriving DecidableEq, Repr

/-- RI format (R82), bits [55:0]. -/
structure Ri where
  lat : BitVec 4
  rm  : BitVec 2
  fi  : BitVec 1
  fo  : BitVec 1
  sat : BitVec 1
  ef  : BitVec 5
  d   : BitVec 10
  a   : BitVec 10
  imm : BitVec 22
  deriving DecidableEq, Repr

/-- BR format (R83), bits [55:0]; `z1` and `z2` are the bits that must be zero. -/
structure Br where
  z1   : BitVec 4
  cond : BitVec 4
  sa   : BitVec 6
  sb   : BitVec 6
  hint : BitVec 2
  z2   : BitVec 2
  off  : BitVec 32
  deriving DecidableEq, Repr

/-- MEM format (R84), bits [55:0]. -/
structure MemF where
  lat  : BitVec 4
  wd   : BitVec 4
  am   : BitVec 3
  aq   : BitVec 1
  d    : BitVec 10
  x    : BitVec 10
  base : BitVec 6
  imm  : BitVec 18
  deriving DecidableEq, Repr

/-- ENG format (R86), bits [55:0]. -/
structure Eng where
  lat : BitVec 4
  ad  : BitVec 6
  md  : BitVec 4
  ko  : BitVec 6
  ki1 : BitVec 6
  ki2 : BitVec 6
  ki3 : BitVec 6
  sp  : BitVec 6
  mf  : BitVec 12
  deriving DecidableEq, Repr

/-- CPY format (R87), bits [55:0]; `z` are the bits that must be zero. -/
structure Cpy where
  z   : BitVec 4
  ch  : BitVec 4
  cd  : BitVec 4
  ss  : BitVec 6
  sd  : BitVec 6
  ko  : BitVec 6
  ki1 : BitVec 6
  ki2 : BitVec 6
  ki3 : BitVec 6
  cf  : BitVec 8
  deriving DecidableEq, Repr

/-- SYN format (R88), bits [40:0]; the prefix bits [55:41] are the bundle's `Pfx`. -/
structure Syn where
  a  : BitVec 10
  b  : BitVec 10
  k1 : BitVec 6
  k2 : BitVec 6
  k3 : BitVec 6
  sf : BitVec 3
  deriving DecidableEq, Repr

/-- The two vector units (R90). -/
inductive VUnit where
  | va
  | vb
  deriving DecidableEq, Repr

/-- A register number of a loader or storer hart (R104). -/
abbrev RReg := BitVec 5

/-- Conditional branches of RV32I (R104). -/
inductive RvBr where | beq | bne | blt | bge | bltu | bgeu
  deriving DecidableEq, Repr
/-- Loads of RV32I (R104). -/
inductive RvLd where | lb | lh | lw | lbu | lhu
  deriving DecidableEq, Repr
/-- Stores of RV32I (R104). -/
inductive RvSt where | sb | sh | sw
  deriving DecidableEq, Repr
/-- Register-immediate operations of RV32I (R104). -/
inductive RvImm where | addi | slti | sltiu | xori | ori | andi
  deriving DecidableEq, Repr
/-- Shifts by an immediate of RV32I and Zbb (R104). -/
inductive RvShi where | slli | srli | srai | rori
  deriving DecidableEq, Repr
/-- One-operand operations of Zbb (R104). -/
inductive RvUn where | clz | ctz | cpop | sextb | sexth | zexth | orcb | rev8
  deriving DecidableEq, Repr
/-- Register-register operations of RV32I, M, Zba and Zbb (R104). -/
inductive RvOp where
  | add | sub | sll | slt | sltu | xor | srl | sra | or | and
  | mul | mulh | mulhsu | mulhu | div | divu | rem | remu
  | sh1add | sh2add | sh3add
  | andn | orn | xnor | max | maxu | min | minu | rol | ror
  deriving DecidableEq, Repr
/-- The control and status register operations of Zicsr (R104). -/
inductive RvCsr where | rw | rs | rc | rwi | rsi | rci
  deriving DecidableEq, Repr

/-- An instruction of RV32IM, Zicsr, Zifencei, Zba and Zbb (R104), other than `ecall`. -/
inductive RvInst where
  | lui (rd : RReg) (imm : BitVec 20)
  | auipc (rd : RReg) (imm : BitVec 20)
  /-- `imm` is the offset divided by 2. -/
  | jal (rd : RReg) (imm : BitVec 20)
  | jalr (rd rs1 : RReg) (imm : BitVec 12)
  /-- `imm` is the offset divided by 2. -/
  | branch (c : RvBr) (rs1 rs2 : RReg) (imm : BitVec 12)
  | load (w : RvLd) (rd rs1 : RReg) (imm : BitVec 12)
  | store (w : RvSt) (rs1 rs2 : RReg) (imm : BitVec 12)
  | imm (o : RvImm) (rd rs1 : RReg) (imm : BitVec 12)
  | shi (o : RvShi) (rd rs1 : RReg) (sh : BitVec 5)
  | un (o : RvUn) (rd rs1 : RReg)
  | op (o : RvOp) (rd rs1 rs2 : RReg)
  | fence (rd rs1 : RReg) (imm : BitVec 12)
  | fencei (rd rs1 : RReg) (imm : BitVec 12)
  | csr (o : RvCsr) (rd src : RReg) (n : BitVec 12)
  | ebreak
  deriving DecidableEq, Repr

/-- A hart instruction as it stands in the instruction store: of 32 bits, or compressed (the C of R104). -/
inductive RvForm where
  | full (r : RvInst)
  | compressed (h : BitVec 16)
  deriving DecidableEq, Repr

/-- The instructions and steps of the operation table, one constructor per row, in its order. -/
inductive Instr where
  -- BEGIN CONSTRUCTORS
  /-- HART_EXCEPTION (R230). An illegal instruction, misaligned access, access fault or ebreak stops the hart and fails the node with the matching FCAUSE. -/
  | hartException (cause : Nat)
  /-- JQ_PUSH (R231). The loader appends a 64-bit entry to queue q0 to q3, stalling while it is full. -/
  | jqPush (n : BitVec 7) (b : RReg) (a : RReg)
  /-- JQ_POP (R231). The storer removes the oldest entry of q4 to q7 into its data store, stalling while the queue is empty. -/
  | jqPop (n : BitVec 7) (a : RReg) (d : RReg)
  /-- JC_SUB (R231). A hart submits a shape block as a copy on a channel and receives a status. -/
  | jcSub (n : BitVec 7) (a : RReg) (d : RReg)
  /-- JC_WM (R231). A hart reads the low 32 bits of a channel's watermark. -/
  | jcWm (n : BitVec 7) (d : RReg)
  /-- JT_POST (R231). A hart posts a token to a compute context of its core at core scope. -/
  | jtPost (n : BitVec 7) (a : RReg)
  /-- JR_WAIT (R231). A hart waits on a ring stage in its role and returns a status. -/
  | jrWait (b : RReg) (a : RReg) (d : RReg)
  /-- ADD (R149). Scalar add, wrapping. -/
  | add (p : Pfx) (f : Rrr)
  /-- SUB (R149). Scalar subtract, wrapping. -/
  | sub (p : Pfx) (f : Rrr)
  /-- MUL (R149). Low W bits of the scalar product. -/
  | mul (p : Pfx) (f : Rrr)
  /-- MULH (R149). High W bits of the signed scalar product. -/
  | mulh (p : Pfx) (f : Rrr)
  /-- MULHU (R149). High W bits of the unsigned scalar product. -/
  | mulhu (p : Pfx) (f : Rrr)
  /-- DIV (R150). Signed division rounded toward zero; a zero divisor traps with cause 0x07. -/
  | div (p : Pfx) (f : Rrr)
  /-- DIVU (R150). Unsigned division; a zero divisor traps with cause 0x07. -/
  | divu (p : Pfx) (f : Rrr)
  /-- REM (R150). Signed remainder with the dividend's sign; a zero divisor traps. -/
  | rem (p : Pfx) (f : Rrr)
  /-- REMU (R150). Unsigned remainder; a zero divisor traps. -/
  | remu (p : Pfx) (f : Rrr)
  /-- AND (R149). Bitwise AND. -/
  | and (p : Pfx) (f : Rrr)
  /-- OR (R149). Bitwise OR. -/
  | or (p : Pfx) (f : Rrr)
  /-- XOR (R149). Bitwise XOR. -/
  | xor (p : Pfx) (f : Rrr)
  /-- ANDN (R149). A AND NOT B. -/
  | andn (p : Pfx) (f : Rrr)
  /-- SHL (R149). Shift left by B mod W. -/
  | shl (p : Pfx) (f : Rrr)
  /-- SHR (R149). Logical shift right by B mod W. -/
  | shr (p : Pfx) (f : Rrr)
  /-- SRA (R149). Arithmetic shift right by B mod W. -/
  | sra (p : Pfx) (f : Rrr)
  /-- ROTL (R149). Rotate left by B mod W. -/
  | rotl (p : Pfx) (f : Rrr)
  /-- MIN (R149). Signed minimum. -/
  | min (p : Pfx) (f : Rrr)
  /-- MAX (R149). Signed maximum. -/
  | max (p : Pfx) (f : Rrr)
  /-- MINU (R149). Unsigned minimum. -/
  | minu (p : Pfx) (f : Rrr)
  /-- MAXU (R149). Unsigned maximum. -/
  | maxu (p : Pfx) (f : Rrr)
  /-- SEQ (R149). Sets 1 if equal, else 0. -/
  | seq (p : Pfx) (f : Rrr)
  /-- SNE (R149). Sets 1 if not equal. -/
  | sne (p : Pfx) (f : Rrr)
  /-- SLT (R149). Sets 1 if signed less than. -/
  | slt (p : Pfx) (f : Rrr)
  /-- SLTU (R149). Sets 1 if unsigned less than. -/
  | sltu (p : Pfx) (f : Rrr)
  /-- SLE (R149). Sets 1 if signed less or equal. -/
  | sle (p : Pfx) (f : Rrr)
  /-- SLEU (R149). Sets 1 if unsigned less or equal. -/
  | sleu (p : Pfx) (f : Rrr)
  /-- SEL (R149). Selects A if D is nonzero, else B. -/
  | sel (p : Pfx) (f : Rrr)
  /-- CLZ (R149). Counts leading zero bits. -/
  | clz (p : Pfx) (f : Rrr)
  /-- CTZ (R149). Counts trailing zero bits. -/
  | ctz (p : Pfx) (f : Rrr)
  /-- POPC (R149). Counts one bits. -/
  | popc (p : Pfx) (f : Rrr)
  /-- ADDI (R151). Adds a signed immediate. -/
  | addi (p : Pfx) (f : Ri)
  /-- ANDI (R151). ANDs with an immediate. -/
  | andi (p : Pfx) (f : Ri)
  /-- ORI (R151). ORs with an immediate. -/
  | ori (p : Pfx) (f : Ri)
  /-- XORI (R151). XORs with an immediate. -/
  | xori (p : Pfx) (f : Ri)
  /-- SHLI (R151). Shifts left by an immediate. -/
  | shli (p : Pfx) (f : Ri)
  /-- SHRI (R151). Shifts right logically by an immediate. -/
  | shri (p : Pfx) (f : Ri)
  /-- SRAI (R151). Shifts right arithmetically by an immediate. -/
  | srai (p : Pfx) (f : Ri)
  /-- SLTI (R151). Sets 1 if signed less than the immediate. -/
  | slti (p : Pfx) (f : Ri)
  /-- SLTUI (R151). Sets 1 if unsigned less than the immediate. -/
  | sltui (p : Pfx) (f : Ri)
  /-- LI (R151). Loads a sign-extended immediate. -/
  | li (p : Pfx) (f : Ri)
  /-- LIX (R151). Shifts D left by 22 and adds an unsigned immediate. -/
  | lix (p : Pfx) (f : Ri)
  /-- EXT (R152). Extracts a bit field, zero- or sign-extended. -/
  | ext (p : Pfx) (f : Ri)
  /-- INS (R152). Inserts a bit field of A into D. -/
  | ins (p : Pfx) (f : Ri)
  /-- MULI (R151). Multiplies by a signed immediate. -/
  | muli (p : Pfx) (f : Ri)
  /-- BR (R153). Branches to a relative target when its condition holds. -/
  | br (p : Pfx) (f : Br)
  /-- BRI (R153). Branches to the bundle index in a register. -/
  | bri (p : Pfx) (f : Br)
  /-- CALL (R154). Pushes the link stack, advances the register window and branches. -/
  | call (p : Pfx) (f : Br)
  /-- CALLI (R154). Calls to the bundle index in a register. -/
  | calli (p : Pfx) (f : Br)
  /-- RET (R154). Pops the link stack, moves the window back and returns. -/
  | ret (p : Pfx) (f : Br)
  /-- LOOP (R155). Opens a hardware loop level with a trip count from a register. -/
  | loop (p : Pfx) (f : Br)
  /-- LSTR (R156). Registers a stride for a register at a loop level. -/
  | lstr (p : Pfx) (f : Br)
  /-- LBRK (R157). Makes the current iteration of a loop level the last when its condition holds. -/
  | lbrk (p : Pfx) (f : Br)
  /-- MFSR (R158). Reads a special register into a scalar register. -/
  | mfsr (p : Pfx) (f : Ri)
  /-- MTSR (R158). Writes a scalar register to a special register from the next bundle. -/
  | mtsr (p : Pfx) (f : Ri)
  /-- ECALL (R160). Commits, then traps with cause 0x1B to resident code. -/
  | ecall (p : Pfx) (f : Ri)
  /-- TRET (R161). Returns from a trap level, restores banks and loops, and replays late writes. -/
  | tret (p : Pfx) (f : Rrr)
  /-- UIRET (R161). Returns from a user-interrupt handler to UIPC. -/
  | uiret (p : Pfx) (f : Rrr)
  /-- BKPT (R160). Traps with cause 0x19 without taking effect. -/
  | bkpt (p : Pfx) (f : Ri)
  /-- HALT (R162). Waits for empty slot queues and ends the node in the context. -/
  | halt (p : Pfx) (f : Rrr)
  /-- YIELD (R163). Commits and hands the core to another ready context. -/
  | yield (p : Pfx) (f : Rrr)
  /-- TLBINV (R165). Invalidates translations package-wide and fires a token at completion. -/
  | tlbinv (p : Pfx) (f : Rrr)
  /-- ICINV (R166). Invalidates one or all instruction-store blocks of the core. -/
  | icinv (p : Pfx) (f : Rrr)
  /-- KILL (R164). Kills a context of the core, failing its node with a given FCAUSE. -/
  | kill (p : Pfx) (f : Rrr)
  /-- TRAP (R160). Commits, then traps with cause 0x1C. -/
  | trap (p : Pfx) (f : Ri)
  /-- VSHRINK (R167). Releases the top n vector registers of the allotment. -/
  | vshrink (p : Pfx) (f : Ri)
  /-- VGROW (R168). Asks for n more registers above the allotment and reports success. -/
  | vgrow (p : Pfx) (f : Ri)
  /-- SMIR (R81). Executes a scalar RRR operation in the VB slot as a mirror. -/
  | smir (p : Pfx) (f : Rrr)
  /-- VADD (R172). Element-wise add. -/
  | vadd (p : Pfx) (u : VUnit) (f : Rrr)
  /-- VSUB (R172). Element-wise subtract. -/
  | vsub (p : Pfx) (u : VUnit) (f : Rrr)
  /-- VMUL (R172). Element-wise multiply. -/
  | vmul (p : Pfx) (u : VUnit) (f : Rrr)
  /-- VMULH (R172). High half of the integer element product. -/
  | vmulh (p : Pfx) (u : VUnit) (f : Rrr)
  /-- VMAD (R172). d + a × b, rounded once. -/
  | vmad (p : Pfx) (u : VUnit) (f : Rrr)
  /-- VMSB (R172). d − a × b, rounded once. -/
  | vmsb (p : Pfx) (u : VUnit) (f : Rrr)
  /-- VDIV (R172). Float element divide, in VB only. -/
  | vdiv (p : Pfx) (f : Rrr)
  /-- VRCP (R172). Float reciprocal. -/
  | vrcp (p : Pfx) (u : VUnit) (f : Rrr)
  /-- VRSQ (R172). Float reciprocal square root. -/
  | vrsq (p : Pfx) (u : VUnit) (f : Rrr)
  /-- VSQRT (R172). Float square root. -/
  | vsqrt (p : Pfx) (u : VUnit) (f : Rrr)
  /-- VMIN (R173). Element minimum. -/
  | vmin (p : Pfx) (u : VUnit) (f : Rrr)
  /-- VMAX (R173). Element maximum. -/
  | vmax (p : Pfx) (u : VUnit) (f : Rrr)
  /-- VABS (R172). Element absolute value. -/
  | vabs (p : Pfx) (u : VUnit) (f : Rrr)
  /-- VNEG (R172). Element negation. -/
  | vneg (p : Pfx) (u : VUnit) (f : Rrr)
  /-- VAVG (R172). Element average. -/
  | vavg (p : Pfx) (u : VUnit) (f : Rrr)
  /-- VAND (R174). Element AND. -/
  | vand (p : Pfx) (u : VUnit) (f : Rrr)
  /-- VOR (R174). Element OR. -/
  | vor (p : Pfx) (u : VUnit) (f : Rrr)
  /-- VXOR (R174). Element XOR. -/
  | vxor (p : Pfx) (u : VUnit) (f : Rrr)
  /-- VANDN (R174). Element a AND NOT b. -/
  | vandn (p : Pfx) (u : VUnit) (f : Rrr)
  /-- VSHL (R174). Element shift left. -/
  | vshl (p : Pfx) (u : VUnit) (f : Rrr)
  /-- VSHR (R174). Element logical shift right. -/
  | vshr (p : Pfx) (u : VUnit) (f : Rrr)
  /-- VSRA (R174). Element arithmetic shift right. -/
  | vsra (p : Pfx) (u : VUnit) (f : Rrr)
  /-- VPOPC (R174). Element population count. -/
  | vpopc (p : Pfx) (u : VUnit) (f : Rrr)
  /-- VCLZ (R174). Element leading-zero count. -/
  | vclz (p : Pfx) (u : VUnit) (f : Rrr)
  /-- VCEQ (R175). Compares for equality into a mask register. -/
  | vceq (p : Pfx) (u : VUnit) (f : Rrr)
  /-- VCNE (R175). Compares for inequality into a mask register. -/
  | vcne (p : Pfx) (u : VUnit) (f : Rrr)
  /-- VCLT (R175). Compares less-than into a mask register. -/
  | vclt (p : Pfx) (u : VUnit) (f : Rrr)
  /-- VCLE (R175). Compares less-or-equal into a mask register. -/
  | vcle (p : Pfx) (u : VUnit) (f : Rrr)
  /-- VCUN (R175). Compares unordered into a mask register. -/
  | vcun (p : Pfx) (u : VUnit) (f : Rrr)
  /-- VSEL (R176). Selects A or B per selector lane. -/
  | vsel (p : Pfx) (u : VUnit) (f : Rrr)
  /-- VMOV (R176). Moves encodings into active elements. -/
  | vmov (p : Pfx) (u : VUnit) (f : Rrr)
  /-- VADDI (R177). Adds a signed immediate to elements. -/
  | vaddi (p : Pfx) (u : VUnit) (f : Ri)
  /-- VSHLI (R177). Shifts elements left by an immediate. -/
  | vshli (p : Pfx) (u : VUnit) (f : Ri)
  /-- VSHRI (R177). Shifts elements right logically by an immediate. -/
  | vshri (p : Pfx) (u : VUnit) (f : Ri)
  /-- VSRAI (R177). Shifts elements right arithmetically by an immediate. -/
  | vsrai (p : Pfx) (u : VUnit) (f : Ri)
  /-- VANDI (R177). ANDs elements with an immediate. -/
  | vandi (p : Pfx) (u : VUnit) (f : Ri)
  /-- VSPLAT (R178). Writes a scalar into every active element. -/
  | vsplat (p : Pfx) (u : VUnit) (f : Rrr)
  /-- VSPLATI (R177). Writes an immediate into every active element. -/
  | vsplati (p : Pfx) (u : VUnit) (f : Ri)
  /-- VEXT (R178). Extracts one element into a scalar register. -/
  | vext (p : Pfx) (u : VUnit) (f : Rrr)
  /-- VINS (R178). Inserts a scalar into one element. -/
  | vins (p : Pfx) (u : VUnit) (f : Rrr)
  /-- VREDADD (R179). Sum reduction into element 0. -/
  | vredadd (p : Pfx) (u : VUnit) (f : Rrr)
  /-- VREDMAX (R179). Maximum reduction. -/
  | vredmax (p : Pfx) (u : VUnit) (f : Rrr)
  /-- VREDMIN (R179). Minimum reduction. -/
  | vredmin (p : Pfx) (u : VUnit) (f : Rrr)
  /-- VREDAND (R179). AND reduction. -/
  | vredand (p : Pfx) (u : VUnit) (f : Rrr)
  /-- VREDOR (R179). OR reduction. -/
  | vredor (p : Pfx) (u : VUnit) (f : Rrr)
  /-- VDOT4 (R180). Dot products of groups of four, accumulated into D. -/
  | vdot4 (p : Pfx) (u : VUnit) (f : Rrr)
  /-- VSHUF (R181). Permutes elements by indices. -/
  | vshuf (p : Pfx) (u : VUnit) (f : Rrr)
  /-- VSLIDE (R181). Slides elements by a signed count. -/
  | vslide (p : Pfx) (u : VUnit) (f : Rrr)
  /-- VROTL (R181). Rotates elements. -/
  | vrotl (p : Pfx) (u : VUnit) (f : Rrr)
  /-- VZIP (R181). Interleaves two registers. -/
  | vzip (p : Pfx) (u : VUnit) (f : Rrr)
  /-- VUNZIP (R181). De-interleaves two registers. -/
  | vunzip (p : Pfx) (u : VUnit) (f : Rrr)
  /-- MPUSH (R183). Pushes a mask onto the mask stack. -/
  | mpush (p : Pfx) (f : Rrr)
  /-- MINV (R183). Inverts the top of the mask stack within the entry below. -/
  | minv (p : Pfx) (f : Rrr)
  /-- MPOP (R183). Pops the mask stack. -/
  | mpop (p : Pfx) (f : Rrr)
  /-- MAND (R184). ANDs two masks. -/
  | mand (p : Pfx) (f : Rrr)
  /-- MOR (R184). ORs two masks. -/
  | mor (p : Pfx) (f : Rrr)
  /-- MNOT (R184). Inverts a mask. -/
  | mnot (p : Pfx) (f : Rrr)
  /-- MCPY (R184). Copies a mask. -/
  | mcpy (p : Pfx) (f : Rrr)
  /-- MCNT (R184). Counts mask lanes into a scalar register. -/
  | mcnt (p : Pfx) (f : Rrr)
  /-- VCVT (R186). Converts between formats of equal width. -/
  | vcvt (p : Pfx) (f : Rrr)
  /-- VNARROW (R186). Converts to a narrower format into one part of D. -/
  | vnarrow (p : Pfx) (f : Rrr)
  /-- VWIDEN (R186). Converts one part of A to a wider format. -/
  | vwiden (p : Pfx) (f : Rrr)
  /-- VQNT_SCALE (R187). Computes a block's XS8 scale code into a scalar register. -/
  | vqntScale (p : Pfx) (f : Rrr)
  /-- VQNT (R187). Quantises 128 elements into a block-scaled format. -/
  | vqnt (p : Pfx) (f : Rrr)
  /-- VDQNT (R188). Expands a block-scaled block into a float format. -/
  | vdqnt (p : Pfx) (f : Rrr)
  /-- VDSENC (R189). Encodes elements as DS8. -/
  | vdsenc (p : Pfx) (f : Rrr)
  /-- VDSMUL (R190). Multiplies by DS8 weights, optionally accumulating. -/
  | vdsmul (p : Pfx) (f : Rrr)
  /-- MDSA (R238). Sets a descriptor's A base and stride. -/
  | mdsa (p : Pfx) (f : Eng)
  /-- MDSB (R238). Sets a descriptor's B base and stride. -/
  | mdsb (p : Pfx) (f : Eng)
  /-- MDSK (R238). Sets a descriptor's K. -/
  | mdsk (p : Pfx) (f : Eng)
  /-- MDSS (R238). Sets a descriptor's scale offsets and modes. -/
  | mdss (p : Pfx) (f : Eng)
  /-- MMA (R242). Adds the matrix product into a tile under the bundle's profile. -/
  | mma (p : Pfx) (f : Eng)
  /-- MMAZ (R242). Writes the matrix product into a tile from zero. -/
  | mmaz (p : Pfx) (f : Eng)
  /-- MMAC (R246). Checked integer product with row and column sums. -/
  | mmac (p : Pfx) (f : Eng)
  /-- MMAR (R245). Resumes a stopped product from ROWPROG. -/
  | mmar (p : Pfx) (f : Eng)
  /-- MFRET (R248). Fret-counts a four-bit product into F. -/
  | mfret (p : Pfx) (f : Eng)
  /-- MFRETR (R250). Resumes a stopped fret count. -/
  | mfretr (p : Pfx) (f : Eng)
  /-- MPARK (R251). Parks F's counters in a bank of tiles. -/
  | mpark (p : Pfx) (f : Eng)
  /-- MUNPARK (R251). Restores a parked bank into F. -/
  | munpark (p : Pfx) (f : Eng)
  /-- MMERGE (R251). Adds a parked bank's counters into F. -/
  | mmerge (p : Pfx) (f : Eng)
  /-- MDRAIN (R252). Drains F's counts into a tile. -/
  | mdrain (p : Pfx) (f : Eng)
  /-- MFCLR (R251). Empties and releases F. -/
  | mfclr (p : Pfx) (f : Eng)
  /-- MZERO (R254). Zeroes a tile and its PSEQ. -/
  | mzero (p : Pfx) (f : Eng)
  /-- MRDV (R254). Reads a tile row into two vector registers. -/
  | mrdv (p : Pfx) (f : Eng)
  /-- MWRV (R254). Writes a tile row from two vector registers. -/
  | mwrv (p : Pfx) (f : Eng)
  /-- MDRAINP (R253). Sends a tile as an indexed contribution to a peer tile. -/
  | mdrainp (p : Pfx) (f : Eng)
  /-- MSTS (R255). Stores a tile to memory in a format. -/
  | msts (p : Pfx) (f : Eng)
  /-- MSTAT (R254). Reads tile or bank status into a scalar register. -/
  | mstat (p : Pfx) (f : Eng)
  /-- LD (R213). Loads a scalar. -/
  | ld (p : Pfx) (f : MemF)
  /-- LDAQ (R213). Loads a scalar with acquire. -/
  | ldaq (p : Pfx) (f : MemF)
  /-- LDF (R213). Loads from a frame slot. -/
  | ldf (p : Pfx) (f : MemF)
  /-- LDV (R213). Loads a vector. -/
  | ldv (p : Pfx) (f : MemF)
  /-- LDVS (R210). Loads 16 strided granules. -/
  | ldvs (p : Pfx) (f : MemF)
  /-- LDVX (R210). Gathers 32 elements. -/
  | ldvx (p : Pfx) (f : MemF)
  /-- LDVB (R210). Loads a scalar and broadcasts it. -/
  | ldvb (p : Pfx) (f : MemF)
  /-- QPOP (R215). Pops the oldest queue entry, blocking while the queue is empty. -/
  | qpop (p : Pfx) (f : MemF)
  /-- LDT (R214). Token-tracked scalar load. -/
  | ldt (p : Pfx) (f : MemF)
  /-- LDVT (R214). Token-tracked vector load. -/
  | ldvt (p : Pfx) (f : MemF)
  /-- ST (R213). Stores a scalar. -/
  | st (p : Pfx) (f : MemF)
  /-- STRL (R213). Stores a scalar with release. -/
  | strl (p : Pfx) (f : MemF)
  /-- STF (R213). Stores into a frame slot. -/
  | stf (p : Pfx) (f : MemF)
  /-- STV (R213). Stores a vector. -/
  | stv (p : Pfx) (f : MemF)
  /-- STVS (R210). Stores 16 strided granules. -/
  | stvs (p : Pfx) (f : MemF)
  /-- STVX (R210). Scatters 32 elements. -/
  | stvx (p : Pfx) (f : MemF)
  /-- QPUSH (R215). Appends to a queue, blocking while it is full. -/
  | qpush (p : Pfx) (f : MemF)
  /-- AMOADD (R216). Atomic add returning the old value. -/
  | amoadd (p : Pfx) (f : MemF)
  /-- AMOMIN (R216). Atomic signed minimum. -/
  | amomin (p : Pfx) (f : MemF)
  /-- AMOMAX (R216). Atomic signed maximum. -/
  | amomax (p : Pfx) (f : MemF)
  /-- AMOMINU (R216). Atomic unsigned minimum. -/
  | amominu (p : Pfx) (f : MemF)
  /-- AMOMAXU (R216). Atomic unsigned maximum. -/
  | amomaxu (p : Pfx) (f : MemF)
  /-- AMOAND (R216). Atomic AND. -/
  | amoand (p : Pfx) (f : MemF)
  /-- AMOOR (R216). Atomic OR. -/
  | amoor (p : Pfx) (f : MemF)
  /-- AMOXOR (R216). Atomic XOR. -/
  | amoxor (p : Pfx) (f : MemF)
  /-- AMOSWAP (R216). Atomic swap. -/
  | amoswap (p : Pfx) (f : MemF)
  /-- AMOCAS (R216). Atomic compare-and-swap against D. -/
  | amocas (p : Pfx) (f : MemF)
  /-- AMOFADD (R216). Atomic F32 add. -/
  | amofadd (p : Pfx) (f : MemF)
  /-- CDSET (R218). Sets one level of a shape register. -/
  | cdset (p : Pfx) (f : Cpy)
  /-- CDFMT (R218). Sets a shape register's FMT and ROA. -/
  | cdfmt (p : Pfx) (f : Cpy)
  /-- CPY (R220). Issues a shaped copy on a channel. -/
  | cpy (p : Pfx) (f : Cpy)
  /-- CPYM (R223). Multicasts a shape to several scratchpads, trapping on a bank conflict. -/
  | cpym (p : Pfx) (f : Cpy)
  /-- CPYR (R222). Copies ragged rows using a row-offset array. -/
  | cpyr (p : Pfx) (f : Cpy)
  /-- CHAIN (R225). Walks a list of transfer records. -/
  | chain (p : Pfx) (f : Cpy)
  /-- CPYW (R226). Writes 8 bytes after older operations of the channel complete. -/
  | cpyw (p : Pfx) (f : Cpy)
  /-- LXFER (R229). Transfers a shape to another chiplet. -/
  | lxfer (p : Pfx) (f : Cpy)
  /-- LXRED (R305). Adds a shape into another chiplet's destination indivisibly. -/
  | lxred (p : Pfx) (f : Cpy)
  /-- XAMO (R228). Performs an atomic through the copy engine. -/
  | xamo (p : Pfx) (f : Cpy)
  /-- CABORT (R227). Stops the context's operations on a channel. -/
  | cabort (p : Pfx) (f : Cpy)
  /-- TKWAIT (R263). Blocks until the named tokens have fired, then consumes them. -/
  | tkwait (p : Pfx) (f : Syn)
  /-- TKPOST (R264). Fires a token locally or remotely as a release. -/
  | tkpost (p : Pfx) (f : Syn)
  /-- TKCLR (R265). Clears FIRE of the named tokens. -/
  | tkclr (p : Pfx) (f : Syn)
  /-- BARA (R277). Adds one arrival to a barrier as a release. -/
  | bara (p : Pfx) (f : Syn)
  /-- BARW (R279). Blocks until the barrier has passed a phase. -/
  | barw (p : Pfx) (f : Syn)
  /-- BARX (R277). Adds expected bytes to a barrier. -/
  | barx (p : Pfx) (f : Syn)
  /-- DRAIN (R271). Blocks until earlier accesses, and with eng the engine operations, have performed. -/
  | drain (p : Pfx) (f : Syn)
  /-- FENCE (R272). Orders earlier against later accesses by kind. -/
  | fence (p : Pfx) (f : Syn)
  /-- BREL (R288). Releases held banks, giving them back with give. -/
  | brel (p : Pfx) (f : Syn)
  /-- BACQ (R287). Blocks until banks are owned and free of tails, then holds them. -/
  | bacq (p : Pfx) (f : Syn)
  /-- CHKEQ (R292). Traps with cause 0x0E if two scalars differ. -/
  | chkeq (p : Pfx) (f : Syn)
  /-- CHKV (R292). Traps with cause 0x0E if two vectors differ. -/
  | chkv (p : Pfx) (f : Syn)
  /-- CHKA (R292). Checks the L or T slot's effective address. -/
  | chka (p : Pfx) (f : Syn)
  /-- VOTE (R292). Votes among three values, correcting register A and scoring the wrong unit. -/
  | vote (p : Pfx) (f : Syn)
  /-- RACQ (R281). Acquires a ring stage as producer or consumer, blocking until it is available. -/
  | racq (p : Pfx) (f : Syn)
  /-- RREL (R282). Releases a ring stage. -/
  | rrel (p : Pfx) (f : Syn)
  /-- REOS (R283). Declares a producer's end of stream. -/
  | reos (p : Pfx) (f : Syn)
  /-- SLACK (R115). Sets the slip budget. -/
  | slack (p : Pfx) (f : Syn)
  /-- TWAIT (R293). Blocks until CT reaches a value. -/
  | twait (p : Pfx) (f : Syn)
  /-- PHASE (R291). Switches the phase kind, optionally arriving at and waiting on a barrier. -/
  | phase (p : Pfx) (f : Syn)
  /-- TEVT (R293). Appends a program event to the Tablature log. -/
  | tevt (p : Pfx) (f : Syn)
  /-- UIEN (R293). Sets the user-interrupt enable. -/
  | uien (p : Pfx) (f : Syn)
  /-- HART_INSTRUCTION (R230). A loader or storer hart executes an ordinary RV32IMC instruction, including its data-store and scratchpad loads and stores. -/
  | hartInstruction (h : RvForm)
  /-- EMPTY_BUNDLE (R76). A bundle whose slots are all empty, or whose Y slot is prefix-only, issues; it advances the PC and loop boundaries and applies RA, but writes nothing. -/
  | emptyBundle (p : Pfx)
  /-- TOKEN_ARRIVAL (R19). A token for a node slot reaches the graph engine. The engine tests it in the order of R19: it is discarded, counted as misrouted, dropped on overflow, or counted. -/
  | tokenArrival
  /-- RELEASE_TICK (R20). The schedule tick reaches a timetabled node's release tick (FSTART + RELEASE), and its ready condition is evaluated. -/
  | releaseTick
  /-- FRAME_START (R27). A framed graph starts frame f + 1 at the later of FSTART + PERIOD and the tick after its last blocking node ends; FSTART and FRAMENO are updated and the frame-start transitions of Table 2-4 are applied. -/
  | frameStart
  /-- MIRROR_COMPLETE (R344). The mirror write at the buddy finishes and DONE is set in the slot header with release at package scope; checkpointed nodes held by the snapshot may then become ready. -/
  | mirrorComplete
  /-- DEADLINE_MISS (R28). Tick FSTART + DEADLINE arrives while a DL = 1 node is armed, ready, running or retrying; a deadline-miss slip is logged, SLIPS increases, and cause 0x1F is delivered when DLTRAP = 1. -/
  | deadlineMiss
  /-- STRETCH_FAULT (R29). The stretch of a waiting frame first exceeds STRETCH; a stretch fault is reported to the Bridge once per frame, a slip event is logged and QEVT.STRETCH is set. -/
  | stretchFault
  /-- NODE_COMPLETION (R349). When HALT has committed on every member, all operations have landed, tokens have fired and both harts and their copies are finished, the node becomes done and writes STAMP and FRAME. A Tablature record is appended, successor tokens are sent and resources are returned. -/
  | nodeCompletion
  /-- NODE_FAULT_REPORT (R23). A fault report for a running node (kill, uncorrectable error, trap at level 2, stretch) moves the node to failed, writes FCAUSE, RROW and RVALID, and applies its POLICY. -/
  | nodeFaultReport
  /-- CONE_WALK_COMPLETE (R24). The last cone node has been visited and every pre-emption in the cone has finished. GSTATE returns to 1 or 3, CANCELS increases, held tokens are applied, and the root and cancelled nodes move per Table 2-4. -/
  | coneWalkComplete
  /-- CANCEL_MESSAGE (R24). A cancel message from another graph's cone walk arrives. It waits behind any walk in progress, then walks the cone rooted at the target node, re-arming at completion when it is marked retry. -/
  | cancelMessage
  /-- NODE_PLACEMENT (R60). At most once every 8 CT counts, the dispatcher serves the ready-queue heads by FIT and places a node, or makes it the reserving head. -/
  | nodePlacement
  /-- CURRENT_GRANT (R69). The current-budget client grants a waiting class request, in priority order or under the ISHARE rule, once its current fits in the free quota. -/
  | currentGrant
  /-- CURRENT_SHORTFALL (R69). A request that has waited 2,000 CT counts makes the client choose lower-priority victims over ISHARE and pre-empt them. -/
  | currentShortfall
  /-- QUOTA_CHANGE (R68). The quorum lowers or sets a chiplet's core quota, doing so only once the grants held fall below the new quota. -/
  | quotaChange
  /-- INSTRUCTION_BLOCK_FILL (R71). A missing 4 KiB image block is filled into the instruction store, evicting the least recently fetched block, and the waiting context becomes ready. -/
  | instructionBlockFill
  /-- NODE_START (R10). After tokens, release, allotment and grant, the node's first bundle issues. The scalar registers and the NODE and ROWPROG special registers are set, the harts start, and the record shows running. -/
  | nodeStart
  /-- CONTEXT_SAVE (R322). At a pre-emption point the context drains, and then its state is written to its save record. Its resources are released and the node returns to ready. -/
  | contextSave
  /-- CONTEXT_RESTORE (R323). A resumed node's record is restored at the same bases, F is reclaimed, objects are re-registered and the harts are restarted before its first bundle. -/
  | contextRestore
  /-- SPARE_SUBSTITUTION (R56). The Bridge remaps a logical core to a spare: it pre-empts or kills the nodes on it, writes PCORE and RETIRED, and initialises the spare. -/
  | spareSubstitution
  /-- QUARANTINE (R333). A tripped SUSPECT score makes the Bridge substitute a spare within 100 µs; nodes with a loader or storer are killed with FCAUSE 0x0E. -/
  | quarantine
  /-- PARTITION_RESET (R67). A write of 1 to bit p of PRST resets partition p: its ports stop, its graphs stop, its contexts are killed, grants are released and its memories are zeroed. -/
  | partitionReset
  /-- RESULT_LANDING (R109). An operation's register result lands in its destination, per 32-bit group, within its bound; older writes that land late are discarded. -/
  | resultLanding
  /-- SLOT_QUEUE_ACCEPT (R111). A queued M, L, T or C operation is accepted by its unit after every older entry of its queue, which lowers the slip. -/
  | slotQueueAccept
  /-- TRANSLATION_WALK (R203). The chiplet walker answers a translation-cache miss by walking the partition's page tables; it then fills the cache or reports a fault. -/
  | translationWalk
  /-- MIGRATION_REWALK (R206). Every 1,500 CT counts on the requester's own clock, a walk that found V = 0 with MG = 1 is repeated. -/
  | migrationRewalk
  /-- MIGRATION_TIMEOUT (R206). A requester that has waited 1,500,000 CT counts on a migrating entry faults with cause 0x09. -/
  | migrationTimeout
  /-- TLBINV_COMPLETE (R205). A TLBINV completes once the covered entries are gone and every access and chunk translated under them has performed; its token fires. -/
  | tlbinvComplete
  /-- ACCESS_ABORT (R212). An abort completion of an L or T access arrives and is queued as an asynchronous cause 0x0F; an LDT or LDVT token clears PEND without firing. -/
  | accessAbort
  /-- COPY_START (R220). A queued copy, chain, XAMO or link transfer starts once every KI token has fired, and it consumes them. -/
  | copyStart
  /-- COPY_CHUNK (R220). One chunk of at most 4 KiB is translated and performs. It credits barriers and rings of the target banks, or stops the copy on a fault. -/
  | copyChunk
  /-- CHAIN_RECORD (R225). CHAIN reads the next transfer record with acquire, copies it, clears OWN with release and moves to NEXT, or ends the chain. -/
  | chainRecord
  /-- COPY_COMPLETE (R220). A copy whose chunks have all performed completes in channel order: CHWM advances, KO fires, and a user interrupt is raised when UN is set. -/
  | copyComplete
  /-- MULTICAST_CREDIT (R224). With MC = 1, the barrier and ring credits of a CPYM are applied in every target at the first CT that is a multiple of 32 after the last byte lands. -/
  | multicastCredit
  /-- ENGINE_OP_START (R240). An accepted M operation starts once its KI tokens have fired and F is free; it consumes the tokens and reads its operands. -/
  | engineOpStart
  /-- FRET_AUTO_DRAIN (R249). After each 128-step block of a K-blocked MFRET, F drains into the tile under the block's scales and is emptied. -/
  | fretAutoDrain
  /-- ENGINE_OP_COMPLETE (R240). An M operation finishes: its tile or bank writes become visible, its flags are set and its KO token fires. -/
  | engineOpComplete
  /-- ENGINE_OP_STOP (R244). An operand read of a streaming operation aborts, or MMAC mismatches; the destination is left per Table 12-6, younger M operations are held and cause 0x17 is raised. -/
  | engineOpStop
  /-- PEER_CONTRIBUTION (R253). An MDRAINP contribution arrives at the target tile and is added in contributor order, held in the peer buffer, or refused. -/
  | peerContribution
  /-- TOKEN_POST_ARRIVAL (R264). A remote post or hart post reaches the target context and increases FIRE, or is discarded at an idle context. -/
  | tokenPostArrival
  /-- REMOTE_OBJECT_OPERATION (R259). A barrier or ring operation from another core reaches the object's home core and is applied there, refused, or held while the object is frozen. -/
  | remoteObjectOperation
  /-- OBJECT_REGISTRATION (R276). An operation naming an unregistered object registers it as a barrier or ring, waiting for a free entry when 32 are held. -/
  | objectRegistration
  /-- ZML_RECEIVE (R301). A ZML message arrives and is checked: it is discarded with or without a NAK, executed and acknowledged, acknowledged again as a duplicate, or counted as a gap. -/
  | zmlReceive
  /-- ZML_ACK_RECEIVE (R302). A class-7 acknowledgement releases an unacknowledged message, delivers an old value for class 3, and frees window room for a waiting request. -/
  | zmlAckReceive
  /-- ZML_NAK_RECEIVE (R301). A NAK makes the sender resend every unacknowledged message of the class in order, from the sequence named. -/
  | zmlNakReceive
  /-- ZML_RESEND_TIMEOUT (R300). A message unacknowledged for 12,000 CT counts is resent, up to three times; after that it has failed. -/
  | zmlResendTimeout
  /-- READ_RESPONSE_TIMEOUT (R380). A remote read whose response has not arrived within 60,000 active CT counts of its request's acknowledgement fails with cause 0x15. -/
  | readResponseTimeout
  /-- FLIT_REPLAY (R294). A flit that fails the UCIe CRC is replayed by link-level retry, invisibly to ZML, and CRCE is counted. -/
  | flitReplay
  /-- LINK_RETRAIN (R295). Failed lanes make the link retrain, repairing the lanes or degrading to x32; flits are held and acknowledgement timers stop. -/
  | linkRetrain
  /-- RETRAIN_COMPLETE (R295). The link becomes active again at x64 or x32, and held flits and timers resume. -/
  | retrainComplete
  /-- LINK_DOWN (R295). A retrain that has not succeeded within 60,000 CT counts leaves the link down; its messages fail and link failure is reported. -/
  | linkDown
  /-- TRAP_ASYNC (R308). At a bundle boundary an arrived asynchronous fault (0x0F, 0x15, 0x17, 0x12, 0x01, 0x1F) is taken as a trap. -/
  | trapAsync
  /-- LATE_WRITE_REPLAY (R314). After TRET, a captured late-write entry lands within its remaining count, or is discarded if the handler wrote the register. -/
  | lateWriteReplay
  /-- USER_INTERRUPT (R319). With EN set, INH clear, TL 0 and a PEND bit set, the context enters its user-interrupt handler at VEC. -/
  | userInterrupt
  /-- STEP_TRAP (R326). With STEP set, a bundle committing at TL 0 is followed by a trap of cause 0x1A, after drain when SDRAIN is set. -/
  | stepTrap
  /-- SCRUB_READ (R330). The scrubber reads the next DRAM or SRAM sector on its schedule and records any error found. -/
  | scrubRead
  /-- SCRUB_WRITEBACK (R330). A queued corrected sector is written back only if no other write has performed since the read. -/
  | scrubWriteback
  /-- SUSPECT_DECAY (R332). Every 15,000,000,000 CT counts, each nonzero SUSPECT score decreases by 1. -/
  | suspectDecay
  /-- SCAN_START (R334). The Bridge starts a 200 µs scan of an idle logical core or spare, and CSTATE becomes 1. -/
  | scanStart
  /-- SCAN_COMPLETE (R335). A scan passes and the core is reinitialised, or fails and the core is retired and substituted. -/
  | scanComplete
  /-- SCAN_OVERDUE (R334). A logical core left unscanned for more than 60 s logs a slip event of kind scan overdue. -/
  | scanOverdue
  /-- HEARTBEAT_SEND (R338). Every 75,000 CT counts each Bridge sends a heartbeat over the sideband. -/
  | heartbeatSend
  /-- HEARTBEAT_MISSED (R338). Three missed heartbeats make evidence against the silent Bridge. -/
  | heartbeatMissed
  /-- RAIL_FAULT (R377). A rail outside 0.68 to 0.83 V for 1,500 CT counts, a PLL loss of lock or a missing reference is detected as evidence against the chiplet. -/
  | railFault
  /-- LOCKSTEP_MISMATCH (R338). A Bridge lockstep disagreement halts the Bridge and accuses its own chiplet. -/
  | lockstepMismatch
  /-- EVIDENCE_RECEIVE (R338). A voter receives evidence from another voter, holds it as its own, and for the host writes an evidence record and fires vector 1. -/
  | evidenceReceive
  /-- PROPOSAL (R340). The coordinator, 20 µs after the first evidence, proposes a healthy mask, a level and a carrier binding. -/
  | proposal
  /-- COORDINATOR_TIMEOUT (R340). A coordinator that has not proposed within 40 µs is passed over, and the next Bridge proposes. -/
  | coordinatorTimeout
  /-- BRIDGE_VOTE (R340). A Bridge votes yes or no on a proposal by comparing it with its own view; the third yes passes the decision. -/
  | bridgeVote
  /-- VOTE_TIMEOUT (R340). 150 µs after a proposal, uncast votes are settled; a proposal with fewer than 3 yes votes fails and another is made. -/
  | voteTimeout
  /-- MIRROR_RESTORE (R346). Carriers copy the newest mirror slots into place with wide-lossless transfers and start the new level's graphs, or start them cold. -/
  | mirrorRestore
  /-- SPARE_ROTATION (R345). Every 10 s at level 3, the spare takes one carrier's place at its graphs' next frame start, or rotation is suspended with ROTSUS set. -/
  | spareRotation
  /-- CT_SAMPLE_SEND (R353). Every 150,000 counts the lead chiplet sends its CT over the sideband. -/
  | ctSampleSend
  /-- CT_DISCIPLINE (R353). A follower measures its offset from the lead's sample, slews and trims its rate, and sets CTOK, or clears it and reports a clock fault. -/
  | ctDiscipline
  /-- DROOP_THROTTLE (R376). A droop monitor below 0.70 V drops the core clock to 750 MHz within 10 CT counts and counts DROOPS. -/
  | droopThrottle
  /-- DROOP_RELEASE (R376). After 1,500 counts with every monitor at or above 0.72 V, the clock returns to 1.5 GHz. -/
  | droopRelease
  /-- TEMPERATURE_SAMPLE (R378). Every 1,500 CT counts the hottest sensor sets TSTATE, halving matrix caps, withholding class 5 to 7 grants, or tripping the rail. -/
  | temperatureSample
  /-- LOG_HOLD_RELEASE (R358). Decision points stalled under the hold policy proceed once FREE exceeds 64, and each writes its record with the current CT. -/
  | logHoldRelease
  /-- REPLAY_HOST_POST (R360). A logged host post is applied at its CT shifted to the replay's start. -/
  | replayHostPost
  /-- HOST_TOKEN_POST (R42). A host write to a token port is accepted or rejected; an accepted write posts COUNT tokens to every slot fed by the port. -/
  | hostTokenPost
  /-- DATA_WINDOW_WRITE (R38). A host write through the data window is performed into DRAM or the aperture, or discarded and counted in WDISC. -/
  | dataWindowWrite
  /-- DATA_WINDOW_READ (R38). A host read through the data window returns data, or completes with Unsupported Request or Completer Abort. -/
  | dataWindowRead
  /-- ENDPOINT_RESET (R41). A Function Level Reset, hot reset or link loss resets only the endpoint, its port registers and its MSI-X state. -/
  | endpointReset
  /-- MSIX_UNMASK (R40). Unmasking an MSI-X vector whose pending bit is set fires the vector. -/
  | msixUnmask
  /-- HVOTE_WRITE (R50). The host casts its vote on the pending proposal, or the write is discarded. -/
  | hvoteWrite
  /-- QEVT_WRITE (R50). Writing 1 to the W1C bits of QEVT clears EVID, DEC, STRETCH or ROTSUS. -/
  | qevtWrite
  /-- LOAD (R47). The mailbox LOAD command checks, seals, copies and hashes an image container, updating the measurement or zero-filling the destination. -/
  | load
  /-- UNSEAL (R49). The mailbox UNSEAL command unseals an image that nothing names, or returns status 1. -/
  | unseal
  /-- QUOTE (R54). The mailbox QUOTE command writes a signed 2,940-byte attestation quote, or returns code 10 when the signature index is exhausted. -/
  | quote
  /-- JOIN (R49). The mailbox JOIN command makes the host a member of the quorum and sets HSTAT.QUORUM. -/
  | join
  /-- TTSET (R51). The mailbox TTSET command installs task-type entries from a sealed KIND 5 segment. -/
  | ttset
  /-- TSSTART (R49). The mailbox TSSTART command checks a task set and the partition table, enables token ports, selects a level and starts the graphs. -/
  | tsstart
  /-- SVNRAISE (R49). The mailbox SVNRAISE command raises a KIND's fused minimum SVN when a sealed image carries that SVN. -/
  | svnraise
  /-- LEVELCAP (R52). The mailbox LEVELCAP command caps the service level through a quorum decision. -/
  | levelcap
  /-- MAILBOX_COMPLETION (R49). A mailbox command finishes: BUSY clears, the status is written and vector 0 fires. -/
  | mailboxCompletion
  /-- CHIPLET_RESET (R53). Reset release starts a chiplet's bring-up sequence and clears its Yestan keys and task-type table. -/
  | chipletReset
  /-- BRIDGE_ROM_CHECK (R53). The Bridge ROM's lockstep check, PLL lock and fuse read complete, and ROMOK is set. -/
  | bridgeRomCheck
  /-- PCIE_LINK_TRAINED (R53). The PCIe link trains, and configuration requests are answered instead of receiving retry status. -/
  | pcieLinkTrained
  /-- DRAM_TRAINED (R53). DRAM is trained and ECC-initialised, DRAMOK is set and the data window becomes live. -/
  | dramTrained
  /-- UCIE_LINKS_TRAINED (R53). The UCIe links and sideband come up, setting LINKS, and CT discipline to the lowest chiplet up begins. -/
  | ucieLinksTrained
  /-- WATERMARK_ARM (R351). A write of WMNv arms a channel watermark, firing its vector at once when the target is already met. -/
  | watermarkArm
  /-- TABLATURE_OFF (R357). Writing TBCTL.MODE 0 stops recording or replay, resets SEQ and clears HOLD. -/
  | tablatureOff
  /-- TABLATURE_RECORD (R357). Writing TBCTL.MODE 1 starts recording, resets SEQ and clears HOLD. -/
  | tablatureRecord
  /-- TABLATURE_REPLAY (R360). Writing TBCTL.MODE 2 starts replay from RD, so that the decision points of the partitions in PARTREC follow the log. -/
  | tablatureReplay
  /-- TBRD_WRITE (R357). The host sets RD to consume records; a value outside range is ignored, and FREE may rise. -/
  | tbrdWrite
  /-- TBSTAT_WRITE (R357). Writing 1 to the W1C bits of TBSTAT clears REND, DIV or TRUNC. -/
  | tbstatWrite
  /-- WDISC_READ (R37). A read of WDISC returns the discarded-write count and clears COUNT. -/
  | wdiscRead
  /-- ERRSTAT_READ (R329). A read of ERRSTAT returns and clears the CORR and UNC counts. -/
  | errstatRead
  /-- LKCNT_READ (R296). A read of LKCNT returns and clears the link error, resend and duplicate counts. -/
  | lkcntRead
  /-- TBWR_READ (R357). A read of TBWR returns and clears LOST. -/
  | tbwrRead
  /-- TEMP_READ (R379). A read of TEMPn returns MAX, and MAX then clears to its reset value. -/
  | tempRead
  /-- VMON_READ (R379). A read of VMONn returns MIN, and MIN then clears to its reset value. -/
  | vmonRead
  /-- PWRSTAT_READ (R379). A read of PWRSTAT returns and clears DROOPS. -/
  | pwrstatRead
  /-- DBGCTL_READ (R325). A resident read of DBGCTL returns and clears STEPPED. -/
  | dbgctlRead
  /-- REGISTER_WRITE (R4). A write to any register without behaviour of its own stores its RW fields and ignores RO fields. -/
  | registerWrite
  /-- HART_ECALL (R230). A hart ecall with a0 = 0 finishes the hart; any other a0 stops it and fails the node. -/
  | hartEcall
  /-- NOMINAL_FRAME_END (R27). Tick FSTART + PERIOD arrives while a blocking node of the frame has not yet become done, failed or cancelled, so GSTATE becomes 3 and the frame waits. -/
  | nominalFrameEnd
  /-- SPARE_SELF_TEST (R345). The chiplet-wide tests that a spare chiplet runs end, and a failure becomes evidence against that chiplet. -/
  | spareSelfTest
  /-- READMISSION (R337). A closed chiplet that has been reset, brought up and has passed its full core scan and DRAM pattern test becomes eligible, and a quorum decision naming it healthy follows. -/
  | readmission
  /-- UNKNOWN_COMMAND (R49). A doorbell write submits a request whose command code is not in Table 3-5 and completes with status 11. -/
  | unknownCommand
  /-- DOORBELL_OVERRUN (R49). A doorbell write while BUSY is 1 is discarded and sets OVR in the status word. -/
  | doorbellOverrun
  -- END CONSTRUCTORS
  deriving DecidableEq, Repr

end Sys2Proof
end

