-- ==== Sys2Proof/Machine/State.lean ====
section
/-!
DEFINITION. The state of the package: contexts, cores, chiplets, memory, and the agenda that says which agent moves
next. Plain data throughout; INVENTORY.md lists each field with the rule that names it and its value at reset.
-/
namespace Sys2Proof.Machine
open Sys2Proof

/-! ## Contexts -/

/-- The context states of Table 6-1 (R106). -/
inductive CtxSt where | idle | ready | active | blocked | draining
  deriving DecidableEq, Repr

/-- A register destination bound to its physical register (R109): an entry of the context's scalar registers, a
physical vector register of the core, or a mask register. -/
inductive Dest where
  | s (n : Nat)
  | v (n : Nat)
  | m (n : Nat)
  deriving DecidableEq, Repr

/-- A register write in flight (R109, R110). `val` holds the new bytes of the byte lanes set in `lanes` (bits for a mask register); `groups` are
the 32-bit groups that have not landed. `ready` says that the value has arrived. `t` is the issue cycle, `acc` the
cycle of acceptance, none until the unit has accepted the operation (R111), `bound` the bound of the LAT code, 0 for token-tracked, and `lvl` the trap level of the
code that issued it (R313). `hold` says that the write is not captured at a trap entry (R313). `fl` holds the flags
that are set when the result lands (R139). -/
structure Write where
  id     : Nat
  dest   : Dest
  val    : VReg
  lanes  : BitVec 128
  groups : BitVec 32
  ready  : Bool
  t      : Nat
  acc    : Option Nat
  bound  : Nat
  lvl    : Nat
  hold   : Bool
  fl     : BitVec 7
  deriving DecidableEq, Repr

/-- An entry of the late-write buffer (R313): a captured write, its remaining count and its level tag, and the cycle in which its
trap was decided. -/
structure Late where
  w   : Write
  rem : Nat
  tag : Nat
  cy  : Nat
  deriving DecidableEq, Repr

/-- An open loop level (R117 to R119, R155, R156). `tag` is the trap level, the user-handler flag and the call depth
of the code that opened it: a level whose tag is not the running code's is suspended. `serve` says that its current
iteration is the last because a pre-emption request is served (R121). `buf` is the loop buffer, by bundle index: the bundles
fetched while the level is the outermost active one (R118). -/
structure Loop where
  loopPc  : Nat
  last    : Nat
  trip    : Nat
  iter    : Nat
  forced  : Bool
  serve   : Bool
  tag     : Nat × Bool × Nat
  strides : List (Nat × W64)
  buf     : SMap (List W64)
  deriving DecidableEq, Repr

/-- A token (R260). -/
structure Token where
  fire : Nat
  pend : Bool
  deriving DecidableEq, Repr

/-- The user-interrupt registers (R318). `pend` holds PEND[7:0]. -/
structure UserInt where
  en   : Bool
  inh  : Bool
  pend : Nat
  vec  : W32
  pc   : W32
  deriving DecidableEq, Repr

/-- The trap registers that exist once per level (R310). -/
structure TrapRegs where
  cause : W64
  ret   : W64
  val   : W64
  mask  : W64
  deriving DecidableEq, Repr

/-- What a trap reports (R310): cause, own cause, token, asynchronous, slots, value. -/
structure TrapInfo where
  cause : Nat
  own   : Nat
  tok   : Nat
  isAsync : Bool
  slots : Nat
  value : W64
  deriving DecidableEq, Repr

/-- A loop level closed for pre-emption (R121): its LOOP bundle, its tag, the resume count and the strides that its reopening
restores (R156). -/
structure Closed where
  pc      : Nat
  tag     : Nat × Bool × Nat
  count   : Nat
  strides : List (Nat × W64)
  deriving DecidableEq, Repr

/-- An asynchronous fault that has arrived and is not yet taken (R308, R316), with the ROWPROG that taking it writes
(R244). `id` is the identity of the operation, in issue order, `bundle` its bundle, `cy` the core cycle in which the fault
arrived; `id` is 0 for causes 0x12 and 0x1F. -/
structure AsyncFault where
  cause : Nat
  own   : Nat
  tok   : Nat
  slots : Nat
  value : W64
  rp    : Option W64
  id    : Nat
  bundle : Option Nat
  cy    : Nat
  deriving DecidableEq, Repr

/-- One shape register (R217): COUNT, SSTR and DSTR of levels 0 to 5, FMT and ROA. -/
structure Shape where
  count : List Nat
  sstr  : List Int
  dstr  : List Int
  fmt   : W64
  roa   : Nat
  deriving DecidableEq, Repr

/-- What an L or T access does with memory (R213 to R216). Sizes are in bytes; `pieces` of the access say where. -/
inductive AccKind where
  | load (signed : Bool) (bytes : Nat)
  | bcast (bytes : Nat)
  | loadV
  | store
  | amo (op : Nat) (bytes : Nat)
  | qpop (q : Nat)
  | qpush (q : Nat)
  deriving DecidableEq, Repr

/-- One separate access of an L or T operation: physical address, register byte offset, bytes (R210). -/
structure Piece where
  pa  : Nat
  off : Nat
  len : Nat
  deriving DecidableEq, Repr

/-- An L or T operation, its operands read and its addresses translated (R111). -/
structure Access where
  id     : Nat
  bundle : Nat
  kind   : AccKind
  pieces : List Piece
  va     : W64
  data   : VReg
  opnd   : W64
  expect : W64
  dest   : Option Dest
  scope  : Nat
  acq    : Bool
  rel    : Bool
  isLocal : Bool
  part   : Nat
  res    : Bool
  tok    : Nat
  lvl    : Nat
  /-- pieces sent to another chiplet and not answered, pieces performed, and the cause of an abort (0 none) -/
  sent   : List Nat
  done   : List Nat
  aborted : Nat
  /-- the widest scope at which a release or a fence has passed it, plus 1 (0 none): a read by an agent of that scope waits for
  it (R268, R270) -/
  seen   : Nat
  /-- the bound of the LAT code and the cycle of acceptance, from which it counts (R111) -/
  bound  : Nat
  acc    : Option Nat
  deriving DecidableEq, Repr

/-- A pending FENCE (R272): the identity of its bundle, its kind. -/
structure FenceMark where
  bundle : Nat
  kind   : Nat
  scope  : Nat
  deriving DecidableEq, Repr

/-- A parked bank (R247, R251): whether it is parked, its depth and its operand pair. -/
structure Parked where
  parked : Bool
  depth  : Nat
  pair   : Nat
  deriving DecidableEq, Repr

/-- What a load pipe has read of an operand (R239, R244): the bytes, or the cause that kept them from being read, with the
uncorrectable sector if that is it. -/
structure Got where
  bytes  : List Byte
  cause  : Nat
  sector : Option Nat
  deriving DecidableEq, Repr

/-- An M operation (R240): its fields, what it read at issue, and how far it has come. -/
structure EngOp where
  id      : Nat
  bundle  : Nat
  ctx     : Nat
  op      : Nat
  f       : Eng
  prof    : Nat
  scope   : Nat
  part    : Nat
  res     : Bool
  dom     : Option Nat
  lvl     : Nat
  desc    : BitVec 256
  /-- the scalar register named by SP, and the vector registers of MWRV, as read at issue -/
  sp      : W64
  vdat    : List VReg
  /-- the first K step (R245, R250), the tile of the core's accumulator store that AD names (the first of a bank's), and the
  status that MSTAT found for a bank -/
  k0      : Nat
  tile    : Nat
  stat    : W64
  /-- the register writes of MRDV and MSTAT -/
  wids    : List Nat
  /-- CD is to be set at completion (R248, R251); the pair of F's counts (R247); the depth of the bank (R251) -/
  cd      : Bool
  pair    : Nat
  dn      : Nat
  started : Bool
  /-- the bound, with the term of the K steps, 0 for LAT 15, and the cycle of acceptance, from which it counts (R234) -/
  bound   : Nat
  acc     : Option Nat
  /-- the reads and stores that wait for a migrating page, by address, with the CT of the first finding (R206) -/
  migs    : List (Nat × Nat)
  /-- the operand pieces read, by address, 2^48 more for B; every operand has been read; stores and contributions sent to another chiplet
  and not answered (R299, R380) -/
  got     : SMap Got
  loaded  : Bool
  outs    : List Nat
  /-- rows of A and columns of B as read at start, their scale bytes, the K steps readable, the abort met -/
  aRows   : List Nat
  bRows   : List Nat
  aScl    : List Nat
  bScl    : List Nat
  kOk     : Nat
  abort?  : Option (Nat × W64)
  /-- blocks drained (R249), or 1 when a peer contribution has been added; the tile as read for a peer (R253); flags -/
  blk     : Nat
  cells   : List Nat
  fl      : BitVec 7
  deriving DecidableEq, Repr

/-- The kinds of copy-engine operation (R219, R232). -/
inductive CopyKind where
  | cpy | cpym | cpyr | chain | cpyw | lxfer | lxred | xamo | cabort
  deriving DecidableEq, Repr

/-- One chunk of a copy (R220): the level-0 run it belongs to, the offset in the run and the length, where its bytes come
from and go to, the target core of a multicast, and how far it is: 0 a read from another chiplet is under way, 1 a
write to another chiplet is under way, 2 performed, 3 to 5 reads and writes of chain records and row offsets, 6 given up. -/
structure Chunk where
  run   : Nat
  off   : Nat
  len   : Nat
  tgt   : Nat
  spa   : Nat
  dpa   : Nat
  stage : Nat
  deriving DecidableEq, Repr

/-- A copy-engine operation (R219 to R232): what it read at issue, and how far it has come. -/
structure CopyOp where
  id     : Nat
  bundle : Nat
  ctx    : Nat
  /-- submitted by a hart: 0 the loader, 1 the storer -/
  hart   : Option Nat
  kind   : CopyKind
  ch     : Nat
  src    : W64
  dst    : W64
  shape  : Shape
  shapes : SMap Shape
  rows   : List Nat
  ko     : Nat
  kis    : List Nat
  mc     : Bool
  rg     : Bool
  un     : Bool
  wl     : Bool
  aop    : Nat
  w32    : Bool
  scope  : Nat
  part   : Nat
  res    : Bool
  dom    : Option Nat
  lvl    : Nat
  /-- CTL.POST: context and token; CTL.RREL: ring descriptor and stage (R232) -/
  post   : Option (Nat × Nat)
  rrel   : Option (Nat × Nat)
  started : Bool
  /-- the chunks moved or under way, and bytes that an unordered copy of another channel wrote meanwhile (R221) -/
  chunks : List Chunk
  foreign : List (Nat × Nat)
  /-- the bytes that the records of a chain already done have written (R225) -/
  wrote  : List (Nat × Nat)
  /-- the chain record being copied: its address, source, destination and shape register -/
  rec?   : Option (Nat × Nat × Nat × Nat)
  nextRec : Nat
  ended  : Bool
  aborted : Bool
  stop?  : Option (Nat × Nat)
  /-- the chunks that wait for a migrating page, by target, run and offset, with the CT of the first finding (R206) -/
  migs   : List (Nat × Nat × Nat × Nat)
  /-- the chiplet of a link transfer's destination (R303) -/
  home   : Option Nat
  /-- a multicast's target cores; the credits held back, as addresses and byte counts (R224); the banks held for the
  landing, as core, bank and bytes still to land (R223) -/
  targets : List Nat
  credits : List (Nat × Nat)
  holds   : List (Nat × Nat × Nat)
  opnd   : W64
  expect : W64
  old    : W64
  /-- flags that completion sets (R139), and the time of a transfer scheduled with TWAIT (R304) -/
  fl     : BitVec 7
  sched  : Option Nat
  deriving DecidableEq, Repr

/-- The two kinds of registered object (R276). -/
inductive ObjKind where | barrier | ring
  deriving DecidableEq, Repr

/-- An operation on a barrier or ring (R277 to R285), as it travels to the object's home core. `ck` is the key of the
issuing context, `after` the accesses that must have performed first (a release), `va` the address its refusal
names. -/
structure ObjMsg where
  id    : Nat
  ck    : Nat
  kind  : ObjKind
  /-- 0 BARA, 1 BARX, 2 RREL, 3 REOS; 4 a wait for a phase and 5 a wait for a stage, from another core; 6 withdraws the request
  `id`, 7 answers it, with `direct` where the stage was acquired -/
  op    : Nat
  addr  : Nat
  va    : W64
  arg   : Nat
  cnt   : Nat
  prod  : Bool
  direct : Bool
  after : List Nat
  node  : Nat
  scope : Nat
  bundle : Nat
  deriving DecidableEq, Repr

/-- A context of a core. -/
structure Ctx where
  st      : CtxSt
  pc      : Nat
  res     : Bool
  imgBase : Nat
  imgLen  : Nat
  node    : W64
  part    : Nat
  cls     : Nat
  gid     : Nat
  idx     : Nat
  memb    : W64
  cons    : W64
  vBase   : Nat
  vSize   : Nat
  bBase   : Nat
  bCount  : Nat
  tBase   : Nat
  tCount  : Nat
  fdepth  : Nat
  pbound  : Nat
  sregs   : SMap W64
  wp      : Nat
  wdepth  : Nat
  resid   : Nat
  link    : SMap (Nat × Nat)
  masks   : SMap (BitVec 128)
  mstack  : List (BitVec 128)
  toks    : SMap Token
  flags   : BitVec 7
  /-- the flags that landed in cycle `flagCy` (R139) -/
  flagNew : BitVec 7
  flagCy  : Nat
  npdef   : BitVec 6
  dom     : BitVec 3
  budget  : Nat
  peak    : Nat
  rowprog : W64
  fDepth  : Nat
  fPair   : Nat
  parked  : SMap Parked
  ui      : UserInt
  tl      : Nat
  trap1   : TrapRegs
  trap2   : TrapRegs
  tsave   : W64
  tvec    : W64
  loops   : List Loop
  /-- pending stride registrations, by the code they belong to: 2 × trap level, and 1 more in a user handler (R156) -/
  pendStr : SMap (List (Nat × W64))
  resume  : Option Closed
  /-- the bundle fetched and not issued yet (R107), the resident image of each level's code (R70), a trap that waits for the
  late-write buffer after its bundle has committed (R160, R313) -/
  fetched : Option (List W64)
  /-- the block at the pc that the last fill could not read (R71, Table 16-1) -/
  fillBad : Option Nat
  resImg  : SMap Nat
  trapDue : Option TrapInfo
  bundleNo : Nat
  inflight : List Write
  late    : List Late
  mq      : List EngOp
  lq      : List Access
  tq      : List Access
  cq      : List CopyOp
  outst   : List Access
  fences  : List FenceMark
  shapes  : SMap Shape
  descs   : SMap (BitVec 256)
  compPhase : Bool
  arrived : Bool
  async   : List AsyncFault
  halted  : Bool
  preempt : Option Nat
  closing : Bool
  heldM   : Option (Nat × Nat)
  walkVa  : Option (W64 × Bool)
  walkMig : Option (Nat × Nat)
  walkRes : Option (Nat × Nat)
  dbgStep : Bool
  dbgDrain : Bool
  dbgStepped : Bool
  /-- index, number and cycle of the stepped bundle (R326) -/
  stepDue : Option (Nat × Nat × Nat)
  /-- the request for a phase or a stage of another core's object that the next bundle has made, and its answer: whether
  the stage was acquired (R259, R309) -/
  objReq  : Option (ObjMsg × Option Bool)
  deriving DecidableEq, Repr

/-! ## Cores -/

/-- A loader or storer hart (R230). `paused` is set while its node is saved (R322). -/
structure Hart where
  running : Bool
  finished : Bool
  paused  : Bool
  pc      : W32
  regs    : SMap W32
  /-- CT at which this hart's jc.sub first found a migrating entry (R231, R206) -/
  mig     : Option Nat
  deriving DecidableEq, Repr

/-- A scratchpad bank (R286). `hold` counts multicast landings; `tail` names the operations accepted before the last
hand-over that may still touch the bank. -/
structure Bank where
  owner : Option Nat
  inuse : Bool
  hold  : Nat
  tail  : List Nat
  deriving DecidableEq, Repr

/-- A registered object (R276): its physical address, its size, the NODE of each producer-held stage's acquirer
(R320), the byte count awaited by each landing stage (R282), whether a write-back was refused, whether it is frozen
(R324). `upd` is the CT of updates not yet evaluated (R278, R283); `parties` are the NODEs whose arrivals, expected bytes and copies
a barrier has had (R320; log entry 20). -/
structure Obj where
  kind    : ObjKind
  addr    : Nat
  size    : Nat
  holders : SMap Nat
  landing : SMap Nat
  broken  : Bool
  frozen  : Bool
  upd     : Option Nat
  parties : List Nat
  deriving DecidableEq, Repr

/-- A token post on its way to a context (R264). -/
structure Post where
  ck    : Nat
  tok   : Nat
  src   : Nat
  after : List Nat
  scope : Nat
  bundle : Nat
  deriving DecidableEq, Repr

/-- A translation held by a cache (R203): partition, first virtual address, size, and the leaf entry. -/
structure TlbEnt where
  part : Nat
  va   : Nat
  size : Nat
  pte  : W64
  deriving DecidableEq, Repr

/-- A peer contribution that is held, or of which a part has arrived (R253): sender, operation, tile, index, integer, cells. -/
structure PeerMsg where
  ck    : Nat
  id    : Nat
  bundle : Nat
  tile  : Nat
  cidx  : Nat
  isInt : Bool
  cells : List Nat
  deriving DecidableEq, Repr

/-- A copy that has completed and that no token orders before later copies yet (R221): its channel, its context, its KO token, and
the bytes it wrote. -/
structure PastCopy where
  ch    : Nat
  ctx   : Nat
  ko    : Nat
  spans : List (Nat × Nat)
  deriving DecidableEq, Repr

/-- A bundle as the lead of a consort issued it (R74, R126): its index, its words, the outcome of its S-slot control (condition,
target, register value), and the pre-emption request that stood (R127). -/
structure Fed where
  pc  : Nat
  ws  : List W64
  ctl : Option (Bool × Nat × W64)
  pre : Option Nat
  deriving DecidableEq, Repr

/-- A consort (R63, R126): the contexts of its members in order, and what the lead issued in the last steps, newest first, none
in a step in which it issued nothing. Member i takes the entry 2i steps old. `sizes` are the members' allotment sizes as of the bundle
that the lead issues next (R168). -/
structure Consort where
  members : List Nat
  fed     : List (Option Fed)
  sizes   : List Nat
  deriving DecidableEq, Repr

/-- A physical core. `istore` lists the blocks held, least recently fetched first: block number of the store and physical
address of the image block (R71). -/
structure CoreSt where
  cycle   : Nat
  active  : Option Nat
  lastActive : Nat
  /-- the last active context handed the core on by YIELD, and no bundle has issued since (R163) -/
  yielded : Bool
  queues  : SMap (List W64)
  owner   : Option Nat
  ownerGid : Nat
  ownerIdx : Nat
  /-- the owner of the harts and queues is saved, and waits to resume (R215) -/
  ownSaved : Bool
  loader  : Hart
  storer  : Hart
  fbank   : SMap (List Int)
  fOwner  : Option Nat
  fDep    : Nat
  chwm    : SMap W64
  copies  : List CopyOp
  past    : List PastCopy
  /-- credits of multicasts under MC: the CT at which they are due, the NODE, addresses and byte counts (R224) -/
  credQ   : List (Nat × Nat × List (Nat × Nat))
  engine  : List EngOp
  banks   : SMap Bank
  istore  : List (Nat × Nat)
  objs    : List Obj
  waitObjs : List ObjMsg
  /-- requests of contexts of other cores that wait for a phase or a stage of an object homed here, oldest first (R259) -/
  reqs    : List ObjMsg
  pseq    : SMap Nat
  peer    : List PeerMsg
  peerIn  : List PeerMsg
  suspect : SMap Nat
  trip    : Nat
  /-- the translation caches of the L and T slots, of the copy engine, and of the matrix engine's A and B pipes (R203) -/
  tlb     : List TlbEnt
  ctlb    : List TlbEnt
  atlb    : List TlbEnt
  btlb    : List TlbEnt
  consort : Option Consort
  /-- CT at which it last became idle, of its last scan and of the start of the one in progress; a scan overdue has been logged -/
  idleSince : Nat
  lastScan : Nat
  inScan  : Bool
  scanCt  : Nat
  overdue : Bool
  deriving DecidableEq, Repr

/-! ## Chiplets -/

/-- An entry of LCMAP (R55): PART, OWNED, CSTATE, VALID, PCORE. -/
structure LcEnt where
  part   : Nat
  owned  : Bool
  cstate : Nat
  valid  : Bool
  pcore  : Nat
  deriving DecidableEq, Repr

/-- A partition as its table entry describes it (R65): validity, PTROOT, its DRAM regions (base, size) and ISHARE. -/
structure Part where
  valid   : Bool
  ptroot  : Nat
  regions : List (Nat × Nat)
  ishare  : Nat
  deriving DecidableEq, Repr

/-- A sealed image (R45 to R48): KIND, partition, SVN, load address, length in bytes, and what its container said. -/
structure Image where
  kind  : Nat
  part  : Nat
  svn   : Nat
  base  : Nat
  len   : Nat
  seq   : Nat
  deriving DecidableEq, Repr

/-- A fault report of a node on its way to the graph engine (R23, R26), with RROW and RVALID. -/
structure Report where
  gid   : Nat
  idx   : Nat
  cause : Nat
  rrow  : W64
  rvalid : Bool
  deriving DecidableEq, Repr

/-- A TLBINV in progress (R165, R205): the issuing context, its token, the scope, partition and address; once the entries are
removed, the accesses and copies that still use them, by identity. -/
structure TlbInv where
  ck    : Nat
  bundle : Nat
  tok   : Nat
  scope : Nat
  part  : Nat
  va    : Nat
  users : Option (List Nat)
  deriving DecidableEq, Repr

/-- What a ZML acknowledgement or response is for: a piece of an access of a context, a chunk of a copy, an operand read, a store or a
contribution of an M operation, a mirror, or nothing that waits. -/
inductive Tag where
  | acc (ck id piece : Nat)
  | copy (k id chunk : Nat)
  | eng (k id n : Nat)
  | mir (pos gid ct : Nat)
  | none
  deriving DecidableEq, Repr

/-- The operation that a ZML message carries (Table 14-4). Class 0: a store, or copy data, `node` says node privilege (R47); a quarter
of a peer contribution (R253). Class 1: a read. Class 2: its response, and the outcome of a contribution. Class 3: an atomic. Class 4: a
token for a node slot, a cone-cancel, a token post, an operation on a barrier or ring and its refusal. Class 5: a transfer
of elements of the format `ef`, adding where `red` is set, packed where `wl` gives their number (R307); `keep` says that a younger copy of the channel has written the bytes, which stay (R221), in class 0 too. Class 6: a part of a mirror. -/
inductive ZOp where
  | write (pa : Nat) (bytes : List Byte) (node copy : Bool)
  | read (pa len : Nat) (tag : Tag)
  | resp (tag : Tag) (bytes : List Byte) (ok : Bool)
  | amo (pa op bytes : Nat) (opnd expect : W64) (node : Bool)
  | token (gid idx slot src : Nat)
  | cancel (gid idx src : Nat) (retry : Bool)
  | post (p : Post)
  | obj (m : ObjMsg)
  | refuse (m : ObjMsg) (cause : Nat)
  | lx (pa : Nat) (bytes : List Byte) (ef : Nat) (red : Bool) (wl : Option Nat) (node keep : Bool)
  | peer (ck id bundle pa cidx part : Nat) (isInt : Bool) (cells : List Nat)
  | peerRes (ck id code : Nat) (fl : BitVec 7)
  | mirror (pa : Nat) (bytes : List Byte)
  deriving DecidableEq, Repr

/-- A message that its sender holds until it is acknowledged (R299): sequence number, what it carries, what waits for
it, resends so far, the CT of its last transmission, and CTS, that of its first (R297, R299). -/
structure TxMsg where
  seq    : Nat
  op     : ZOp
  tag    : Tag
  resends : Nat
  sent   : Nat
  cts    : Nat
  deriving DecidableEq, Repr

/-- A transmission on the wire: sequence number, what it carries, and CTS (R297). -/
structure ZWire where
  seq : Nat
  op  : ZOp
  cts : Nat
  deriving DecidableEq, Repr

/-- The sending side of one (DST, CLASS): the next sequence number, the unacknowledged messages, the transmissions on the
wire, in order, and messages that wait for one of the 64 to be acknowledged (R299). -/
structure TxStream where
  next   : Nat
  unacked : List TxMsg
  wire   : List ZWire
  wait   : List (ZOp × Tag)
  deriving DecidableEq, Repr

/-- A class-7 message (R300, R301): class and sequence number acknowledged, or NAK; the old value of class 3, the flags
of a reduction, an abort, and CTS. -/
structure AckMsg where
  cls  : Nat
  seq  : Nat
  nak  : Bool
  old  : W64
  fl   : BitVec 7
  ok   : Bool
  cts  : Nat
  deriving DecidableEq, Repr

/-- The receiving side of one (SRC, CLASS): E, the last 64 sequence numbers executed with what their acknowledgement
carries, a NAK and a gap outstanding (R301, R302). -/
structure RxStream where
  e    : Nat
  window : List AckMsg
  nak  : Bool
  gap  : Bool
  deriving DecidableEq, Repr

/-- A link to another chiplet (Table 14-2): STATE, W32, REPAIRED, GAPS, RETRAIN, the counters of LKCNT, and the CT at
which a retrain began. -/
structure Link where
  st     : Nat
  w32    : Bool
  repaired : Nat
  gaps   : Nat
  retrain : Nat
  crce   : Nat
  e2ee   : Nat
  resend : Nat
  dup    : Nat
  since  : Nat
  deriving DecidableEq, Repr

/-- A read whose response is awaited (R380): where from, what waits, and the CT of the request's acknowledgement. -/
structure RespWait where
  peer : Nat
  tag  : Tag
  since : Nat
  deriving DecidableEq, Repr

/-! ## The graph engine and the dispatcher -/

/-- An allotment (R59, R63): logical core of the chiplet, context, bases, the registers taken, the number of member cores; whether
the current class is granted, and the CT of the request, then of the grant (R69). -/
structure Placed where
  lc    : Nat
  ctx   : Nat
  vb    : Nat
  vn    : Nat
  bb    : Nat
  tb    : Nat
  n     : Nat
  granted : Bool
  ct    : Nat
  deriving DecidableEq, Repr

/-- A save record (R321, R322): its address and size, and, once written, the contexts it holds, one per
member, with their registered objects (R323), whether each held F (R257), and the banks it held (R286; log entry 16). -/
structure SaveRec where
  addr : Nat
  len  : Nat
  ctxs : List Ctx
  objs : List (List Obj)
  fheld : List Bool
  held  : List (List Nat)
  deriving DecidableEq, Repr

/-- A node of a graph that the engine holds. `w` are the words of its record and `tt` those of its task type, as read at
start (R12, R31); `succ` its successor entries; `counts` and `srcs` its slots (R18). The fields down to `rrow` are the
RO fields of Table 2-3. -/
structure Node where
  w      : List W64
  tt     : List W64
  succ   : List Nat
  counts : List Nat
  srcs   : List Nat
  st     : Nat
  rused  : Nat
  stamp  : Nat
  frame  : Nat
  ctx    : Nat
  lcore  : Nat
  fcause : Nat
  rvalid : Bool
  rrow   : Nat
  /-- CT at which it last became ready (R60); its allotment; the one to which it must return (R59, R363); its tiles are held
  for a retry (R363) -/
  readyCt : Nat
  place  : Option Placed
  must   : Option Placed
  tiles  : Bool
  /-- its save record; the core cycle of the pre-emption request; what killing it in place of saving it reports (R321) -/
  rec?   : Option SaveRec
  asked  : Option Nat
  /-- the deadline tick of this frame has been handled (R28); the node has become done, failed or cancelled in this frame
  (R27) -/
  dlSeen : Bool
  overWith : Bool
  deriving DecidableEq, Repr

/-- A token on its way to a node slot (R17, R18): graph, node, slot, and the sender as a source word. -/
structure TokMsg where
  gid  : Nat
  idx  : Nat
  slot : Nat
  src  : Nat
  deriving DecidableEq, Repr

/-- A mirror being written (R343): when the snapshot began, the frame, its bytes after the slot header, the chiplet and the
address it goes to, and whether it is late; its parts sent and not acknowledged; whether its data have been sent, then its header; whether
a part was refused or has failed. -/
structure MirrorJob where
  ct    : Nat
  fstart : Nat
  frameno : Nat
  bytes : List Byte
  buddy : Nat
  addr  : Nat
  late  : Bool
  pend  : Nat
  sent  : Bool
  hdr   : Bool
  failed : Bool
  deriving DecidableEq, Repr

/-- A graph that an engine holds (R13). The fields from `fstart` to `misroute` are RO fields of Table 2-1. -/
structure Graph where
  addr    : Nat
  part    : Nat
  ncount  : Nat
  nodesA  : Nat
  toksA   : Nat
  stretch : Nat
  period  : Nat
  fstart  : Nat
  gstate  : Nat
  drops   : Nat
  slips   : Nat
  frameno : Nat
  cancels : Nat
  misroute : Nat
  nodes   : SMap Node
  /-- tokens held by a walk (R25) -/
  held    : List TokMsg
  /-- the frame waits for a blocking node (R27); its stretch fault is reported, and in how many frames together (R29) -/
  waiting : Bool
  told    : Bool
  streak  : Nat
  /-- the tick in which the last blocking node ended (R27) -/
  lastEnd : Nat
  /-- replay has ended, and the graph stops when its running nodes have finished (R360) -/
  ending  : Bool
  mirror  : List MirrorJob
  deriving DecidableEq, Repr

/-- A walk in progress (R24 to R26): the graph, the root (none where a cancel message started it), the origin, whether its
cancelled nodes return to armed, the cone as node indexes, the sender of the message as a source word, and the FCAUSE of a root that
stays failed, which the Bridge is told (R23). -/
structure WalkSt where
  gid    : Nat
  root   : Option Nat
  origin : Nat
  retry  : Bool
  cone   : List Nat
  sender : Option Nat
  fcause : Option Nat
  deriving DecidableEq, Repr

/-- What waits for the engine's walk (R26): a fault report, or a cancel message with its sender and its retry mark. -/
inductive WalkReq where
  | report (r : Report)
  | cancel (gid idx src : Nat) (retry : Bool)
  deriving DecidableEq, Repr

/-- An installed task-type entry (R51): its words, its partition, and the segment it came from. -/
structure TtEnt where
  w    : List W64
  part : Nat
  seg  : Nat
  deriving DecidableEq, Repr

/-- A host token port register (Table 3-3): tokens accepted, writes rejected. -/
structure Port where
  posts   : W32
  rejects : Nat
  deriving DecidableEq, Repr

/-- A mirror slot that a buddy keeps (R343): graph, address, bytes after the header, complete or not, the CT of its
snapshot. -/
structure MirSlot where
  gid  : Nat
  addr : Nat
  len  : Nat
  done : Bool
  ct   : Nat
  deriving DecidableEq, Repr

/-- The graph engine, dispatcher and current-budget client of a chiplet. `reserve` holds the reserving head of each
partition (R60); the quota and what is held count halves of an ampere (R68); `dead` says that a graph diverged in replay and
must stop (R361). -/
structure Engine where
  graphs  : SMap Graph
  walk    : Option WalkSt
  walkQ   : List WalkReq
  tokQ    : List TokMsg
  ttypes  : SMap TtEnt
  /-- the registers, keyed 256 × partition + port, and the owner of each enabled port (R42) -/
  ports   : SMap Port
  portOwn : SMap Nat
  reserve : SMap (Nat × Nat)
  lastPlace : Option Nat
  quota   : Nat
  savepool : W64
  mirrorReg : W64
  slots   : List MirSlot
  dead    : List Nat
  /-- CT at which MODE became 2 and the CT of the first record (R360), the log indexes consumed ahead of RD -/
  repCt   : Nat
  repFirst : Nat
  repDone : List Nat
  deriving DecidableEq, Repr

/-- A piece of evidence (R338): the accused chiplet, the row of Table 16-6, the CT of the detecting event, the reporter; `pair`
is the other end of a link pair. -/
structure Evid where
  accused : Nat
  source  : Nat
  ct      : Nat
  reporter : Nat
  pair    : Option Nat
  deriving DecidableEq, Repr

/-- A chiplet's Bridge in the quorum (R338 to R341, R50): the evidence it holds, what is on its way to it, QSTAT, the evidence
ring and the bits of QEVT; `halted` after a lockstep mismatch; heartbeats received and missed. -/
structure Bridge where
  evid    : List Evid
  evidIn  : List Evid
  carr    : Nat
  dec     : Nat
  level   : Nat
  spare   : Option Nat
  decCt   : W32
  evCount : Nat
  evRing  : SMap (W64 × W64)
  qevt    : Nat
  retired : Nat
  halted  : Bool
  /-- the cores of the chiplet are held in reset (R336, R347, R378) -/
  held    : Bool
  /-- the chiplet's region is closed (R336); it has had a chiplet reset since it was closed last (R337); the heartbeats of closed
  chiplets, each with the CT of its arrival (R336; log entry 118) -/
  closed  : Bool
  wasReset : Bool
  beatLog : List (Nat × Nat)
  beatCt  : Nat
  missed  : SMap Nat
  lastBeat : SMap Nat
  /-- CT at which the first evidence since the last decision reached it; CT of the last decay of the SUSPECT scores -/
  firstEv : Option Nat
  /-- CT at which the first evidence since the pending proposal reached it (R340) -/
  lateEv  : Option Nat
  decayCt : Nat
  /-- node-failure reports: graph, node, FCAUSE, CT (R23) -/
  nodeFails : List (Nat × Nat × Nat × Nat)
  deriving DecidableEq, Repr

/-- The host's mailbox (R49): request and response areas, BUSY, OVR, the last command and the status code; `job` is a command
submitted and not yet carried out, `result` the status of one carried out and not yet answered, `capWait` a LEVELCAP that awaits its decision (R52). -/
structure Mailbox where
  req   : List W64
  resp  : List W64
  busy  : Bool
  ovr   : Bool
  cmd   : Nat
  code  : Nat
  job   : Option Nat
  result : Option Nat
  capWait : Bool
  deriving DecidableEq, Repr

/-- Boot state and root of trust (R46, R47, R53, R54): fused key digests, revoke bits and minimum SVN by key slot and kind,
the keys the Yestan holds, the measurement, the next signature index. -/
structure Boot where
  romOk  : Bool
  dramOk : Bool
  linksUp : Bool
  fwRun  : Bool
  ctOk   : Bool
  apBase : W64
  digests : SMap (List Byte)
  revoked : Nat
  minSvn : SMap Nat
  keys   : SMap (List Byte)
  meas   : List Byte
  sigNext : Nat
  /-- JOIN has been accepted, as the chiplet's HSTAT shows it (R37) -/
  joined : Bool
  /-- CT at the release of its last reset (R53) -/
  since  : Nat
  deriving DecidableEq, Repr

/-- Discipline of a chiplet's common time (R353): the offset to remove, the counts since the last count added or
withheld, samples in agreement one after another, samples since the lead changed, the lead, the lead's sample on its way with the
CT of its arrival. -/
structure Disc where
  off    : Int
  frac   : Int
  good   : Nat
  since  : Nat
  lead   : Nat
  sample : Option (Nat × Nat)
  /-- as the lead: CT of the last sample sent -/
  sentCt : Nat
  /-- its reference, PLL or rail has failed: its copy keeps no agreement (R377) -/
  loose  : Bool
  deriving DecidableEq, Repr

/-- Health monitors (Table 20-4): temperature sensors with MAX and droop monitors with MIN, each with whether no reading has come since
its last read (R4), process monitors, THCTL, droop
throttles, THR with the CT at which it began and the CT since which every monitor has read 0.72 V or more, TSTATE, the CT of the last evaluation. -/
structure Power where
  temps : SMap (Int × Int × Bool)
  volts : SMap (Nat × Nat × Bool)
  procs : SMap W32
  thctl : W32
  droops : Nat
  thr   : Bool
  thrCt : Nat
  okCt  : Option Nat
  tstate : Nat
  tempCt : Nat
  deriving DecidableEq, Repr

/-- A write of a control register that another unit acts on (R42, R50, R67): offset, bytes, value, the CT at which it was made (R9). -/
structure CtlWrite where
  off : Nat
  n   : Nat
  v   : Nat
  ct  : Nat
  deriving DecidableEq, Repr

/-- A chiplet. -/
structure Chip where
  ct      : Nat
  lchip   : Nat
  lcmap   : SMap LcEnt
  parts   : SMap Part
  images  : List Image
  reports : List Report
  msix    : List (Nat × Nat)
  wdiscN  : W32
  wdiscCt : W32
  msixMask : W32
  msixPend : W32
  errCorr : Nat
  errUnc  : Nat
  errNext : Nat
  errRing : SMap (W64 × W64)
  tbCtl   : W64
  tbBase  : W64
  tbWr    : W32
  tbLost  : W32
  tbRd    : W32
  tbSeq   : W32
  tbRend  : Bool
  tbDiv   : Bool
  tbTrunc : Bool
  tbHold  : Bool
  tbHeld  : Bool
  tbStop  : Bool
  tbOver  : Bool
  tbDivx  : W32
  tbDiv4  : List W64
  tlbinvs : List TlbInv
  tx      : SMap TxStream
  rx      : SMap RxStream
  acks    : SMap (List AckMsg)
  links   : SMap Link
  waitResp : List RespWait
  pcie    : Bool
  wmn     : SMap W64
  eng     : Engine
  br      : Bridge
  mail    : Mailbox
  boot    : Boot
  disc    : Disc
  power   : Power
  ctlQ    : List CtlWrite
  msixTab : SMap W64
  deriving DecidableEq, Repr

/-! ## The package -/

/-- The units of a core that are busy in the issue cycle (R111). -/
structure Busy where
  m : Bool
  l : Bool
  t : Bool
  c : Bool
  deriving DecidableEq, Repr, Inhabited

/-- What a step of another agent acts on: a place, and numbers that select among the pending things there. -/
structure EvArg where
  pos   : Nat
  core  : Nat
  ctx   : Nat
  gid   : Nat
  idx   : Nat
  n     : Nat
  m     : Nat
  peer  : Nat
  cls   : Nat
  flag  : Bool
  value : W64
  bytes : List Byte
  deriving DecidableEq, Repr, Inhabited

/-- The agent whose instruction or step `exec` runs: a core and its context, or a hart of the core (`hart`, with
`storer` for the storer), with the units that are busy and what a step of another agent acts on. -/
structure Focus where
  pos    : Nat
  core   : Nat
  ctx    : Nat
  storer : Bool
  busy   : Busy
  arg    : EvArg
  deriving DecidableEq, Repr

/-- Who moves: a core issues (or a core of a consort leads a step), after `cycles` core cycles; a hart executes (`drop`: a translation
that its jc.sub would find has left the cache, R203); a piece of an outstanding access performs; or another agent takes the step `i`. -/
inductive Who where
  | core (pos core : Nat) (busy : Busy) (cycles : Nat)
  | hart (pos core : Nat) (storer drop : Bool)
  | perform (pos core ctx id piece : Nat)
  | event (i : Instr) (arg : EvArg)
  /-- from outside: a sector takes an error, correctable or not (R327) -/
  | upset (sector : Nat) (unc : Bool)
  deriving DecidableEq, Repr, Inhabited

/-- A turn: who moves, and by how many counts of its own reference each chiplet's common time has advanced (R353; log entry 8). -/
structure Turn where
  who : Who
  dts : List Nat
  deriving DecidableEq, Repr, Inhabited

/-- A placement entry of a task set (R32): level, FUNC, carrier, graph and header address. -/
structure TsPlace where
  level : Nat
  func  : Nat
  carrier : Nat
  gid   : Nat
  hdr   : Nat
  deriving DecidableEq, Repr

/-- A started task set (R32). -/
structure TaskSet where
  addr : Nat
  tsid : Nat
  part : Nat
  lvls : Nat
  places : List TsPlace
  deriving DecidableEq, Repr

/-- A proposal before the voters (R340): its number, mask, level, carrier binding and spare, the CT it was made, the coordinator,
and the votes cast (the host is voter 4). -/
structure Proposal where
  num   : Nat
  mask  : Nat
  level : Nat
  carr  : Nat
  spare : Option Nat
  ct    : Nat
  coord : Nat
  /-- the cap under which it was made (R52) -/
  cap   : Nat
  votes : SMap Bool
  deriving DecidableEq, Repr

/-- The partition table and the configuration that the Bridges use until reset (R65, R321, R343, R374, R379): for each partition its
entry and the logical cores it owns, by bit; for each chiplet SAVEPOOL, MIRROR and THCTL; the core quota in half-amperes. -/
structure Conf where
  parts  : List (Part × Nat)
  pools  : List W64
  mirrors : List W64
  thctls : List W32
  quota  : Nat
  deriving DecidableEq, Repr

/-- The quorum (R340, R345, R52): the pending proposal, the number of the next, coordinators passed over, the cap and whether the host has joined; graphs yet to restore after
a level switch; the rotation: intervals of 10 s that have passed, the carrier whose turn it is, and the graphs yet to move. -/
structure Quorum where
  prop    : Option Proposal
  next    : Nat
  skipped : List Nat
  cap     : Nat
  host    : Bool
  /-- chiplets that have passed the tests of a readmission (R337) -/
  cand    : Nat
  restore : List TsPlace
  rotCt   : Nat
  rotTurn : Nat
  moves   : List Nat
  /-- graphs that have moved to the spare in the rotation in progress (R345) -/
  moved   : List Nat
  /-- the spare, the carrier's chiplet and the CT at which the rotation in progress began -/
  rotating : Option (Nat × Nat × Nat)
  /-- a proposal is asked for without evidence: a readmission or a change of the cap (R337, R52) -/
  ask     : Bool
  /-- the level before a switch whose graphs are not all restored, with the FUNCs shed -/
  was     : Option Nat
  shed    : List Nat
  /-- a raise of the level is due at the next rotation point, or at the next proposal (R337, R52) -/
  raise   : Bool
  raiseNow : Bool
  deriving DecidableEq, Repr

/-- The state of the package. -/
structure State where
  mem     : Mem
  bad     : List Nat
  weak    : List Nat
  scrubQ  : List Nat
  chips   : SMap Chip
  cores   : SMap CoreSt
  ctxs    : SMap Ctx
  posts   : List Post
  objMsgs : List ObjMsg
  hostWrites : List (Nat × List Byte × Nat)
  agenda  : List Turn
  turns   : Nat
  free    : Nat
  nextId  : Nat
  focus   : Focus
  tsets   : List TaskSet
  quorum  : Quorum
  /-- what the first TSSTART after reset has read (R65) -/
  conf    : Option Conf
  /-- the completion of the last read that was a step of its own (a data-window or register read): 0 successful, 1 Unsupported Request, 2 Completer Abort; its bytes; its CT (R9) -/
  hostGot : Nat × List Byte × Nat
  deriving DecidableEq, Repr

/-! ## Reset -/

/-- Trap registers at reset (Table 15-2). -/
def TrapRegs.reset : TrapRegs := { cause := 0, ret := 0, val := 0, mask := 0 }

/-- User-interrupt registers at reset (Table 15-4). -/
def UserInt.reset : UserInt := { en := false, inh := false, pend := 0, vec := 0, pc := 0 }

/-- A token at dispatch (R260). -/
def Token.reset : Token := { fire := 0, pend := false }

/-- A parked bank at reset (Table 12-7). -/
def Parked.reset : Parked := { parked := false, depth := 0, pair := 0 }

/-- A shape register at reset (Table 11-5). -/
def Shape.reset : Shape :=
  { count := [0, 0, 0, 0, 0, 0], sstr := [0, 0, 0, 0, 0, 0], dstr := [0, 0, 0, 0, 0, 0], fmt := 0, roa := 0 }

/-- A context at reset: idle (R106), every register 0 but SLACKREG.BUDGET (Table 6-4). -/
def Ctx.reset : Ctx :=
  { st := .idle, pc := 0, res := false, imgBase := 0, imgLen := 0, node := 0, part := 0, cls := 0, gid := 0, idx := 0,
    memb := 0, cons := 0, vBase := 0, vSize := 0, bBase := 0, bCount := 0, tBase := 0, tCount := 0, fdepth := 0,
    pbound := 0, sregs := [], wp := 0, wdepth := 0, resid := 0, link := [], masks := [], mstack := [], toks := [],
    flags := 0, flagNew := 0, flagCy := 0, npdef := 0, dom := 0, budget := 16, peak := 0, rowprog := 0, fDepth := 0, fPair := 0, parked := [],
    ui := UserInt.reset, tl := 0, trap1 := TrapRegs.reset, trap2 := TrapRegs.reset, tsave := 0, tvec := 0, loops := [],
    pendStr := [], resume := none, fetched := none, fillBad := none, resImg := [], trapDue := none, bundleNo := 0, inflight := [], late := [], mq := [], lq := [], tq := [], cq := [],
    outst := [], fences := [], shapes := [], descs := [], compPhase := false, arrived := false, async := [],
    halted := false, preempt := none, closing := false, heldM := none, walkVa := none, walkMig := none,
    walkRes := none, dbgStep := false, dbgDrain := false, dbgStepped := false, stepDue := none, objReq := none }

/-- A hart that has not started (R230). -/
def Hart.reset : Hart :=
  { running := false, finished := false, paused := false, pc := 0, regs := [], mig := none }

/-- A bank at reset (R286). -/
def Bank.reset : Bank := { owner := none, inuse := false, hold := 0, tail := [] }

/-- A core at reset. -/
def CoreSt.reset : CoreSt :=
  { cycle := 0, active := none, lastActive := 3, yielded := false, queues := [], owner := none, ownerGid := 0, ownerIdx := 0,
    ownSaved := false, loader := Hart.reset, storer := Hart.reset, fbank := [], fOwner := none, fDep := 0, chwm := [], copies := [], past := [], credQ := [],
    engine := [], banks := [], istore := [], objs := [], waitObjs := [], reqs := [], pseq := [], peer := [], peerIn := [], suspect := [],
    trip := 0, tlb := [], ctlb := [], atlb := [], btlb := [], consort := none, idleSince := 0, lastScan := 0, inScan := false,
    scanCt := 0, overdue := false }

/-- LCMAP entry n at reset (Table 4-1). -/
def LcEnt.reset (n : Nat) : LcEnt := { part := 0, owned := false, cstate := 0, valid := true, pcore := n }

/-- A partition that no table names. -/
def Part.reset : Part := { valid := false, ptroot := 0, regions := [], ishare := 0 }

/-- No unit busy. -/
def Busy.none : Busy := { m := false, l := false, t := false, c := false }

/-- Arguments of a step that selects nothing. -/
def EvArg.zero : EvArg :=
  { pos := 0, core := 0, ctx := 0, gid := 0, idx := 0, n := 0, m := 0, peer := 0, cls := 0, flag := false, value := 0,
    bytes := [] }

/-- The focus before the first step. -/
def Focus.reset : Focus :=
  { pos := 0, core := 0, ctx := 0, storer := false, busy := Busy.none, arg := EvArg.zero }

/-- A link at reset (Table 14-2). -/
def Link.reset : Link :=
  { st := 0, w32 := false, repaired := 0, gaps := 0, retrain := 0, crce := 0, e2ee := 0, resend := 0, dup := 0, since := 0 }

/-- Streams on which nothing has been sent (R299, R301). -/
def TxStream.reset : TxStream := { next := 0, unacked := [], wire := [], wait := [] }
def RxStream.reset : RxStream := { e := 0, window := [], nak := false, gap := false }

/-- The graph engine at reset: no graph, and the quota of the default budget, 120 A (R68). -/
def Engine.reset : Engine :=
  { graphs := [], walk := none, walkQ := [], tokQ := [], ttypes := [], ports := [], portOwn := [], reserve := [], lastPlace := none,
    quota := 240, savepool := 0, mirrorReg := 0, slots := [], dead := [], repCt := 0, repFirst := 0, repDone := [] }

/-- A token port register at reset (Table 3-3). -/
def Port.reset : Port := { posts := 0, rejects := 0 }

/-- A Bridge at reset (Table 16-7, Table 3-7, Table 4-1). -/
def Bridge.reset : Bridge :=
  { evid := [], evidIn := [], carr := 0xE4, dec := 0xF, level := 0, spare := none, decCt := 0, evCount := 0, evRing := [],
    qevt := 0, retired := 0, halted := false, held := false, closed := false, wasReset := true, beatLog := [], beatCt := 0, missed := [], lastBeat := [],
    firstEv := none, lateEv := none, decayCt := 0, nodeFails := [] }

/-- The mailbox at reset (R49). -/
def Mailbox.reset : Mailbox :=
  { req := [0, 0, 0, 0, 0, 0, 0, 0], resp := [0, 0, 0, 0, 0, 0, 0, 0], busy := false, ovr := false, cmd := 0, code := 0,
    job := none, result := none, capWait := false }

/-- Boot state at reset: M is zero (R47); the fuses as log entry 10 says. -/
def Boot.reset : Boot :=
  { romOk := false, dramOk := false, linksUp := false, fwRun := false, ctOk := false, apBase := 0, digests := [], revoked := 0,
    minSvn := [], keys := [], meas := List.replicate 32 0, sigNext := 0, joined := false, since := 0 }

/-- Common time at reset: no sample taken (R353). -/
def Disc.reset : Disc :=
  { off := 0, frac := 0, good := 0, since := 4, lead := 0, sample := none, sentCt := 0, loose := false }

/-- The quorum at reset: no cap (R52), the host not joined. -/
def Quorum.reset : Quorum :=
  { prop := none, next := 0, skipped := [], cap := 4, host := false, cand := 0, restore := [], rotCt := 0, rotTurn := 0,
    moves := [], moved := [], rotating := none, ask := false, was := none, shed := [], raise := false, raiseNow := false }

/-- Monitors at reset (Table 20-4). -/
def Power.reset : Power :=
  { temps := [], volts := [], procs := [], thctl := 0x877D7305, droops := 0, thr := false, thrCt := 0, okCt := none
    tstate := 0, tempCt := 0 }

/-- A chiplet at reset. -/
def Chip.reset : Chip :=
  { ct := 0, lchip := 0xE4, lcmap := [], parts := [], images := [], reports := [], msix := [], wdiscN := 0,
    wdiscCt := 0, msixMask := 0xFFFFFFFF, msixPend := 0, errCorr := 0, errUnc := 0, errNext := 0, errRing := [],
    tbCtl := 0, tbBase := 0, tbWr := 0, tbLost := 0, tbRd := 0, tbSeq := 0, tbRend := false, tbDiv := false,
    tbTrunc := false, tbHold := false, tbHeld := false, tbStop := false, tbOver := false, tbDivx := 0, tbDiv4 := [0, 0, 0, 0], tlbinvs := [],
    tx := [], rx := [], acks := [], links := [], waitResp := [], pcie := false, wmn := [], eng := Engine.reset, br := Bridge.reset, mail := Mailbox.reset, boot := Boot.reset,
    disc := Disc.reset, power := Power.reset, ctlQ := [], msixTab := []
  }

/-- The machine right after reset. -/
def State.reset : State :=
  { mem := [], bad := [], weak := [], scrubQ := [], chips := [], cores := [], ctxs := [], posts := [], objMsgs := [],
    hostWrites := [], agenda := [], turns := 0, free := 0, nextId := 0, focus := Focus.reset, tsets := [], quorum := Quorum.reset, conf := none, hostGot := (0, [], 0)
  }

/-! ## How a step can stop -/

/-- Why the machine stops with a fault. -/
inductive Fault where
  /-- Raised by a step whose turn names a chiplet, core, context or hart that the package does not have. Safe: no
  agent of the hardware takes such a step. -/
  | absentUnit
  deriving DecidableEq, Repr

/-- Why a step has no meaning. -/
inductive Refusal where
  /-- Raised only by an arm of `exec` whose instruction has no meaning yet. Safe: nothing follows from it. -/
  | notModelled (mnemonic : String)
  deriving DecidableEq, Repr

end Sys2Proof.Machine
end

