-- ==== Sys2Proof/Config.lean ====
section
/-!
DEFINITION. What the manual leaves open: free values, which no definition gives and nothing can evaluate.

A free value is taken by `State.takeFree` (Machine/Ops.lean), which applies one of these constants to the counter
`State.free` and advances it, so that no two uses are known to agree.
-/
namespace Sys2Proof

/-- A free 64-bit value (log entry 2): a register or memory word of which the manual says that it is unpredictable. -/
opaque Config.freeW : Nat → W64

/-- The turn taken when the agenda is empty: a free choice (log entry 1). -/
opaque Config.schedule : Nat → Machine.Turn

/-- What a sealed configuration says beyond the partition table, whose layout the manual does not give (R321, R343, R374, R379; log
entry 13): SAVEPOOL, MIRROR and THCTL of a chiplet, and the budget in amperes, from the bytes of its body. -/
opaque Config.savepool : Nat → List Byte → W64
opaque Config.mirror : Nat → List Byte → W64
opaque Config.thctl : Nat → List Byte → W32
opaque Config.budget : List Byte → W32

/-- What a ZML header says in KIND of an operation, and the payload of one that carries no data, whose codes and layout the manual does
not give (R297; log entry 120). -/
opaque Config.zmlKind : Machine.ZOp → BitVec 8
opaque Config.zmlBody : Machine.ZOp → List Byte
opaque Config.zmlAckBody : Machine.AckMsg → List Byte

/-- A signature under the Yestan identity key, whose secret the manual does not give, after the leaf index: index, message, length (R54; log
entry 12). -/
opaque Config.sign : Nat → List Byte → Nat → List Byte

end Sys2Proof
end

