-- ==== Sys2Proof/WellFormed.lean ====
section
/-!
DEFINITION. Which terms of the syntax stand for a step of the part.

The fields of a slot operation have the widths of their format, so every such term has an encoding; VQNT and its
scale form share one opcode and are told apart by X[7] (R187). An illegal field value of an operation is no matter
of form: the bundle traps as R77 says. What a step of another agent acts on is checked by its meaning.
-/
namespace Sys2Proof

/-- A compressed hart instruction has its low two bits other than 3 (R104). -/
def rvFormOk : RvForm → Bool
  | .full _ => true
  | .compressed h => h.toNat % 4 != 3

/-- A hart exception has one of the causes of R230. -/
def hartCauseOk (c : Nat) : Bool := c == 0x01 || c == 0x08 || c == 0x0A || c == 0x19

/-- The well-formed instructions and steps. -/
def Instr.wf : Instr → Bool
  -- BEGIN WF
  | .tokenArrival => true
  | .releaseTick => true
  | .frameStart => true
  | .mirrorComplete => true
  | .deadlineMiss => true
  | .stretchFault => true
  | .nodeCompletion => true
  | .nodeFaultReport => true
  | .coneWalkComplete => true
  | .cancelMessage => true
  | .nodePlacement => true
  | .currentGrant => true
  | .currentShortfall => true
  | .quotaChange => true
  | .instructionBlockFill => true
  | .nodeStart => true
  | .contextSave => true
  | .contextRestore => true
  | .spareSubstitution => true
  | .quarantine => true
  | .partitionReset => true
  | .resultLanding => true
  | .slotQueueAccept => true
  | .translationWalk => true
  | .migrationRewalk => true
  | .migrationTimeout => true
  | .tlbinvComplete => true
  | .accessAbort => true
  | .copyStart => true
  | .copyChunk => true
  | .chainRecord => true
  | .copyComplete => true
  | .multicastCredit => true
  | .engineOpStart => true
  | .fretAutoDrain => true
  | .engineOpComplete => true
  | .engineOpStop => true
  | .peerContribution => true
  | .tokenPostArrival => true
  | .remoteObjectOperation => true
  | .objectRegistration => true
  | .zmlReceive => true
  | .zmlAckReceive => true
  | .zmlNakReceive => true
  | .zmlResendTimeout => true
  | .readResponseTimeout => true
  | .flitReplay => true
  | .linkRetrain => true
  | .retrainComplete => true
  | .linkDown => true
  | .trapAsync => true
  | .lateWriteReplay => true
  | .userInterrupt => true
  | .stepTrap => true
  | .scrubRead => true
  | .scrubWriteback => true
  | .suspectDecay => true
  | .scanStart => true
  | .scanComplete => true
  | .scanOverdue => true
  | .heartbeatSend => true
  | .heartbeatMissed => true
  | .railFault => true
  | .lockstepMismatch => true
  | .evidenceReceive => true
  | .proposal => true
  | .coordinatorTimeout => true
  | .bridgeVote => true
  | .voteTimeout => true
  | .mirrorRestore => true
  | .spareRotation => true
  | .ctSampleSend => true
  | .ctDiscipline => true
  | .droopThrottle => true
  | .droopRelease => true
  | .temperatureSample => true
  | .logHoldRelease => true
  | .replayHostPost => true
  | .hostTokenPost => true
  | .dataWindowWrite => true
  | .dataWindowRead => true
  | .endpointReset => true
  | .msixUnmask => true
  | .hvoteWrite => true
  | .qevtWrite => true
  | .load => true
  | .unseal => true
  | .quote => true
  | .join => true
  | .ttset => true
  | .tsstart => true
  | .svnraise => true
  | .levelcap => true
  | .mailboxCompletion => true
  | .chipletReset => true
  | .bridgeRomCheck => true
  | .pcieLinkTrained => true
  | .dramTrained => true
  | .ucieLinksTrained => true
  | .watermarkArm => true
  | .tablatureOff => true
  | .tablatureRecord => true
  | .tablatureReplay => true
  | .tbrdWrite => true
  | .tbstatWrite => true
  | .wdiscRead => true
  | .errstatRead => true
  | .lkcntRead => true
  | .tbwrRead => true
  | .tempRead => true
  | .vmonRead => true
  | .pwrstatRead => true
  | .dbgctlRead => true
  | .registerWrite => true
  | .hartEcall => true
  | .hartException cause => hartCauseOk cause
  | .jqPush _ _ _ => true
  | .jqPop _ _ _ => true
  | .jcSub _ _ _ => true
  | .jcWm _ _ => true
  | .jtPost _ _ => true
  | .jrWait _ _ _ => true
  | .add _ _ => true
  | .sub _ _ => true
  | .mul _ _ => true
  | .mulh _ _ => true
  | .mulhu _ _ => true
  | .div _ _ => true
  | .divu _ _ => true
  | .rem _ _ => true
  | .remu _ _ => true
  | .and _ _ => true
  | .or _ _ => true
  | .xor _ _ => true
  | .andn _ _ => true
  | .shl _ _ => true
  | .shr _ _ => true
  | .sra _ _ => true
  | .rotl _ _ => true
  | .min _ _ => true
  | .max _ _ => true
  | .minu _ _ => true
  | .maxu _ _ => true
  | .seq _ _ => true
  | .sne _ _ => true
  | .slt _ _ => true
  | .sltu _ _ => true
  | .sle _ _ => true
  | .sleu _ _ => true
  | .sel _ _ => true
  | .clz _ _ => true
  | .ctz _ _ => true
  | .popc _ _ => true
  | .addi _ _ => true
  | .andi _ _ => true
  | .ori _ _ => true
  | .xori _ _ => true
  | .shli _ _ => true
  | .shri _ _ => true
  | .srai _ _ => true
  | .slti _ _ => true
  | .sltui _ _ => true
  | .li _ _ => true
  | .lix _ _ => true
  | .ext _ _ => true
  | .ins _ _ => true
  | .muli _ _ => true
  | .br _ _ => true
  | .bri _ _ => true
  | .call _ _ => true
  | .calli _ _ => true
  | .ret _ _ => true
  | .loop _ _ => true
  | .lstr _ _ => true
  | .lbrk _ _ => true
  | .mfsr _ _ => true
  | .mtsr _ _ => true
  | .ecall _ _ => true
  | .tret _ _ => true
  | .uiret _ _ => true
  | .bkpt _ _ => true
  | .halt _ _ => true
  | .yield _ _ => true
  | .tlbinv _ _ => true
  | .icinv _ _ => true
  | .kill _ _ => true
  | .trap _ _ => true
  | .vshrink _ _ => true
  | .vgrow _ _ => true
  | .smir _ _ => true
  | .vadd _ _ _ => true
  | .vsub _ _ _ => true
  | .vmul _ _ _ => true
  | .vmulh _ _ _ => true
  | .vmad _ _ _ => true
  | .vmsb _ _ _ => true
  | .vdiv _ _ => true
  | .vrcp _ _ _ => true
  | .vrsq _ _ _ => true
  | .vsqrt _ _ _ => true
  | .vmin _ _ _ => true
  | .vmax _ _ _ => true
  | .vabs _ _ _ => true
  | .vneg _ _ _ => true
  | .vavg _ _ _ => true
  | .vand _ _ _ => true
  | .vor _ _ _ => true
  | .vxor _ _ _ => true
  | .vandn _ _ _ => true
  | .vshl _ _ _ => true
  | .vshr _ _ _ => true
  | .vsra _ _ _ => true
  | .vpopc _ _ _ => true
  | .vclz _ _ _ => true
  | .vceq _ _ _ => true
  | .vcne _ _ _ => true
  | .vclt _ _ _ => true
  | .vcle _ _ _ => true
  | .vcun _ _ _ => true
  | .vsel _ _ _ => true
  | .vmov _ _ _ => true
  | .vaddi _ _ _ => true
  | .vshli _ _ _ => true
  | .vshri _ _ _ => true
  | .vsrai _ _ _ => true
  | .vandi _ _ _ => true
  | .vsplat _ _ _ => true
  | .vsplati _ _ _ => true
  | .vext _ _ _ => true
  | .vins _ _ _ => true
  | .vredadd _ _ _ => true
  | .vredmax _ _ _ => true
  | .vredmin _ _ _ => true
  | .vredand _ _ _ => true
  | .vredor _ _ _ => true
  | .vdot4 _ _ _ => true
  | .vshuf _ _ _ => true
  | .vslide _ _ _ => true
  | .vrotl _ _ _ => true
  | .vzip _ _ _ => true
  | .vunzip _ _ _ => true
  | .mpush _ _ => true
  | .minv _ _ => true
  | .mpop _ _ => true
  | .mand _ _ => true
  | .mor _ _ => true
  | .mnot _ _ => true
  | .mcpy _ _ => true
  | .mcnt _ _ => true
  | .vcvt _ _ => true
  | .vnarrow _ _ => true
  | .vwiden _ _ => true
  | .vqntScale _ f => f.x.getLsbD 7
  | .vqnt _ f => !f.x.getLsbD 7
  | .vdqnt _ _ => true
  | .vdsenc _ _ => true
  | .vdsmul _ _ => true
  | .mdsa _ _ => true
  | .mdsb _ _ => true
  | .mdsk _ _ => true
  | .mdss _ _ => true
  | .mma _ _ => true
  | .mmaz _ _ => true
  | .mmac _ _ => true
  | .mmar _ _ => true
  | .mfret _ _ => true
  | .mfretr _ _ => true
  | .mpark _ _ => true
  | .munpark _ _ => true
  | .mmerge _ _ => true
  | .mdrain _ _ => true
  | .mfclr _ _ => true
  | .mzero _ _ => true
  | .mrdv _ _ => true
  | .mwrv _ _ => true
  | .mdrainp _ _ => true
  | .msts _ _ => true
  | .mstat _ _ => true
  | .ld _ _ => true
  | .ldaq _ _ => true
  | .ldf _ _ => true
  | .ldv _ _ => true
  | .ldvs _ _ => true
  | .ldvx _ _ => true
  | .ldvb _ _ => true
  | .qpop _ _ => true
  | .ldt _ _ => true
  | .ldvt _ _ => true
  | .st _ _ => true
  | .strl _ _ => true
  | .stf _ _ => true
  | .stv _ _ => true
  | .stvs _ _ => true
  | .stvx _ _ => true
  | .qpush _ _ => true
  | .amoadd _ _ => true
  | .amomin _ _ => true
  | .amomax _ _ => true
  | .amominu _ _ => true
  | .amomaxu _ _ => true
  | .amoand _ _ => true
  | .amoor _ _ => true
  | .amoxor _ _ => true
  | .amoswap _ _ => true
  | .amocas _ _ => true
  | .amofadd _ _ => true
  | .cdset _ _ => true
  | .cdfmt _ _ => true
  | .cpy _ _ => true
  | .cpym _ _ => true
  | .cpyr _ _ => true
  | .chain _ _ => true
  | .cpyw _ _ => true
  | .lxfer _ _ => true
  | .lxred _ _ => true
  | .xamo _ _ => true
  | .cabort _ _ => true
  | .tkwait _ _ => true
  | .tkpost _ _ => true
  | .tkclr _ _ => true
  | .bara _ _ => true
  | .barw _ _ => true
  | .barx _ _ => true
  | .drain _ _ => true
  | .fence _ _ => true
  | .brel _ _ => true
  | .bacq _ _ => true
  | .chkeq _ _ => true
  | .chkv _ _ => true
  | .chka _ _ => true
  | .vote _ _ => true
  | .racq _ _ => true
  | .rrel _ _ => true
  | .reos _ _ => true
  | .slack _ _ => true
  | .twait _ _ => true
  | .phase _ _ => true
  | .tevt _ _ => true
  | .uien _ _ => true
  | .nominalFrameEnd => true
  | .hartInstruction h => rvFormOk h
  | .emptyBundle _ => true
  | .spareSelfTest => true
  | .readmission => true
  | .unknownCommand => true
  | .doorbellOverrun => true
  -- END WF

end Sys2Proof
end

