-- ==== Sys2Proof/Decode.lean ====
section
/-!
DEFINITION. Decoding and encoding of bundles (R75 to R95) and of hart instructions (R104, R105).
-/
namespace Sys2Proof

/-! ## Bytes -/

/-- The number that bytes, least significant first, make (R75). -/
def leNat : List Byte → Nat
  | [] => 0
  | b :: bs => b.toNat + 256 * leNat bs

/-- `k` bytes of a number, least significant first. -/
def leBytes : Nat → Nat → List Byte
  | 0, _ => []
  | k + 1, n => BitVec.ofNat 8 n :: leBytes k (n / 256)

/-- Bits `lo` to `lo + n - 1` of a slot word. -/
def fld (w : W64) (lo n : Nat) : BitVec n := w.extractLsb' lo n

/-- The opcode of a slot, [63:56] (R75). -/
def opOf (w : W64) : Nat := (fld w 56 8).toNat

/-! ## Slot formats -/

/-- RRR fields of a slot word (R81). -/
def rrrOf (w : W64) : Rrr :=
  { lat := fld w 52 4, rm := fld w 50 2, fi := fld w 49 1, fo := fld w 48 1, sat := fld w 47 1, ef := fld w 42 5,
    d := fld w 32 10, a := fld w 22 10, b := fld w 12 10, msk := fld w 9 3, x := fld w 0 9 }

/-- RI fields of a slot word (R82). -/
def riOf (w : W64) : Ri :=
  { lat := fld w 52 4, rm := fld w 50 2, fi := fld w 49 1, fo := fld w 48 1, sat := fld w 47 1, ef := fld w 42 5,
    d := fld w 32 10, a := fld w 22 10, imm := fld w 0 22 }

/-- BR fields of a slot word (R83). -/
def brOf (w : W64) : Br :=
  { z1 := fld w 52 4, cond := fld w 48 4, sa := fld w 42 6, sb := fld w 36 6, hint := fld w 34 2, z2 := fld w 32 2,
    off := fld w 0 32 }

/-- MEM fields of a slot word (R84). -/
def memFOf (w : W64) : MemF :=
  { lat := fld w 52 4, wd := fld w 48 4, am := fld w 45 3, aq := fld w 44 1, d := fld w 34 10, x := fld w 24 10,
    base := fld w 18 6, imm := fld w 0 18 }

/-- ENG fields of a slot word (R86). -/
def engOf (w : W64) : Eng :=
  { lat := fld w 52 4, ad := fld w 46 6, md := fld w 42 4, ko := fld w 36 6, ki1 := fld w 30 6, ki2 := fld w 24 6,
    ki3 := fld w 18 6, sp := fld w 12 6, mf := fld w 0 12 }

/-- CPY fields of a slot word (R87). -/
def cpyOf (w : W64) : Cpy :=
  { z := fld w 52 4, ch := fld w 48 4, cd := fld w 44 4, ss := fld w 38 6, sd := fld w 32 6, ko := fld w 26 6,
    ki1 := fld w 20 6, ki2 := fld w 14 6, ki3 := fld w 8 6, cf := fld w 0 8 }

/-- SYN operand fields of a slot word (R88). -/
def synOf (w : W64) : Syn :=
  { a := fld w 31 10, b := fld w 21 10, k1 := fld w 15 6, k2 := fld w 9 6, k3 := fld w 3 6, sf := fld w 0 3 }

/-- Prefix fields of the Y slot (R88). -/
def pfxOf (w : W64) : Pfx :=
  { ra := fld w 55 1, sc := fld w 52 3, np := fld w 46 6, fio := fld w 45 1, lio := fld w 44 1, lv := fld w 41 3 }

/-- A slot word of RRR format. -/
def rrrWord (op : BitVec 8) (f : Rrr) : W64 :=
  op ++ f.lat ++ f.rm ++ f.fi ++ f.fo ++ f.sat ++ f.ef ++ f.d ++ f.a ++ f.b ++ f.msk ++ f.x

/-- A slot word of RI format. -/
def riWord (op : BitVec 8) (f : Ri) : W64 :=
  op ++ f.lat ++ f.rm ++ f.fi ++ f.fo ++ f.sat ++ f.ef ++ f.d ++ f.a ++ f.imm

/-- A slot word of BR format. -/
def brWord (op : BitVec 8) (f : Br) : W64 := op ++ f.z1 ++ f.cond ++ f.sa ++ f.sb ++ f.hint ++ f.z2 ++ f.off

/-- A slot word of MEM format. -/
def memWord (op : BitVec 8) (f : MemF) : W64 :=
  op ++ f.lat ++ f.wd ++ f.am ++ f.aq ++ f.d ++ f.x ++ f.base ++ f.imm

/-- A slot word of ENG format. -/
def engWord (op : BitVec 8) (f : Eng) : W64 :=
  op ++ f.lat ++ f.ad ++ f.md ++ f.ko ++ f.ki1 ++ f.ki2 ++ f.ki3 ++ f.sp ++ f.mf

/-- A slot word of CPY format. -/
def cpyWord (op : BitVec 8) (f : Cpy) : W64 :=
  op ++ f.z ++ f.ch ++ f.cd ++ f.ss ++ f.sd ++ f.ko ++ f.ki1 ++ f.ki2 ++ f.ki3 ++ f.cf

/-- A Y slot word (R88). -/
def synWord (op : BitVec 8) (p : Pfx) (f : Syn) : W64 :=
  op ++ p.ra ++ p.sc ++ p.np ++ p.fio ++ p.lio ++ p.lv ++ f.a ++ f.b ++ f.k1 ++ f.k2 ++ f.k3 ++ f.sf

/-- All operand fields of the Y slot zero. -/
def Syn.zero : Syn := { a := 0, b := 0, k1 := 0, k2 := 0, k3 := 0, sf := 0 }

/-- The prefix of a Y slot of zeros (R88: it acts at core scope). -/
def Pfx.zero : Pfx := { ra := 0, sc := 0, np := 0, fio := 0, lio := 0, lv := 0 }

/-- IMM21 of the immediate form of the Y slot (R88). -/
def Syn.imm21 (f : Syn) : BitVec 21 := f.k1 ++ f.k2 ++ f.k3 ++ f.sf

/-! ## Opcode maps -/

-- BEGIN DEC
/-- Table 5-10: the operation that the opcode of slot word `w` names. -/
def decodeS (p : Pfx) (w : W64) : Option Instr :=
  match opOf w with
  | 0x01 => some (.add p (rrrOf w))
  | 0x02 => some (.sub p (rrrOf w))
  | 0x03 => some (.mul p (rrrOf w))
  | 0x04 => some (.mulh p (rrrOf w))
  | 0x05 => some (.mulhu p (rrrOf w))
  | 0x06 => some (.div p (rrrOf w))
  | 0x07 => some (.divu p (rrrOf w))
  | 0x08 => some (.rem p (rrrOf w))
  | 0x09 => some (.remu p (rrrOf w))
  | 0x0A => some (.and p (rrrOf w))
  | 0x0B => some (.or p (rrrOf w))
  | 0x0C => some (.xor p (rrrOf w))
  | 0x0D => some (.andn p (rrrOf w))
  | 0x0E => some (.shl p (rrrOf w))
  | 0x0F => some (.shr p (rrrOf w))
  | 0x10 => some (.sra p (rrrOf w))
  | 0x11 => some (.rotl p (rrrOf w))
  | 0x12 => some (.min p (rrrOf w))
  | 0x13 => some (.max p (rrrOf w))
  | 0x14 => some (.minu p (rrrOf w))
  | 0x15 => some (.maxu p (rrrOf w))
  | 0x16 => some (.seq p (rrrOf w))
  | 0x17 => some (.sne p (rrrOf w))
  | 0x18 => some (.slt p (rrrOf w))
  | 0x19 => some (.sltu p (rrrOf w))
  | 0x1A => some (.sle p (rrrOf w))
  | 0x1B => some (.sleu p (rrrOf w))
  | 0x1C => some (.sel p (rrrOf w))
  | 0x1D => some (.clz p (rrrOf w))
  | 0x1E => some (.ctz p (rrrOf w))
  | 0x1F => some (.popc p (rrrOf w))
  | 0x20 => some (.addi p (riOf w))
  | 0x21 => some (.andi p (riOf w))
  | 0x22 => some (.ori p (riOf w))
  | 0x23 => some (.xori p (riOf w))
  | 0x24 => some (.shli p (riOf w))
  | 0x25 => some (.shri p (riOf w))
  | 0x26 => some (.srai p (riOf w))
  | 0x27 => some (.slti p (riOf w))
  | 0x28 => some (.sltui p (riOf w))
  | 0x29 => some (.li p (riOf w))
  | 0x2A => some (.lix p (riOf w))
  | 0x2B => some (.ext p (riOf w))
  | 0x2C => some (.ins p (riOf w))
  | 0x2D => some (.muli p (riOf w))
  | 0x40 => some (.br p (brOf w))
  | 0x41 => some (.bri p (brOf w))
  | 0x42 => some (.call p (brOf w))
  | 0x43 => some (.calli p (brOf w))
  | 0x44 => some (.ret p (brOf w))
  | 0x45 => some (.loop p (brOf w))
  | 0x46 => some (.lstr p (brOf w))
  | 0x47 => some (.lbrk p (brOf w))
  | 0x60 => some (.mfsr p (riOf w))
  | 0x61 => some (.mtsr p (riOf w))
  | 0x62 => some (.ecall p (riOf w))
  | 0x63 => some (.tret p (rrrOf w))
  | 0x64 => some (.uiret p (rrrOf w))
  | 0x65 => some (.bkpt p (riOf w))
  | 0x66 => some (.halt p (rrrOf w))
  | 0x67 => some (.yield p (rrrOf w))
  | 0x68 => some (.tlbinv p (rrrOf w))
  | 0x69 => some (.icinv p (rrrOf w))
  | 0x6A => some (.kill p (rrrOf w))
  | 0x6B => some (.trap p (riOf w))
  | 0x6C => some (.vshrink p (riOf w))
  | 0x6D => some (.vgrow p (riOf w))
  | _ => none

/-- Table 5-11, the operations of both units: the operation that the opcode of slot word `w` names. -/
def decodeV (p : Pfx) (u : VUnit) (w : W64) : Option Instr :=
  match opOf w with
  | 0x01 => some (.vadd p u (rrrOf w))
  | 0x02 => some (.vsub p u (rrrOf w))
  | 0x03 => some (.vmul p u (rrrOf w))
  | 0x04 => some (.vmulh p u (rrrOf w))
  | 0x05 => some (.vmad p u (rrrOf w))
  | 0x06 => some (.vmsb p u (rrrOf w))
  | 0x08 => some (.vrcp p u (rrrOf w))
  | 0x09 => some (.vrsq p u (rrrOf w))
  | 0x0A => some (.vsqrt p u (rrrOf w))
  | 0x0B => some (.vmin p u (rrrOf w))
  | 0x0C => some (.vmax p u (rrrOf w))
  | 0x0D => some (.vabs p u (rrrOf w))
  | 0x0E => some (.vneg p u (rrrOf w))
  | 0x0F => some (.vavg p u (rrrOf w))
  | 0x10 => some (.vand p u (rrrOf w))
  | 0x11 => some (.vor p u (rrrOf w))
  | 0x12 => some (.vxor p u (rrrOf w))
  | 0x13 => some (.vandn p u (rrrOf w))
  | 0x14 => some (.vshl p u (rrrOf w))
  | 0x15 => some (.vshr p u (rrrOf w))
  | 0x16 => some (.vsra p u (rrrOf w))
  | 0x17 => some (.vpopc p u (rrrOf w))
  | 0x18 => some (.vclz p u (rrrOf w))
  | 0x19 => some (.vceq p u (rrrOf w))
  | 0x1A => some (.vcne p u (rrrOf w))
  | 0x1B => some (.vclt p u (rrrOf w))
  | 0x1C => some (.vcle p u (rrrOf w))
  | 0x1D => some (.vcun p u (rrrOf w))
  | 0x1E => some (.vsel p u (rrrOf w))
  | 0x1F => some (.vmov p u (rrrOf w))
  | 0x20 => some (.vaddi p u (riOf w))
  | 0x21 => some (.vshli p u (riOf w))
  | 0x22 => some (.vshri p u (riOf w))
  | 0x23 => some (.vsrai p u (riOf w))
  | 0x24 => some (.vandi p u (riOf w))
  | 0x25 => some (.vsplat p u (rrrOf w))
  | 0x26 => some (.vsplati p u (riOf w))
  | 0x27 => some (.vext p u (rrrOf w))
  | 0x28 => some (.vins p u (rrrOf w))
  | 0x30 => some (.vredadd p u (rrrOf w))
  | 0x31 => some (.vredmax p u (rrrOf w))
  | 0x32 => some (.vredmin p u (rrrOf w))
  | 0x33 => some (.vredand p u (rrrOf w))
  | 0x34 => some (.vredor p u (rrrOf w))
  | 0x35 => some (.vdot4 p u (rrrOf w))
  | 0x38 => some (.vshuf p u (rrrOf w))
  | 0x39 => some (.vslide p u (rrrOf w))
  | 0x3A => some (.vrotl p u (rrrOf w))
  | 0x3B => some (.vzip p u (rrrOf w))
  | 0x3C => some (.vunzip p u (rrrOf w))
  | _ => none

/-- Table 5-11, VA only: the operation that the opcode of slot word `w` names. -/
def decodeVA (p : Pfx) (w : W64) : Option Instr :=
  match opOf w with
  | 0x40 => some (.mpush p (rrrOf w))
  | 0x41 => some (.minv p (rrrOf w))
  | 0x42 => some (.mpop p (rrrOf w))
  | 0x43 => some (.mand p (rrrOf w))
  | 0x44 => some (.mor p (rrrOf w))
  | 0x45 => some (.mnot p (rrrOf w))
  | 0x46 => some (.mcpy p (rrrOf w))
  | 0x47 => some (.mcnt p (rrrOf w))
  | _ => none

/-- Table 5-11, VB only: the operation that the opcode of slot word `w` names. -/
def decodeVB (p : Pfx) (w : W64) : Option Instr :=
  match opOf w with
  | 0x07 => some (.vdiv p (rrrOf w))
  | 0x50 => some (.vcvt p (rrrOf w))
  | 0x51 => some (.vnarrow p (rrrOf w))
  | 0x52 => some (.vwiden p (rrrOf w))
  | 0x54 => some (.vdqnt p (rrrOf w))
  | 0x55 => some (.vdsenc p (rrrOf w))
  | 0x56 => some (.vdsmul p (rrrOf w))
  | 0xE0 => some (.smir p (rrrOf w))
  | 0x53 => some (if w.getLsbD 7 then .vqntScale p (rrrOf w) else .vqnt p (rrrOf w))
  | _ => none

/-- Table 5-12: the operation that the opcode of slot word `w` names. -/
def decodeM (p : Pfx) (w : W64) : Option Instr :=
  match opOf w with
  | 0x01 => some (.mdsa p (engOf w))
  | 0x02 => some (.mdsb p (engOf w))
  | 0x03 => some (.mdsk p (engOf w))
  | 0x04 => some (.mdss p (engOf w))
  | 0x08 => some (.mma p (engOf w))
  | 0x09 => some (.mmaz p (engOf w))
  | 0x0A => some (.mmac p (engOf w))
  | 0x0B => some (.mmar p (engOf w))
  | 0x10 => some (.mfret p (engOf w))
  | 0x11 => some (.mfretr p (engOf w))
  | 0x12 => some (.mpark p (engOf w))
  | 0x13 => some (.munpark p (engOf w))
  | 0x14 => some (.mmerge p (engOf w))
  | 0x15 => some (.mdrain p (engOf w))
  | 0x16 => some (.mfclr p (engOf w))
  | 0x18 => some (.mzero p (engOf w))
  | 0x19 => some (.mrdv p (engOf w))
  | 0x1A => some (.mwrv p (engOf w))
  | 0x1B => some (.mdrainp p (engOf w))
  | 0x1D => some (.msts p (engOf w))
  | 0x1E => some (.mstat p (engOf w))
  | _ => none

/-- Table 5-13: the operation that the opcode of slot word `w` names. -/
def decodeL (p : Pfx) (w : W64) : Option Instr :=
  match opOf w with
  | 0x01 => some (.ld p (memFOf w))
  | 0x02 => some (.ldaq p (memFOf w))
  | 0x03 => some (.ldf p (memFOf w))
  | 0x04 => some (.ldv p (memFOf w))
  | 0x05 => some (.ldvs p (memFOf w))
  | 0x06 => some (.ldvx p (memFOf w))
  | 0x07 => some (.ldvb p (memFOf w))
  | 0x08 => some (.qpop p (memFOf w))
  | 0x09 => some (.ldt p (memFOf w))
  | 0x0A => some (.ldvt p (memFOf w))
  | _ => none

/-- Table 5-14: the operation that the opcode of slot word `w` names. -/
def decodeT (p : Pfx) (w : W64) : Option Instr :=
  match opOf w with
  | 0x01 => some (.st p (memFOf w))
  | 0x02 => some (.strl p (memFOf w))
  | 0x03 => some (.stf p (memFOf w))
  | 0x04 => some (.stv p (memFOf w))
  | 0x05 => some (.stvs p (memFOf w))
  | 0x06 => some (.stvx p (memFOf w))
  | 0x07 => some (.qpush p (memFOf w))
  | 0x08 => some (.amoadd p (memFOf w))
  | 0x09 => some (.amomin p (memFOf w))
  | 0x0A => some (.amomax p (memFOf w))
  | 0x0B => some (.amominu p (memFOf w))
  | 0x0C => some (.amomaxu p (memFOf w))
  | 0x0D => some (.amoand p (memFOf w))
  | 0x0E => some (.amoor p (memFOf w))
  | 0x0F => some (.amoxor p (memFOf w))
  | 0x10 => some (.amoswap p (memFOf w))
  | 0x11 => some (.amocas p (memFOf w))
  | 0x12 => some (.amofadd p (memFOf w))
  | _ => none

/-- Table 5-15: the operation that the opcode of slot word `w` names. -/
def decodeC (p : Pfx) (w : W64) : Option Instr :=
  match opOf w with
  | 0x01 => some (.cdset p (cpyOf w))
  | 0x02 => some (.cdfmt p (cpyOf w))
  | 0x08 => some (.cpy p (cpyOf w))
  | 0x09 => some (.cpym p (cpyOf w))
  | 0x0A => some (.cpyr p (cpyOf w))
  | 0x0B => some (.chain p (cpyOf w))
  | 0x0C => some (.cpyw p (cpyOf w))
  | 0x10 => some (.lxfer p (cpyOf w))
  | 0x11 => some (.lxred p (cpyOf w))
  | 0x12 => some (.xamo p (cpyOf w))
  | 0x19 => some (.cabort p (cpyOf w))
  | _ => none

/-- Table 5-16: the operation that the opcode of slot word `w` names. -/
def decodeY (p : Pfx) (w : W64) : Option Instr :=
  match opOf w with
  | 0x01 => some (.tkwait p (synOf w))
  | 0x02 => some (.tkpost p (synOf w))
  | 0x03 => some (.tkclr p (synOf w))
  | 0x08 => some (.bara p (synOf w))
  | 0x09 => some (.barw p (synOf w))
  | 0x0A => some (.barx p (synOf w))
  | 0x10 => some (.drain p (synOf w))
  | 0x11 => some (.fence p (synOf w))
  | 0x18 => some (.brel p (synOf w))
  | 0x19 => some (.bacq p (synOf w))
  | 0x20 => some (.chkeq p (synOf w))
  | 0x21 => some (.chkv p (synOf w))
  | 0x22 => some (.chka p (synOf w))
  | 0x23 => some (.vote p (synOf w))
  | 0x28 => some (.racq p (synOf w))
  | 0x29 => some (.rrel p (synOf w))
  | 0x2A => some (.reos p (synOf w))
  | 0x30 => some (.slack p (synOf w))
  | 0x31 => some (.twait p (synOf w))
  | 0x32 => some (.phase p (synOf w))
  | 0x33 => some (.tevt p (synOf w))
  | 0x34 => some (.uien p (synOf w))
  | _ => none

-- END DEC

/-- The operation of slot `k` (Table 5-1), none where the slot's map does not assign the opcode (R89). -/
def decodeSlot (k : Nat) (p : Pfx) (w : W64) : Option Instr :=
  match k with
  | 0 => decodeS p w
  | 1 => (decodeV p .va w).or (decodeVA p w)
  | 2 => (decodeV p .vb w).or (decodeVB p w)
  | 3 => decodeM p w
  | 4 => decodeL p w
  | 5 => decodeT p w
  | 6 => decodeC p w
  | _ => decodeY p w

/-- The slot of a vector unit (Table 5-1). -/
def unitSlot : VUnit → Nat
  | .va => 1
  | .vb => 2

/-- Prefix, slot and slot word of an operation; none for a step that no bundle holds. -/
def slotWord : Instr → Option (Pfx × Nat × W64)
  -- BEGIN ENC
  | .tokenArrival => none
  | .releaseTick => none
  | .frameStart => none
  | .mirrorComplete => none
  | .deadlineMiss => none
  | .stretchFault => none
  | .nodeCompletion => none
  | .nodeFaultReport => none
  | .coneWalkComplete => none
  | .cancelMessage => none
  | .nodePlacement => none
  | .currentGrant => none
  | .currentShortfall => none
  | .quotaChange => none
  | .instructionBlockFill => none
  | .nodeStart => none
  | .contextSave => none
  | .contextRestore => none
  | .spareSubstitution => none
  | .quarantine => none
  | .partitionReset => none
  | .resultLanding => none
  | .slotQueueAccept => none
  | .translationWalk => none
  | .migrationRewalk => none
  | .migrationTimeout => none
  | .tlbinvComplete => none
  | .accessAbort => none
  | .copyStart => none
  | .copyChunk => none
  | .chainRecord => none
  | .copyComplete => none
  | .multicastCredit => none
  | .engineOpStart => none
  | .fretAutoDrain => none
  | .engineOpComplete => none
  | .engineOpStop => none
  | .peerContribution => none
  | .tokenPostArrival => none
  | .remoteObjectOperation => none
  | .objectRegistration => none
  | .zmlReceive => none
  | .zmlAckReceive => none
  | .zmlNakReceive => none
  | .zmlResendTimeout => none
  | .readResponseTimeout => none
  | .flitReplay => none
  | .linkRetrain => none
  | .retrainComplete => none
  | .linkDown => none
  | .trapAsync => none
  | .lateWriteReplay => none
  | .userInterrupt => none
  | .stepTrap => none
  | .scrubRead => none
  | .scrubWriteback => none
  | .suspectDecay => none
  | .scanStart => none
  | .scanComplete => none
  | .scanOverdue => none
  | .heartbeatSend => none
  | .heartbeatMissed => none
  | .railFault => none
  | .lockstepMismatch => none
  | .evidenceReceive => none
  | .proposal => none
  | .coordinatorTimeout => none
  | .bridgeVote => none
  | .voteTimeout => none
  | .mirrorRestore => none
  | .spareRotation => none
  | .ctSampleSend => none
  | .ctDiscipline => none
  | .droopThrottle => none
  | .droopRelease => none
  | .temperatureSample => none
  | .logHoldRelease => none
  | .replayHostPost => none
  | .hostTokenPost => none
  | .dataWindowWrite => none
  | .dataWindowRead => none
  | .endpointReset => none
  | .msixUnmask => none
  | .hvoteWrite => none
  | .qevtWrite => none
  | .load => none
  | .unseal => none
  | .quote => none
  | .join => none
  | .ttset => none
  | .tsstart => none
  | .svnraise => none
  | .levelcap => none
  | .mailboxCompletion => none
  | .chipletReset => none
  | .bridgeRomCheck => none
  | .pcieLinkTrained => none
  | .dramTrained => none
  | .ucieLinksTrained => none
  | .watermarkArm => none
  | .tablatureOff => none
  | .tablatureRecord => none
  | .tablatureReplay => none
  | .tbrdWrite => none
  | .tbstatWrite => none
  | .wdiscRead => none
  | .errstatRead => none
  | .lkcntRead => none
  | .tbwrRead => none
  | .tempRead => none
  | .vmonRead => none
  | .pwrstatRead => none
  | .dbgctlRead => none
  | .registerWrite => none
  | .hartEcall => none
  | .hartException _ => none
  | .jqPush _ _ _ => none
  | .jqPop _ _ _ => none
  | .jcSub _ _ _ => none
  | .jcWm _ _ => none
  | .jtPost _ _ => none
  | .jrWait _ _ _ => none
  | .add p f => some (p, 0, rrrWord 0x01 f)
  | .sub p f => some (p, 0, rrrWord 0x02 f)
  | .mul p f => some (p, 0, rrrWord 0x03 f)
  | .mulh p f => some (p, 0, rrrWord 0x04 f)
  | .mulhu p f => some (p, 0, rrrWord 0x05 f)
  | .div p f => some (p, 0, rrrWord 0x06 f)
  | .divu p f => some (p, 0, rrrWord 0x07 f)
  | .rem p f => some (p, 0, rrrWord 0x08 f)
  | .remu p f => some (p, 0, rrrWord 0x09 f)
  | .and p f => some (p, 0, rrrWord 0x0A f)
  | .or p f => some (p, 0, rrrWord 0x0B f)
  | .xor p f => some (p, 0, rrrWord 0x0C f)
  | .andn p f => some (p, 0, rrrWord 0x0D f)
  | .shl p f => some (p, 0, rrrWord 0x0E f)
  | .shr p f => some (p, 0, rrrWord 0x0F f)
  | .sra p f => some (p, 0, rrrWord 0x10 f)
  | .rotl p f => some (p, 0, rrrWord 0x11 f)
  | .min p f => some (p, 0, rrrWord 0x12 f)
  | .max p f => some (p, 0, rrrWord 0x13 f)
  | .minu p f => some (p, 0, rrrWord 0x14 f)
  | .maxu p f => some (p, 0, rrrWord 0x15 f)
  | .seq p f => some (p, 0, rrrWord 0x16 f)
  | .sne p f => some (p, 0, rrrWord 0x17 f)
  | .slt p f => some (p, 0, rrrWord 0x18 f)
  | .sltu p f => some (p, 0, rrrWord 0x19 f)
  | .sle p f => some (p, 0, rrrWord 0x1A f)
  | .sleu p f => some (p, 0, rrrWord 0x1B f)
  | .sel p f => some (p, 0, rrrWord 0x1C f)
  | .clz p f => some (p, 0, rrrWord 0x1D f)
  | .ctz p f => some (p, 0, rrrWord 0x1E f)
  | .popc p f => some (p, 0, rrrWord 0x1F f)
  | .addi p f => some (p, 0, riWord 0x20 f)
  | .andi p f => some (p, 0, riWord 0x21 f)
  | .ori p f => some (p, 0, riWord 0x22 f)
  | .xori p f => some (p, 0, riWord 0x23 f)
  | .shli p f => some (p, 0, riWord 0x24 f)
  | .shri p f => some (p, 0, riWord 0x25 f)
  | .srai p f => some (p, 0, riWord 0x26 f)
  | .slti p f => some (p, 0, riWord 0x27 f)
  | .sltui p f => some (p, 0, riWord 0x28 f)
  | .li p f => some (p, 0, riWord 0x29 f)
  | .lix p f => some (p, 0, riWord 0x2A f)
  | .ext p f => some (p, 0, riWord 0x2B f)
  | .ins p f => some (p, 0, riWord 0x2C f)
  | .muli p f => some (p, 0, riWord 0x2D f)
  | .br p f => some (p, 0, brWord 0x40 f)
  | .bri p f => some (p, 0, brWord 0x41 f)
  | .call p f => some (p, 0, brWord 0x42 f)
  | .calli p f => some (p, 0, brWord 0x43 f)
  | .ret p f => some (p, 0, brWord 0x44 f)
  | .loop p f => some (p, 0, brWord 0x45 f)
  | .lstr p f => some (p, 0, brWord 0x46 f)
  | .lbrk p f => some (p, 0, brWord 0x47 f)
  | .mfsr p f => some (p, 0, riWord 0x60 f)
  | .mtsr p f => some (p, 0, riWord 0x61 f)
  | .ecall p f => some (p, 0, riWord 0x62 f)
  | .tret p f => some (p, 0, rrrWord 0x63 f)
  | .uiret p f => some (p, 0, rrrWord 0x64 f)
  | .bkpt p f => some (p, 0, riWord 0x65 f)
  | .halt p f => some (p, 0, rrrWord 0x66 f)
  | .yield p f => some (p, 0, rrrWord 0x67 f)
  | .tlbinv p f => some (p, 0, rrrWord 0x68 f)
  | .icinv p f => some (p, 0, rrrWord 0x69 f)
  | .kill p f => some (p, 0, rrrWord 0x6A f)
  | .trap p f => some (p, 0, riWord 0x6B f)
  | .vshrink p f => some (p, 0, riWord 0x6C f)
  | .vgrow p f => some (p, 0, riWord 0x6D f)
  | .smir p f => some (p, 2, rrrWord 0xE0 f)
  | .vadd p u f => some (p, unitSlot u, rrrWord 0x01 f)
  | .vsub p u f => some (p, unitSlot u, rrrWord 0x02 f)
  | .vmul p u f => some (p, unitSlot u, rrrWord 0x03 f)
  | .vmulh p u f => some (p, unitSlot u, rrrWord 0x04 f)
  | .vmad p u f => some (p, unitSlot u, rrrWord 0x05 f)
  | .vmsb p u f => some (p, unitSlot u, rrrWord 0x06 f)
  | .vdiv p f => some (p, 2, rrrWord 0x07 f)
  | .vrcp p u f => some (p, unitSlot u, rrrWord 0x08 f)
  | .vrsq p u f => some (p, unitSlot u, rrrWord 0x09 f)
  | .vsqrt p u f => some (p, unitSlot u, rrrWord 0x0A f)
  | .vmin p u f => some (p, unitSlot u, rrrWord 0x0B f)
  | .vmax p u f => some (p, unitSlot u, rrrWord 0x0C f)
  | .vabs p u f => some (p, unitSlot u, rrrWord 0x0D f)
  | .vneg p u f => some (p, unitSlot u, rrrWord 0x0E f)
  | .vavg p u f => some (p, unitSlot u, rrrWord 0x0F f)
  | .vand p u f => some (p, unitSlot u, rrrWord 0x10 f)
  | .vor p u f => some (p, unitSlot u, rrrWord 0x11 f)
  | .vxor p u f => some (p, unitSlot u, rrrWord 0x12 f)
  | .vandn p u f => some (p, unitSlot u, rrrWord 0x13 f)
  | .vshl p u f => some (p, unitSlot u, rrrWord 0x14 f)
  | .vshr p u f => some (p, unitSlot u, rrrWord 0x15 f)
  | .vsra p u f => some (p, unitSlot u, rrrWord 0x16 f)
  | .vpopc p u f => some (p, unitSlot u, rrrWord 0x17 f)
  | .vclz p u f => some (p, unitSlot u, rrrWord 0x18 f)
  | .vceq p u f => some (p, unitSlot u, rrrWord 0x19 f)
  | .vcne p u f => some (p, unitSlot u, rrrWord 0x1A f)
  | .vclt p u f => some (p, unitSlot u, rrrWord 0x1B f)
  | .vcle p u f => some (p, unitSlot u, rrrWord 0x1C f)
  | .vcun p u f => some (p, unitSlot u, rrrWord 0x1D f)
  | .vsel p u f => some (p, unitSlot u, rrrWord 0x1E f)
  | .vmov p u f => some (p, unitSlot u, rrrWord 0x1F f)
  | .vaddi p u f => some (p, unitSlot u, riWord 0x20 f)
  | .vshli p u f => some (p, unitSlot u, riWord 0x21 f)
  | .vshri p u f => some (p, unitSlot u, riWord 0x22 f)
  | .vsrai p u f => some (p, unitSlot u, riWord 0x23 f)
  | .vandi p u f => some (p, unitSlot u, riWord 0x24 f)
  | .vsplat p u f => some (p, unitSlot u, rrrWord 0x25 f)
  | .vsplati p u f => some (p, unitSlot u, riWord 0x26 f)
  | .vext p u f => some (p, unitSlot u, rrrWord 0x27 f)
  | .vins p u f => some (p, unitSlot u, rrrWord 0x28 f)
  | .vredadd p u f => some (p, unitSlot u, rrrWord 0x30 f)
  | .vredmax p u f => some (p, unitSlot u, rrrWord 0x31 f)
  | .vredmin p u f => some (p, unitSlot u, rrrWord 0x32 f)
  | .vredand p u f => some (p, unitSlot u, rrrWord 0x33 f)
  | .vredor p u f => some (p, unitSlot u, rrrWord 0x34 f)
  | .vdot4 p u f => some (p, unitSlot u, rrrWord 0x35 f)
  | .vshuf p u f => some (p, unitSlot u, rrrWord 0x38 f)
  | .vslide p u f => some (p, unitSlot u, rrrWord 0x39 f)
  | .vrotl p u f => some (p, unitSlot u, rrrWord 0x3A f)
  | .vzip p u f => some (p, unitSlot u, rrrWord 0x3B f)
  | .vunzip p u f => some (p, unitSlot u, rrrWord 0x3C f)
  | .mpush p f => some (p, 1, rrrWord 0x40 f)
  | .minv p f => some (p, 1, rrrWord 0x41 f)
  | .mpop p f => some (p, 1, rrrWord 0x42 f)
  | .mand p f => some (p, 1, rrrWord 0x43 f)
  | .mor p f => some (p, 1, rrrWord 0x44 f)
  | .mnot p f => some (p, 1, rrrWord 0x45 f)
  | .mcpy p f => some (p, 1, rrrWord 0x46 f)
  | .mcnt p f => some (p, 1, rrrWord 0x47 f)
  | .vcvt p f => some (p, 2, rrrWord 0x50 f)
  | .vnarrow p f => some (p, 2, rrrWord 0x51 f)
  | .vwiden p f => some (p, 2, rrrWord 0x52 f)
  | .vqntScale p f => some (p, 2, rrrWord 0x53 f)
  | .vqnt p f => some (p, 2, rrrWord 0x53 f)
  | .vdqnt p f => some (p, 2, rrrWord 0x54 f)
  | .vdsenc p f => some (p, 2, rrrWord 0x55 f)
  | .vdsmul p f => some (p, 2, rrrWord 0x56 f)
  | .mdsa p f => some (p, 3, engWord 0x01 f)
  | .mdsb p f => some (p, 3, engWord 0x02 f)
  | .mdsk p f => some (p, 3, engWord 0x03 f)
  | .mdss p f => some (p, 3, engWord 0x04 f)
  | .mma p f => some (p, 3, engWord 0x08 f)
  | .mmaz p f => some (p, 3, engWord 0x09 f)
  | .mmac p f => some (p, 3, engWord 0x0A f)
  | .mmar p f => some (p, 3, engWord 0x0B f)
  | .mfret p f => some (p, 3, engWord 0x10 f)
  | .mfretr p f => some (p, 3, engWord 0x11 f)
  | .mpark p f => some (p, 3, engWord 0x12 f)
  | .munpark p f => some (p, 3, engWord 0x13 f)
  | .mmerge p f => some (p, 3, engWord 0x14 f)
  | .mdrain p f => some (p, 3, engWord 0x15 f)
  | .mfclr p f => some (p, 3, engWord 0x16 f)
  | .mzero p f => some (p, 3, engWord 0x18 f)
  | .mrdv p f => some (p, 3, engWord 0x19 f)
  | .mwrv p f => some (p, 3, engWord 0x1A f)
  | .mdrainp p f => some (p, 3, engWord 0x1B f)
  | .msts p f => some (p, 3, engWord 0x1D f)
  | .mstat p f => some (p, 3, engWord 0x1E f)
  | .ld p f => some (p, 4, memWord 0x01 f)
  | .ldaq p f => some (p, 4, memWord 0x02 f)
  | .ldf p f => some (p, 4, memWord 0x03 f)
  | .ldv p f => some (p, 4, memWord 0x04 f)
  | .ldvs p f => some (p, 4, memWord 0x05 f)
  | .ldvx p f => some (p, 4, memWord 0x06 f)
  | .ldvb p f => some (p, 4, memWord 0x07 f)
  | .qpop p f => some (p, 4, memWord 0x08 f)
  | .ldt p f => some (p, 4, memWord 0x09 f)
  | .ldvt p f => some (p, 4, memWord 0x0A f)
  | .st p f => some (p, 5, memWord 0x01 f)
  | .strl p f => some (p, 5, memWord 0x02 f)
  | .stf p f => some (p, 5, memWord 0x03 f)
  | .stv p f => some (p, 5, memWord 0x04 f)
  | .stvs p f => some (p, 5, memWord 0x05 f)
  | .stvx p f => some (p, 5, memWord 0x06 f)
  | .qpush p f => some (p, 5, memWord 0x07 f)
  | .amoadd p f => some (p, 5, memWord 0x08 f)
  | .amomin p f => some (p, 5, memWord 0x09 f)
  | .amomax p f => some (p, 5, memWord 0x0A f)
  | .amominu p f => some (p, 5, memWord 0x0B f)
  | .amomaxu p f => some (p, 5, memWord 0x0C f)
  | .amoand p f => some (p, 5, memWord 0x0D f)
  | .amoor p f => some (p, 5, memWord 0x0E f)
  | .amoxor p f => some (p, 5, memWord 0x0F f)
  | .amoswap p f => some (p, 5, memWord 0x10 f)
  | .amocas p f => some (p, 5, memWord 0x11 f)
  | .amofadd p f => some (p, 5, memWord 0x12 f)
  | .cdset p f => some (p, 6, cpyWord 0x01 f)
  | .cdfmt p f => some (p, 6, cpyWord 0x02 f)
  | .cpy p f => some (p, 6, cpyWord 0x08 f)
  | .cpym p f => some (p, 6, cpyWord 0x09 f)
  | .cpyr p f => some (p, 6, cpyWord 0x0A f)
  | .chain p f => some (p, 6, cpyWord 0x0B f)
  | .cpyw p f => some (p, 6, cpyWord 0x0C f)
  | .lxfer p f => some (p, 6, cpyWord 0x10 f)
  | .lxred p f => some (p, 6, cpyWord 0x11 f)
  | .xamo p f => some (p, 6, cpyWord 0x12 f)
  | .cabort p f => some (p, 6, cpyWord 0x19 f)
  | .tkwait p f => some (p, 7, synWord 0x01 p f)
  | .tkpost p f => some (p, 7, synWord 0x02 p f)
  | .tkclr p f => some (p, 7, synWord 0x03 p f)
  | .bara p f => some (p, 7, synWord 0x08 p f)
  | .barw p f => some (p, 7, synWord 0x09 p f)
  | .barx p f => some (p, 7, synWord 0x0A p f)
  | .drain p f => some (p, 7, synWord 0x10 p f)
  | .fence p f => some (p, 7, synWord 0x11 p f)
  | .brel p f => some (p, 7, synWord 0x18 p f)
  | .bacq p f => some (p, 7, synWord 0x19 p f)
  | .chkeq p f => some (p, 7, synWord 0x20 p f)
  | .chkv p f => some (p, 7, synWord 0x21 p f)
  | .chka p f => some (p, 7, synWord 0x22 p f)
  | .vote p f => some (p, 7, synWord 0x23 p f)
  | .racq p f => some (p, 7, synWord 0x28 p f)
  | .rrel p f => some (p, 7, synWord 0x29 p f)
  | .reos p f => some (p, 7, synWord 0x2A p f)
  | .slack p f => some (p, 7, synWord 0x30 p f)
  | .twait p f => some (p, 7, synWord 0x31 p f)
  | .phase p f => some (p, 7, synWord 0x32 p f)
  | .tevt p f => some (p, 7, synWord 0x33 p f)
  | .uien p f => some (p, 7, synWord 0x34 p f)
  | .nominalFrameEnd => none
  | .hartInstruction _ => none
  | .emptyBundle p => some (p, 7, synWord 0 p Syn.zero)
  | .spareSelfTest => none
  | .readmission => none
  | .unknownCommand => none
  | .doorbellOverrun => none
  -- END ENC

/-- The slot words of 64 bytes (R75). -/
def slotWords : Nat → List Byte → List W64
  | 0, _ => []
  | k + 1, bs => BitVec.ofNat 64 (leNat (bs.take 8)) :: slotWords k (bs.drop 8)

/-- The bytes of slot words (R75). -/
def wordsBytes : List W64 → List Byte
  | [] => []
  | w :: ws => leBytes 8 w.toNat ++ wordsBytes ws

/-- A bundle: the prefix of its Y slot and its words that are not zero, each with its slot number. -/
structure Bundle where
  pfx  : Pfx
  ops  : List (Nat × W64)
  deriving DecidableEq, Repr

/-- Number the words of a list from `k` and keep those that are not empty (R76). A Y slot whose opcode is 0 and
whose operand bits [40:0] are zero is prefix-only. -/
def usedSlots : Nat → List W64 → List (Nat × W64)
  | _, [] => []
  | k, w :: ws =>
    let rest := usedSlots (k + 1) ws
    if w == 0 || (k == 7 && opOf w == 0 && fld w 0 41 == 0) then rest else (k, w) :: rest

/-- The bundle of 8 slot words. -/
def bundleOf (ws : List W64) : Bundle :=
  { pfx := pfxOf ((ws.drop 7).headD 0), ops := usedSlots 0 ws }

/-- The operation of a bundle that holds one operation or none. -/
def Bundle.single? (b : Bundle) : Option Instr :=
  match b.ops with
  | [] => some (.emptyBundle b.pfx)
  | [(k, w)] => decodeSlot k b.pfx w
  | _ => none

/-- The instruction that 64 bytes of an image encode, where they hold one operation or none. -/
def decodeBundle (bs : List Byte) : Option Instr := (bundleOf (slotWords 8 bs)).single?

/-- The eight slot words of a bundle that holds one word `w` in slot `k` under prefix `p`. -/
def bundleWords (p : Pfx) (k : Nat) (w : W64) : List W64 :=
  let y := synWord 0 p Syn.zero
  (List.range 8).map fun j => if j = k then w else if j = 7 then y else 0

/-! ## Hart instructions -/

/-- Bits of a 32-bit hart instruction. -/
def rfld (w : W32) (lo n : Nat) : BitVec n := w.extractLsb' lo n

def rdOf (w : W32) : RReg := rfld w 7 5
def rs1Of (w : W32) : RReg := rfld w 15 5
def rs2Of (w : W32) : RReg := rfld w 20 5
def f3Of (w : W32) : Nat := (rfld w 12 3).toNat
def f7Of (w : W32) : Nat := (rfld w 25 7).toNat

/-- The six custom instructions of Table 5-22; a field marked 0 that is not zero, and funct3 6 and 7, are illegal. -/
def decodeCustom (w : W32) : Option Instr :=
  let n := rfld w 25 7
  match f3Of w with
  | 0 => if rdOf w = 0 then some (.jqPush n (rs2Of w) (rs1Of w)) else none
  | 1 => if rs2Of w = 0 then some (.jqPop n (rs1Of w) (rdOf w)) else none
  | 2 => if rs2Of w = 0 then some (.jcSub n (rs1Of w) (rdOf w)) else none
  | 3 => if rs2Of w = 0 ∧ rs1Of w = 0 then some (.jcWm n (rdOf w)) else none
  | 4 => if rs2Of w = 0 ∧ rdOf w = 0 then some (.jtPost n (rs1Of w)) else none
  | 5 => if n = 0 then some (.jrWait (rs2Of w) (rs1Of w) (rdOf w)) else none
  | _ => none

/-- Register-register operations by funct7 and funct3 (RV32I, M, Zba, Zbb; PRESUMED from the RISC-V manuals that
R104 names). -/
def rvOpOf (f7 f3 : Nat) : Option RvOp :=
  match f7, f3 with
  | 0x00, 0 => some .add | 0x20, 0 => some .sub | 0x00, 1 => some .sll | 0x00, 2 => some .slt
  | 0x00, 3 => some .sltu | 0x00, 4 => some .xor | 0x00, 5 => some .srl | 0x20, 5 => some .sra
  | 0x00, 6 => some .or | 0x00, 7 => some .and
  | 0x01, 0 => some .mul | 0x01, 1 => some .mulh | 0x01, 2 => some .mulhsu | 0x01, 3 => some .mulhu
  | 0x01, 4 => some .div | 0x01, 5 => some .divu | 0x01, 6 => some .rem | 0x01, 7 => some .remu
  | 0x10, 2 => some .sh1add | 0x10, 4 => some .sh2add | 0x10, 6 => some .sh3add
  | 0x20, 7 => some .andn | 0x20, 6 => some .orn | 0x20, 4 => some .xnor
  | 0x05, 6 => some .max | 0x05, 7 => some .maxu | 0x05, 4 => some .min | 0x05, 5 => some .minu
  | 0x30, 1 => some .rol | 0x30, 5 => some .ror
  | _, _ => none

/-- funct7 and funct3 of a register-register operation. -/
def rvOpCode : RvOp → BitVec 7 × BitVec 3
  | .add => (0x00, 0) | .sub => (0x20, 0) | .sll => (0x00, 1) | .slt => (0x00, 2)
  | .sltu => (0x00, 3) | .xor => (0x00, 4) | .srl => (0x00, 5) | .sra => (0x20, 5)
  | .or => (0x00, 6) | .and => (0x00, 7)
  | .mul => (0x01, 0) | .mulh => (0x01, 1) | .mulhsu => (0x01, 2) | .mulhu => (0x01, 3)
  | .div => (0x01, 4) | .divu => (0x01, 5) | .rem => (0x01, 6) | .remu => (0x01, 7)
  | .sh1add => (0x10, 2) | .sh2add => (0x10, 4) | .sh3add => (0x10, 6)
  | .andn => (0x20, 7) | .orn => (0x20, 6) | .xnor => (0x20, 4)
  | .max => (0x05, 6) | .maxu => (0x05, 7) | .min => (0x05, 4) | .minu => (0x05, 5)
  | .rol => (0x30, 1) | .ror => (0x30, 5)

/-- The one-operand operations of Zbb that stand under opcode 0x13, by bits [31:20] and funct3. -/
def rvUnOf (i12 f3 : Nat) : Option RvUn :=
  match i12, f3 with
  | 0x600, 1 => some .clz | 0x601, 1 => some .ctz | 0x602, 1 => some .cpop
  | 0x604, 1 => some .sextb | 0x605, 1 => some .sexth | 0x287, 5 => some .orcb | 0x698, 5 => some .rev8
  | _, _ => none

/-- Shifts by an immediate under opcode 0x13, by funct7 and funct3. -/
def rvShiOf (f7 f3 : Nat) : Option RvShi :=
  match f7, f3 with
  | 0x00, 1 => some .slli | 0x00, 5 => some .srli | 0x20, 5 => some .srai | 0x30, 5 => some .rori
  | _, _ => none

/-- Opcode 0x13. -/
def decodeImm (w : W32) : Option RvInst :=
  let i := rfld w 20 12
  match f3Of w with
  | 0 => some (.imm .addi (rdOf w) (rs1Of w) i)
  | 2 => some (.imm .slti (rdOf w) (rs1Of w) i)
  | 3 => some (.imm .sltiu (rdOf w) (rs1Of w) i)
  | 4 => some (.imm .xori (rdOf w) (rs1Of w) i)
  | 6 => some (.imm .ori (rdOf w) (rs1Of w) i)
  | 7 => some (.imm .andi (rdOf w) (rs1Of w) i)
  | f3 =>
    match rvUnOf i.toNat f3 with
    | some u => some (.un u (rdOf w) (rs1Of w))
    | none => (rvShiOf (f7Of w) f3).map fun o => .shi o (rdOf w) (rs1Of w) (rs2Of w)

/-- Opcode 0x33. -/
def decodeReg (w : W32) : Option RvInst :=
  if f7Of w = 0x04 ∧ f3Of w = 4 ∧ rs2Of w = 0 then some (.un .zexth (rdOf w) (rs1Of w))
  else (rvOpOf (f7Of w) (f3Of w)).map fun o => .op o (rdOf w) (rs1Of w) (rs2Of w)

/-- Opcode 0x63: the offset bits [12:1] from their places in the word. -/
def decodeBranch (w : W32) : Option RvInst :=
  let i : BitVec 12 := rfld w 31 1 ++ rfld w 7 1 ++ rfld w 25 6 ++ rfld w 8 4
  let mk := fun c => some (RvInst.branch c (rs1Of w) (rs2Of w) i)
  match f3Of w with
  | 0 => mk .beq | 1 => mk .bne | 4 => mk .blt | 5 => mk .bge | 6 => mk .bltu | 7 => mk .bgeu
  | _ => none

/-- Opcodes 0x03 and 0x23. -/
def decodeLoad (w : W32) : Option RvInst :=
  let mk := fun c => some (RvInst.load c (rdOf w) (rs1Of w) (rfld w 20 12))
  match f3Of w with
  | 0 => mk .lb | 1 => mk .lh | 2 => mk .lw | 4 => mk .lbu | 5 => mk .lhu
  | _ => none
def decodeStore (w : W32) : Option RvInst :=
  let mk := fun c => some (RvInst.store c (rs1Of w) (rs2Of w) (rfld w 25 7 ++ rfld w 7 5))
  match f3Of w with
  | 0 => mk .sb | 1 => mk .sh | 2 => mk .sw
  | _ => none

/-- Opcode 0x73 but for `ecall`: Zicsr and `ebreak`. -/
def decodeSystem (w : W32) : Option RvInst :=
  let mk := fun o => some (RvInst.csr o (rdOf w) (rs1Of w) (rfld w 20 12))
  match f3Of w with
  | 0 => if w = 0x00100073 then some .ebreak else none
  | 1 => mk .rw | 2 => mk .rs | 3 => mk .rc | 5 => mk .rwi | 6 => mk .rsi | 7 => mk .rci
  | _ => none

/-- A 32-bit instruction of the sets that R104 names, but for `ecall` and the custom ones. -/
def decodeRv (w : W32) : Option RvInst :=
  match (rfld w 0 7).toNat with
  | 0x37 => some (.lui (rdOf w) (rfld w 12 20))
  | 0x17 => some (.auipc (rdOf w) (rfld w 12 20))
  | 0x6F => some (.jal (rdOf w) (rfld w 31 1 ++ rfld w 12 8 ++ rfld w 20 1 ++ rfld w 21 10))
  | 0x67 => if f3Of w = 0 then some (.jalr (rdOf w) (rs1Of w) (rfld w 20 12)) else none
  | 0x63 => decodeBranch w
  | 0x03 => decodeLoad w
  | 0x23 => decodeStore w
  | 0x13 => decodeImm w
  | 0x33 => decodeReg w
  | 0x0F =>
    match f3Of w with
    | 0 => some (.fence (rdOf w) (rs1Of w) (rfld w 20 12))
    | 1 => some (.fencei (rdOf w) (rs1Of w) (rfld w 20 12))
    | _ => none
  | 0x73 => decodeSystem w
  | _ => none

/-- A 32-bit hart instruction (R104, R105); none is an illegal instruction. -/
def decodeHart32 (w : W32) : Option Instr :=
  if (rfld w 0 7).toNat = 0x0B then decodeCustom w
  else if w = 0x00000073 then some .hartEcall
  else (decodeRv w).map fun r => .hartInstruction (.full r)

/-- The instruction at the head of a hart's instruction bytes and its length in bytes. -/
def decodeHart (bs : List Byte) : Option (Instr × Nat) :=
  let lo := leNat (bs.take 2)
  if lo % 4 = 3 then (decodeHart32 (BitVec.ofNat 32 (leNat (bs.take 4)))).map fun i => (i, 4)
  else some (.hartInstruction (.compressed (BitVec.ofNat 16 lo)), 2)

def rType (f7 : BitVec 7) (rs2 rs1 : RReg) (f3 : BitVec 3) (rd : RReg) (op : BitVec 7) : W32 :=
  f7 ++ rs2 ++ rs1 ++ f3 ++ rd ++ op
def iType (imm : BitVec 12) (rs1 : RReg) (f3 : BitVec 3) (rd : RReg) (op : BitVec 7) : W32 :=
  imm ++ rs1 ++ f3 ++ rd ++ op

def rvBrCode : RvBr → BitVec 3
  | .beq => 0 | .bne => 1 | .blt => 4 | .bge => 5 | .bltu => 6 | .bgeu => 7
def rvLdCode : RvLd → BitVec 3
  | .lb => 0 | .lh => 1 | .lw => 2 | .lbu => 4 | .lhu => 5
def rvStCode : RvSt → BitVec 3
  | .sb => 0 | .sh => 1 | .sw => 2
def rvImmCode : RvImm → BitVec 3
  | .addi => 0 | .slti => 2 | .sltiu => 3 | .xori => 4 | .ori => 6 | .andi => 7
def rvShiCode : RvShi → BitVec 7 × BitVec 3
  | .slli => (0x00, 1) | .srli => (0x00, 5) | .srai => (0x20, 5) | .rori => (0x30, 5)
def rvCsrCode : RvCsr → BitVec 3
  | .rw => 1 | .rs => 2 | .rc => 3 | .rwi => 5 | .rsi => 6 | .rci => 7

/-- The 32-bit word of a hart instruction. -/
def rvWord : RvInst → W32
  | .lui rd i => i ++ rd ++ (0x37 : BitVec 7)
  | .auipc rd i => i ++ rd ++ (0x17 : BitVec 7)
  | .jal rd i =>
    i.extractLsb' 19 1 ++ i.extractLsb' 0 10 ++ i.extractLsb' 10 1 ++ i.extractLsb' 11 8 ++ rd ++ (0x6F : BitVec 7)
  | .jalr rd rs1 i => iType i rs1 0 rd 0x67
  | .branch c rs1 rs2 i =>
    i.extractLsb' 11 1 ++ i.extractLsb' 4 6 ++ rs2 ++ rs1 ++ rvBrCode c ++ i.extractLsb' 0 4 ++ i.extractLsb' 10 1
      ++ (0x63 : BitVec 7)
  | .load c rd rs1 i => iType i rs1 (rvLdCode c) rd 0x03
  | .store c rs1 rs2 i => i.extractLsb' 5 7 ++ rs2 ++ rs1 ++ rvStCode c ++ i.extractLsb' 0 5 ++ (0x23 : BitVec 7)
  | .imm o rd rs1 i => iType i rs1 (rvImmCode o) rd 0x13
  | .shi o rd rs1 sh => rType (rvShiCode o).1 sh rs1 (rvShiCode o).2 rd 0x13
  | .un .clz rd rs1 => iType 0x600 rs1 1 rd 0x13
  | .un .ctz rd rs1 => iType 0x601 rs1 1 rd 0x13
  | .un .cpop rd rs1 => iType 0x602 rs1 1 rd 0x13
  | .un .sextb rd rs1 => iType 0x604 rs1 1 rd 0x13
  | .un .sexth rd rs1 => iType 0x605 rs1 1 rd 0x13
  | .un .zexth rd rs1 => rType 0x04 0 rs1 4 rd 0x33
  | .un .orcb rd rs1 => iType 0x287 rs1 5 rd 0x13
  | .un .rev8 rd rs1 => iType 0x698 rs1 5 rd 0x13
  | .op o rd rs1 rs2 => rType (rvOpCode o).1 rs2 rs1 (rvOpCode o).2 rd 0x33
  | .fence rd rs1 i => iType i rs1 0 rd 0x0F
  | .fencei rd rs1 i => iType i rs1 1 rd 0x0F
  | .csr o rd src n => iType n src (rvCsrCode o) rd 0x73
  | .ebreak => 0x00100073

/-- The bytes of a hart instruction. -/
def hartBytes : Instr → Option (List Byte)
  | .hartInstruction (.full r) => some (leBytes 4 (rvWord r).toNat)
  | .hartInstruction (.compressed h) => some (leBytes 2 h.toNat)
  | .hartEcall => some (leBytes 4 0x73)
  | .jqPush n b a => some (leBytes 4 (rType n b a 0 0 0x0B).toNat)
  | .jqPop n a d => some (leBytes 4 (rType n 0 a 1 d 0x0B).toNat)
  | .jcSub n a d => some (leBytes 4 (rType n 0 a 2 d 0x0B).toNat)
  | .jcWm n d => some (leBytes 4 (rType n 0 0 3 d 0x0B).toNat)
  | .jtPost n a => some (leBytes 4 (rType n 0 a 4 0 0x0B).toNat)
  | .jrWait b a d => some (leBytes 4 (rType 0 b a 5 d 0x0B).toNat)
  | _ => none

/-- The bytes that encode an instruction: 64 of a bundle for a slot operation or the empty bundle, 2 or 4 for a hart
instruction, none for a step that no program text holds. -/
def encode (i : Instr) : List Byte :=
  match slotWord i with
  | some (p, k, w) => wordsBytes (bundleWords p k w)
  | none => (hartBytes i).getD []

/-- Decode bytes, as a bundle where there are 64 of them and as a hart instruction otherwise; total on any bytes. -/
def decode (bs : List Byte) : Option Instr :=
  if bs.length = 64 then decodeBundle bs else (decodeHart bs).map Prod.fst

/-- The decoder on an instruction given as a number, its first byte lowest. Rows of up to 32 bits are hart
instructions (the only rows to which the table gives bits); 64 or more bits are a bundle whose further bits are 0. -/
def decodeTableWord (nbits w : Nat) : Option Instr :=
  if nbits ≤ 32 then (decodeHart (leBytes 4 w)).map Prod.fst else decodeBundle (leBytes 64 w)

end Sys2Proof
end

