-- ==== Sys2Proof/Machine/Ops.lean ====
section
/-!
DEFINITION. The named operations over memory, registers, logs and contexts, and taking and leaving a trap.
-/
namespace Sys2Proof.Machine
open Sys2Proof

/-- The outcome of a meaning. -/
abbrev Out := Host.Outcome State Fault Refusal

/-! ## Keys and accessors -/

/-- The key of a physical core (34 per chiplet, R55). -/
def coreKey (pos core : Nat) : Nat := pos * 34 + core
/-- The key of a context (4 per core, R106). -/
def ctxKey (pos core ctx : Nat) : Nat := coreKey pos core * 4 + ctx
/-- The core of a context. -/
def ckCore (ck : Nat) : Nat := ck / 4
/-- The number of a context on its core. -/
def ckCtx (ck : Nat) : Nat := ck % 4
/-- The chiplet of a core. -/
def corePos (k : Nat) : Nat := k / 34
/-- The physical number of a core on its chiplet. -/
def corePhys (k : Nat) : Nat := k % 34
/-- The chiplet of a context. -/
def ckPos (ck : Nat) : Nat := corePos (ckCore ck)

/-- The unit exists: 4 chiplets, 34 cores each, 4 contexts each (R7, R106). -/
def unitOk (pos core ctx : Nat) : Bool := decide (pos < 4) && decide (core < 34) && decide (ctx < 4)

def State.chip (s : State) (pos : Nat) : Chip := sget Chip.reset s.chips pos
def State.setChip (s : State) (pos : Nat) (c : Chip) : State := { s with chips := sput s.chips pos c }
def State.modChip (s : State) (pos : Nat) (f : Chip → Chip) : State := s.setChip pos (f (s.chip pos))
def State.core (s : State) (k : Nat) : CoreSt := sget CoreSt.reset s.cores k
def State.setCore (s : State) (k : Nat) (c : CoreSt) : State := { s with cores := sput s.cores k c }
def State.modCore (s : State) (k : Nat) (f : CoreSt → CoreSt) : State := s.setCore k (f (s.core k))
def State.ctx (s : State) (ck : Nat) : Ctx := sget Ctx.reset s.ctxs ck
def State.setCtx (s : State) (ck : Nat) (c : Ctx) : State := { s with ctxs := sput s.ctxs ck c }
def State.modCtx (s : State) (ck : Nat) (f : Ctx → Ctx) : State := s.setCtx ck (f (s.ctx ck))

/-- The key of the context in focus. -/
def State.fck (s : State) : Nat := ctxKey s.focus.pos s.focus.core s.focus.ctx
/-- The key of the core in focus. -/
def State.fk (s : State) : Nat := coreKey s.focus.pos s.focus.core

/-- The common time of the chiplet of a context (R353). -/
def State.ctOf (s : State) (pos : Nat) : Nat := (s.chip pos).ct

/-- The cycle of a context's core (R109). -/
def State.now (s : State) (ck : Nat) : Nat := (s.core (ckCore ck)).cycle

/-- A free value, and the state whose counter has advanced. -/
def State.takeFree (s : State) : W64 × State := (Config.freeW s.free, { s with free := s.free + 1 })

/-- A new identity, in issue order. -/
def State.takeId (s : State) : Nat × State := (s.nextId, { s with nextId := s.nextId + 1 })

/-! ## Interrupts to the host, error records, slips and the log -/

/-- Fire an MSI-X vector, which carries the CT (R9): a masked vector sets its pending bit (R40). -/
def fireVector (s : State) (pos v : Nat) : State :=
  s.modChip pos fun c =>
    if c.msixMask.getLsbD v then { c with msixPend := c.msixPend ||| BitVec.ofNat 32 (2 ^ v) }
    else { c with msix := c.msix ++ [(v, c.ct)] }

/-- The log's capacity in records, CAP (R357). -/
def Chip.tbCap (c : Chip) : Nat := bitsOf c.tbBase.toNat 63 46 * 128
/-- The records that the log holds, WR − RD (R357). -/
def Chip.tbUsed (c : Chip) : Nat := (c.tbWr - c.tbRd).toNat
/-- The free places of the log, FREE (R358). -/
def Chip.tbFree (c : Chip) : Nat := c.tbCap - c.tbUsed
/-- TBCTL.MODE (R357). -/
def Chip.tbMode (c : Chip) : Nat := bitsOf c.tbCtl.toNat 19 18
/-- TBCTL.POL: 0 hold, 1 truncate (R357). -/
def Chip.tbPol (c : Chip) : Nat := bitsOf c.tbCtl.toNat 17 17
/-- TBCTL.PARTREC holds partition `p` (R355). -/
def Chip.tbPart (c : Chip) (p : Nat) : Bool := c.tbCtl.getLsbD (24 + p)

/-- A record of the Tablature, before CT and SEQ are added (R354). -/
structure Rec where
  kind  : Nat
  sub   : Nat
  lcore : Nat
  ctx   : Nat
  agent : Nat
  a     : W64
  b     : W64
  deriving DecidableEq, Repr

/-- The four words of a record (Table 17-2). -/
def Rec.words (r : Rec) (ct : Nat) (seq : W32) (pos : Nat) : List W64 :=
  [BitVec.ofNat 64 ct,
   BitVec.ofNat 64 (seq.toNat * 2 ^ 32 + r.kind % 256 * 2 ^ 24 + r.sub % 256 * 2 ^ 16 + pos % 4 * 2 ^ 14
     + r.lcore % 128 * 2 ^ 7 + r.ctx % 4 * 2 ^ 5 + r.agent % 32),
   r.a, r.b]

/-- The memory-side cache holds copies of DRAM: its sectors are numbered by the DRAM address that they hold, from here on (R7,
R327). The node store's are numbered above them. -/
def mscBase : Nat := 0x800000000000
def nodeStore : Nat := 0x900000000000

/-- The sector of the node store that holds part `i` of the record of a node, 32 bytes (R327). -/
def nodeSector (pos gid idx i : Nat) : Nat := nodeStore + pos * 2 ^ 32 + gid * 2 ^ 20 + idx * 256 + 32 * i

/-- The address of a sector. -/
def sectorAddr (x : Nat) : Nat := if mscBase ≤ x ∧ x < nodeStore then x - mscBase else x

/-- The sectors of `n` bytes at `a`, 64 bytes in DRAM and 32 bytes in SRAM (R327). Those of DRAM stand in the memory-side cache too. -/
def sectorSize (a : Nat) : Nat := if a < 0x2000000000 then 64 else 32
def sectorOf (a : Nat) : Nat := a - a % sectorSize a
def sectorRun (z a n : Nat) : List Nat :=
  let s0 := a - a % z
  (List.range ((a + n - s0 + z - 1) / z)).map fun i => s0 + i * z
def sectorsOf (a n : Nat) : List Nat :=
  if a < 0x2000000000 then sectorRun 64 a n ++ (sectorRun 32 a n).map (mscBase + ·) else sectorRun 32 a n

/-- A read of `n` bytes meets an uncorrectable sector (R327). -/
def State.readBad (s : State) (a n : Nat) : Bool := !s.bad.isEmpty && (sectorsOf a n).any fun x => s.bad.contains x

/-- The first uncorrectable sector that a read of `n` bytes meets. -/
def State.badSector (s : State) (a n : Nat) : Nat := ((sectorsOf a n).find? fun x => s.bad.contains x).getD (sectorOf a)

/-- `n` bytes at `a` cover a sector of theirs only in part. -/
def coversPart (a n x : Nat) : Bool := decide (sectorAddr x < a) || decide (a + n < sectorAddr x + sectorSize x)

/-- A write of `n` bytes covers part of an uncorrectable sector (R328). -/
def State.writeBad (s : State) (a n : Nat) : Bool :=
  !s.bad.isEmpty && (sectorsOf a n).any fun x => s.bad.contains x && coversPart a n x

/-- A write clears the uncorrectable errors of the sectors it covers whole and the correctable ones of those it touches, and drops
their queued write-backs (R328, R330). -/
def State.clearErr (s : State) (a n : Nat) : State :=
  if s.bad = [] ∧ s.weak = [] ∧ s.scrubQ = [] then s
  else
  let whole := (sectorsOf a n).filter fun x => !coversPart a n x
  { s with bad := s.bad.filter fun x => !whole.contains x
           weak := s.weak.filter fun x => !(sectorsOf a n).contains x
           scrubQ := s.scrubQ.filter fun x => !(sectorsOf a n).contains x }

/-- LOST, saturating (Table 17-5). -/
def bumpLost (c : Chip) : Chip := { c with tbLost := if c.tbLost = 0xFFFFFFFF then c.tbLost else c.tbLost + 1 }

/-- An entry of the ring of error records, with the counts of ERRSTAT (R329); an uncorrectable error fires vector 6 (R327). -/
def errEntry (s : State) (pos kind array pcore pa : Nat) : State :=
  let unc := kind % 2 = 1
  let s1 := s.modChip pos fun c =>
    { c with
      errCorr := if unc then c.errCorr else min 0xFFFF (c.errCorr + 1)
      errUnc := if unc then min 0xFFFF (c.errUnc + 1) else c.errUnc
      errNext := (c.errNext + 1) % 65536
      errRing := sput c.errRing (c.errNext % 64)
        (BitVec.ofNat 64 c.ct, BitVec.ofNat 64 (kind * 2 ^ 62 + array * 2 ^ 58 + pcore * 2 ^ 52 + pa % 2 ^ 46)) }
  if unc then fireVector s1 pos 6 else s1

/-- Write one Tablature record at WR (R357): a record whose place takes no write is lost, with the error record of a refused
write (Table 16-1, R328), for which no event record is tried (log entry 22). -/
def putRec (s : State) (pos : Nat) (ws : List W64) : State :=
  let c := s.chip pos
  let a := bitsOf c.tbBase.toNat 45 12 * 4096 + 32 * (c.tbWr.toNat % c.tbCap)
  match (sectorsOf a 32).find? fun x => s.bad.contains x && coversPart a 32 x with
  | some x =>
    errEntry (s.setChip pos (bumpLost c)) (sectorAddr x / 0x800000000) 1 (if mscBase ≤ x then 10 else 0) 0 (sectorAddr x)
  | none =>
    let used := c.tbUsed
    let th := bitsOf c.tbCtl.toNat 15 0
    let s1 := s.clearErr a 32
    let s2 := { s1 with mem := s1.mem.writeBytes a (wordsBytes ws) }
    let s3 := s2.setChip pos { c with tbWr := c.tbWr + 1, tbSeq := c.tbSeq + 1 }
    if th ≠ 0 ∧ used + 1 = th then fireVector s3 pos 7 else s3

/-- Write a record that is not held back: an event record, or a decision that R358 lets through. Under truncate the
first record that meets FREE = 1 becomes the end marker (R359). -/
def logRec (s : State) (pos : Nat) (r : Rec) : State :=
  let c := s.chip pos
  if c.tbMode ≠ 1 then s
  else if c.tbPol = 1 then
    if c.tbStop then s.setChip pos (bumpLost c)
    else if c.tbFree ≤ 1 then
      let e : Rec := { kind := 10, sub := 0, lcore := 0x7F, ctx := 0, agent := 4,
                       a := BitVec.ofNat 64 c.tbLost.toNat, b := 0 }
      let s1 := putRec s pos (e.words c.ct c.tbSeq pos)
      s1.modChip pos fun c => bumpLost { c with tbTrunc := true, tbStop := true }
    else putRec s pos (r.words c.ct c.tbSeq pos)
  else if c.tbFree = 0 then s.setChip pos (bumpLost c)
  else putRec s pos (r.words c.ct c.tbSeq pos)

/-- The error record of R329 and its event record, whose detail Table 17-3 leaves open: a free value. -/
def errRecord (s : State) (pos kind array pcore pa : Nat) : State :=
  let (d, s1) := (errEntry s pos kind array pcore pa).takeFree
  logRec s1 pos { kind := 3, sub := 0, lcore := 0x7F, ctx := 0, agent := 5, a := BitVec.ofNat 64 pa, b := d }

/-! ## The physical map -/

/-- The on-chip window of a core (Table 10-1). -/
def winBase (k : Nat) : Nat := 0x100000000000 + corePos k * 2 ^ 36 + corePhys k * 2 ^ 24

/-- The contents of an on-chip window by offset (Table 10-2). -/
inductive Area where
  | pad | acc | vfile | frame | istore | lIst | lDat | sIst | sDat | ctl | hole
  deriving DecidableEq, Repr

def areaOf (off : Nat) : Area :=
  if off < 0x400000 then .pad
  else if off < 0x500000 then .acc
  else if off < 0x514000 then .vfile
  else if off < 0x580000 then .hole
  else if off < 0x5C0000 then .frame
  else if off < 0x600000 then .hole
  else if off < 0x640000 then .istore
  else if off < 0x648000 then .lIst
  else if off < 0x64A000 then .lDat
  else if off < 0x650000 then .hole
  else if off < 0x658000 then .sIst
  else if off < 0x65A000 then .sDat
  else if off < 0x700000 then .hole
  else if off < 0x710000 then .ctl
  else .hole

/-- What a physical address names (Table 10-1): `held` is an alias of a logical core whose remap is under way, where accesses are
held at the fabric (R56). -/
inductive Place where
  | dram (pos : Nat)
  | window (core off : Nat)
  | held (pos n off : Nat)
  | chipCtl (pos off : Nat)
  | host (h : Nat)
  | hole
  deriving DecidableEq, Repr

/-- The physical core of a logical core of a chiplet (R55). -/
def Chip.lc (c : Chip) (n : Nat) : LcEnt := sget (LcEnt.reset n) c.lcmap n

/-- The package position of logical chiplet `l`, by LCHIP.POS (R55). -/
def Chip.posOf (c : Chip) (l : Nat) : Nat := bitsOf c.lchip (2 * l + 1) (2 * l)

/-- The logical chiplet of a package position. -/
def Chip.logicalOf (c : Chip) (pos : Nat) : Nat :=
  if c.posOf 0 = pos then 0 else if c.posOf 1 = pos then 1 else if c.posOf 2 = pos then 2 else 3

/-- The logical number (0 to 31) of a physical core, none for a core that no entry maps. -/
def Chip.lcOf? (c : Chip) (phys : Nat) : Option Nat :=
  (List.range 32).find? fun n => (c.lc n).valid && (c.lc n).pcore == phys

/-- The package-wide logical number of a core, 0 to 127 (Table 8-8). -/
def logicalCore (s : State) (k : Nat) : Nat :=
  32 * (s.chip (corePos k)).logicalOf (corePos k) + ((s.chip (corePos k)).lcOf? (corePhys k)).getD 0

/-- The place of a physical address, logical core aliases routed by the maps of chiplet `from` (R55, R192). -/
def placeOf (s : State) (from_ pa : Nat) : Place :=
  if pa < 0x2000000000 then .dram (pa / 0x800000000)
  else if 0x100000000000 ≤ pa ∧ pa < 0x180000000000 then
    let c := bitsOf pa 42 36
    let p := bitsOf pa 35 24
    if c < 4 ∧ p < 34 ∧ areaOf (pa % 2 ^ 24) ≠ .hole then .window (coreKey c p) (pa % 2 ^ 24) else .hole
  else if 0x180000000000 ≤ pa ∧ pa < 0x180000000000 + 128 * 2 ^ 24 then
    let l := bitsOf pa 30 24
    let chip := s.chip from_
    let pos := chip.posOf (l / 32)
    let e := (s.chip pos).lc (l % 32)
    if areaOf (pa % 2 ^ 24) = .hole then .hole
    else if e.valid then .window (coreKey pos e.pcore) (pa % 2 ^ 24)
    else if e.cstate = 2 then .held pos (l % 32) (pa % 2 ^ 24) else .hole
  else if 0x200000000000 ≤ pa ∧ pa < 0x200000000000 + 4 * 2 ^ 32 ∧ pa % 2 ^ 32 < 0x10000000 then
    .chipCtl (bitsOf pa 33 32) (pa % 2 ^ 32)
  else if 0x300000000000 ≤ pa ∧ pa < 0x400000000000 then .host (pa - 0x300000000000)
  else .hole

/-- The physical address behind the aliases, for DRAM and on-chip windows. -/
def Place.addr : Place → Nat → Nat
  | .window k off, _ => winBase k + off
  | _, pa => pa

/-- The scalar bank and the fret bank have no addresses of the map: their sectors are numbered above it. The sector of entry `n` of a
context's scalar registers, and the first of a core's fret bank, 256 KiB (R327). -/
def scalarSector (ck n : Nat) : Nat := 0x400000000000 + ck * 0x1000 + n / 4 * 32
def fretBase (k : Nat) : Nat := 0x480000000000 + k * 0x40000

/-- The chiplet that holds a place; host requests and holes stay on the requester's. -/
def placePos (pos : Nat) : Place → Nat
  | .dram p => p
  | .held p _ _ => p
  | .window k _ => corePos k
  | .chipCtl p _ => p
  | .host _ => pos
  | .hole => pos

/-- The link between two chiplets as chiplet `pos` sees it. -/
def State.link (s : State) (pos peer : Nat) : Link := sget Link.reset (s.chip pos).links peer

/-- The sending stream to a chiplet and class. -/
def State.txOf (s : State) (pos dst cls : Nat) : TxStream := sget TxStream.reset (s.chip pos).tx (dst * 8 + cls)

/-- The sender holds fewer than 64 unacknowledged messages (R299). -/
def canSend (s : State) (pos dst cls : Nat) : Bool := decide ((s.txOf pos dst cls).unacked.length < 64)

/-- The class of the messages that carry an access to another chiplet (Table 14-4). -/
def AccKind.cls : AccKind → Nat
  | .store => 0
  | .amo _ _ => 3
  | .load _ _ | .bcast _ | .loadV | .qpop _ | .qpush _ => 1

/-- The array of an address for the error record (Table 16-3). -/
def arrayOf (pa : Nat) : Nat :=
  if pa < 0x2000000000 then 0
  else if nodeStore ≤ pa then 9
  else if mscBase ≤ pa then 10
  else if 0x480000000000 ≤ pa then 8
  else if 0x400000000000 ≤ pa then 5
  else match areaOf (pa % 2 ^ 24) with
    | .pad => 1 | .acc => 2 | .vfile => 3 | .frame => 4 | .istore => 6
    | .lIst => 7 | .lDat => 7 | .sIst => 7 | .sDat => 7 | .ctl => 9 | .hole => 0

/-- The chiplet whose controller holds a sector, and the physical core of an on-chip one. -/
def homeOf (pa : Nat) : Nat × Nat :=
  if sectorAddr pa < 0x2000000000 then (sectorAddr pa / 0x800000000, 0)
  else if nodeStore ≤ pa then ((pa - nodeStore) / 2 ^ 32, 0)
  else if 0x480000000000 ≤ pa then (corePos ((pa - 0x480000000000) / 0x40000), corePhys ((pa - 0x480000000000) / 0x40000))
  else if 0x400000000000 ≤ pa then (corePos ((pa - 0x400000000000) / 0x4000), corePhys ((pa - 0x400000000000) / 0x4000))
  else (bitsOf pa 37 36, bitsOf pa 35 24)

/-- The PA field of the error record of a sector: an array offset for the scalar bank, the fret bank and the node store
(Table 16-3). -/
def recPa (x : Nat) : Nat :=
  if nodeStore ≤ x then x % 2 ^ 32
  else if mscBase ≤ x then sectorAddr x
  else if 0x480000000000 ≤ x then (x - 0x480000000000) % 0x40000 else if 0x400000000000 ≤ x then x % 0x1000 else x

/-- The error record of a sector. -/
def errSector (s : State) (kind x : Nat) : State := errRecord s (homeOf x).1 kind (arrayOf x) (homeOf x).2 (recPa x)

/-- The sectors of a read: uncorrectable ones are recorded (R327); correctable ones are recorded and queued for
write-back (R327, R330). -/
def State.noteRead (s : State) (a n : Nat) : State :=
  if s.bad = [] ∧ s.weak = [] then s
  else (sectorsOf a n).foldl (fun s x =>
    if s.bad.contains x then errSector s 1 x
    else if s.weak.contains x then
      let s1 := errSector s 0 x
      if s1.scrubQ.contains x then s1 else { s1 with scrubQ := s1.scrubQ ++ [x] }
    else s) s

/-- The record of a refused partial write (R328). -/
def State.noteRefused (s : State) (a n : Nat) : State :=
  match (sectorsOf a n).find? fun x => s.bad.contains x && coversPart a n x with
  | some x => errSector s 1 x
  | none => s

/-- The read-modify-write of a store that covers part of a correctable sector corrects it like any other read (R330). -/
def State.notePart (s : State) (a n : Nat) : State :=
  if s.weak = [] then s
  else (sectorsOf a n).foldl (fun s x =>
    if s.weak.contains x && coversPart a n x then errSector s 0 x else s) s

/-- Write bytes, clearing what errors they cover. -/
def State.writeMem (s : State) (a : Nat) (bs : List Byte) : State :=
  let s1 := (s.notePart a bs.length).clearErr a bs.length
  { s1 with mem := s1.mem.writeBytes a bs }

def State.readNat (s : State) (a n : Nat) : Nat := s.mem.readLE a n
def State.read64 (s : State) (a : Nat) : W64 := BitVec.ofNat 64 (s.mem.readLE a 8)
def State.write64 (s : State) (a : Nat) (w : W64) : State := s.writeMem a (leBytes 8 w.toNat)

/-! ## Registers -/

/-- The entry of a context's scalar registers that holds register `n` (R123, R311, R319): 0 to 255 the bank, 256 on
the unwindowed registers, 272 on the user-interrupt bank, 280 and 288 on trap banks 1 and 2. -/
def Ctx.sphys (c : Ctx) (n : Nat) : Nat :=
  if 16 ≤ n then (c.wp + n - 16) % 256
  else if 8 ≤ n then
    if c.tl = 1 then 280 + (n - 8)
    else if c.tl = 2 then 288 + (n - 8)
    else if c.ui.inh then 272 + (n - 8)
    else 256 + n
  else 256 + n

/-- Scalar register `n`; s0 reads zero (R78). -/
def Ctx.s (c : Ctx) (n : Nat) : W64 := if n = 0 then 0 else sget 0 c.sregs (c.sphys n)

/-- The address of physical vector register `p` of a core (Table 10-2). -/
def vregAddr (k p : Nat) : Nat := winBase k + 0x500000 + 128 * p

/-- Physical vector register `p` of a core. -/
def State.vphys (s : State) (k p : Nat) : VReg := BitVec.ofNat 1024 (s.mem.readLE (vregAddr k p) 128)

/-- Vector register `n` of a context (R59). -/
def State.v (s : State) (ck n : Nat) : VReg := s.vphys (ckCore ck) ((s.ctx ck).vBase + n)

/-- Mask register `n` of a context. -/
def Ctx.m (c : Ctx) (n : Nat) : BitVec 128 := sget 0 c.masks n

/-- The mask that governs an operation with MK = `n` (R122). -/
def Ctx.maskOf (c : Ctx) (n : Nat) : BitVec 128 :=
  if n = 0 then c.mstack.headD (BitVec.allOnes 128) else c.m n

/-- Bytes of `old` with those of `new` in the lanes set. -/
def mixBytes : Nat → Nat → Nat → Nat → Nat
  | 0, _, _, _ => 0
  | k + 1, lanes, new, old =>
    (if lanes % 2 = 1 then new % 256 else old % 256) + 256 * mixBytes k (lanes / 2) (new / 256) (old / 256)

/-- The lanes of 32-bit groups `g` (R109). -/
def groupLanes (g : BitVec 32) : BitVec 128 :=
  (List.range 32).foldl (fun m i => if g.getLsbD i then m ||| BitVec.ofNat 128 (15 * 2 ^ (4 * i)) else m) 0

/-- The lanes of a destination in the 32-bit groups `g`: bytes, and for a mask register its own bits (R109). -/
def Dest.lanesOf (d : Dest) (g : BitVec 32) : BitVec 128 :=
  match d with
  | .m _ => (List.range 4).foldl (fun m i => if g.getLsbD i then m ||| BitVec.ofNat 128 (0xFFFFFFFF * 2 ^ (32 * i)) else m) 0
  | .s _ => groupLanes g
  | .v _ => groupLanes g

/-- The groups of a destination: 2 of a scalar, 32 of a vector register, 4 of a mask (R109). -/
def Dest.groups : Dest → BitVec 32
  | .s _ => 3
  | .v _ => BitVec.allOnes 32
  | .m _ => 15

/-- The byte lanes of sector `i` of a vector register. -/
def sectorLanes (lanes : BitVec 128) (i : Nat) : Nat := (lanes.extractLsb' (32 * i) 32).toNat

/-- The sectors of a vector register that lanes cover in part (R328). -/
def partSectors (lanes : BitVec 128) : List Nat :=
  (List.range 4).filter fun i => sectorLanes lanes i != 0 && sectorLanes lanes i != 0xFFFFFFFF

/-- The first uncorrectable sector that a register write covers in part (R328). -/
def State.destBad (s : State) (ck : Nat) (d : Dest) (lanes : BitVec 128) : Option Nat :=
  match d with
  | .s n => if s.bad.contains (scalarSector ck n) then some (scalarSector ck n) else none
  | .v p => ((partSectors lanes).map fun i => vregAddr (ckCore ck) p + 32 * i).find? fun x => s.bad.contains x
  | .m _ => none

/-- A register write corrects the sector that it covers in part, like any other read (R330). -/
def State.noteDest (s : State) (ck : Nat) (d : Dest) (lanes : BitVec 128) : State :=
  if s.weak = [] then s
  else
    let xs := match d with
      | .s n => [scalarSector ck n]
      | .v p => (partSectors lanes).map fun i => vregAddr (ckCore ck) p + 32 * i
      | .m _ => []
    xs.foldl (fun s x => if s.weak.contains x then
      let s1 := errSector s 0 x
      { s1 with weak := s1.weak.filter (· != x), scrubQ := s1.scrubQ.filter (· != x) }
    else s) s

/-- Store the lanes `lanes` of `val` in a destination. A write that covers part of an uncorrectable sector is refused whole, with
its record (R328, log entry 54). -/
def State.putDest (s : State) (ck : Nat) (d : Dest) (lanes : BitVec 128) (val : VReg) : State :=
  match s.destBad ck d lanes with
  | some x => errSector s 1 x
  | none =>
    let s := s.noteDest ck d lanes
    match d with
    | .s n => s.modCtx ck fun c =>
        { c with sregs := sput c.sregs n (BitVec.ofNat 64 (mixBytes 8 lanes.toNat val.toNat (sget 0 c.sregs n).toNat)) }
    | .v p =>
        let k := ckCore ck
        let new := leBytes 128 (mixBytes 128 lanes.toNat val.toNat (s.vphys k p).toNat)
        let s1 := ((List.range 4).filter fun i => sectorLanes lanes i == 0xFFFFFFFF).foldl
          (fun s i => s.clearErr (vregAddr k p + 32 * i) 32) s
        { s1 with mem := s1.mem.writeBytes (vregAddr k p) new }
    | .m n => s.modCtx ck fun c =>
        { c with masks := sput c.masks n ((val.setWidth 128 &&& lanes) ||| (c.m n &&& ~~~lanes)) }

/-- The groups of a destination in which `lanes` has a lane. -/
def Dest.groupsIn (d : Dest) (lanes : BitVec 128) : BitVec 32 :=
  (List.range 32).foldl (fun m i =>
    let g := BitVec.ofNat 32 (2 ^ i)
    if (lanes &&& d.lanesOf g) = 0 then m else m ||| g) 0

/-- Writes that remain after the groups `g` of the write `id` to `d` have landed: an older write to a 32-bit group of the
destination that it wrote is discarded there (R110). -/
def afterLanding (ws : List Write) (id : Nat) (d : Dest) (g : BitVec 32) (lanes : BitVec 128) : List Write :=
  (ws.map fun w =>
    if w.id = id then { w with groups := w.groups &&& ~~~g, fl := 0 }
    else if w.dest = d ∧ w.id < id then { w with groups := w.groups &&& ~~~(g &&& d.groupsIn lanes) }
    else w).filter fun w => w.groups != 0 && (w.lanes &&& w.dest.lanesOf w.groups) != 0

/-- Flags of the writes of `ws` that no longer stand in `r`: every lane of them has been overtaken (R139). -/
def lostFlags (ws r : List Write) : BitVec 7 :=
  ws.foldl (fun f w => if r.any fun x => x.id == w.id then f else f ||| w.fl) 0

/-- Set sticky FLAGS bits in cycle `cy` (R139): those of one cycle are kept beside it, for an MTSR of the cycle. -/
def Ctx.raiseFlags (c : Ctx) (cy : Nat) (f : BitVec 7) : Ctx :=
  if f = 0 then c
  else { c with flags := c.flags ||| f, flagNew := if c.flagCy = cy then c.flagNew ||| f else f, flagCy := cy }

/-- The cycle after which a write may land (R109, R111): its acceptance, or its issue. -/
def Write.from (w : Write) : Nat := w.acc.getD w.t

/-- The bound of a write, counted from its acceptance, has passed in cycle `now` (R109, R111). -/
def Write.due (w : Write) (now : Nat) : Bool := w.bound != 0 && w.acc.isSome && decide (w.from + w.bound ≤ now)

/-- The cycle in which a write lands that is found landed in cycle `now`: the last of its bound, where that has passed. -/
def Write.landCy (w : Write) (now : Nat) : Nat := if w.due now then w.from + w.bound else now

/-- Land the groups `g` of a write in flight (R109, R110); its flags are set with it (R139). -/
def landWrite (s : State) (ck : Nat) (w : Write) (g : BitVec 32) : State :=
  let g := g &&& w.groups
  let s1 := s.putDest ck w.dest (w.lanes &&& w.dest.lanesOf g) w.val
  let cy := w.landCy (s.now ck)
  s1.modCtx ck fun c =>
    let r := afterLanding c.inflight w.id w.dest g w.lanes
    { c with inflight := r }.raiseFlags cy (w.fl ||| lostFlags c.inflight r)

/-- Land the groups of the write with this identity, if it is in flight and its value has arrived. -/
def landId (s : State) (ck id : Nat) (g : BitVec 32) : State :=
  match (s.ctx ck).inflight.find? fun w => w.id == id && w.ready with
  | some w => landWrite s ck w g
  | none => s

/-- Land every write whose bound has passed and whose value has arrived (R109), the youngest first: of writes that land in one
cycle the youngest is kept (R110). -/
def settle (s : State) (ck : Nat) : State :=
  let now := s.now ck
  ((s.ctx ck).inflight.filter fun w => w.ready && w.due now).foldr
    (fun w s => landId s ck w.id (BitVec.allOnes 32)) s

/-- A reader of `d` must wait: the bound of a write to it, counted from its issue, has passed and the write has not landed, because
its operation slipped or its value has not arrived (R107, R109, R111). -/
def Ctx.mustWait (c : Ctx) (now : Nat) (d : Dest) : Bool :=
  c.inflight.any fun w => w.dest == d && w.bound != 0 && decide (w.t + w.bound ≤ now) && !(w.ready && w.due now)

/-- Discard the late-write entries to `d` that code at the running level overtakes (R314). -/
def dropLate (c : Ctx) (d : Dest) : Ctx :=
  { c with late := c.late.filter fun l => !(l.tag == c.tl && l.w.dest == d) }

/-- Put a register write of identity `id` in flight at issue (R109): bound to its physical register, with its value if
it is known, and the flags that land with it. One whose value is not known counts its bound from its acceptance (R111). -/
def pushWriteId (s : State) (ck id : Nat) (d : Dest) (lanes : BitVec 128) (val : VReg) (ready hold : Bool)
    (bound : Nat) (fl : BitVec 7) : State :=
  let now := s.now ck
  s.modCtx ck fun c => dropLate
    { c with inflight := c.inflight ++
        [{ id := id, dest := d, val := val, lanes := lanes, groups := d.groups, ready := ready, t := now,
           acc := if ready then some now else none, bound := bound, lvl := c.tl, hold := hold, fl := fl }] } d

/-- A register write with an identity of its own. -/
def pushWrite (s : State) (ck : Nat) (d : Dest) (lanes : BitVec 128) (val : VReg) (ready hold : Bool) (bound : Nat)
    (fl : BitVec 7) : State :=
  let (id, s1) := s.takeId
  pushWriteId s1 ck id d lanes val ready hold bound fl

/-- The bound of a LAT code (Table 5-2); 0 for code 15, token-tracked. -/
def latBound (code : Nat) : Nat :=
  match code with
  | 0 => 1 | 1 => 2 | 2 => 3 | 3 => 4 | 4 => 6 | 5 => 8 | 6 => 12 | 7 => 16 | 8 => 24 | 9 => 32 | 10 => 48
  | 11 => 64 | 12 => 96 | 13 => 128 | 14 => 192 | _ => 0

/-- All lanes of a scalar register, of a mask register (its bits), of a vector register. -/
def laneS : BitVec 128 := 0xFF
def laneM : BitVec 128 := BitVec.allOnes 128
def laneV : BitVec 128 := BitVec.allOnes 128

/-- Write scalar register `n` with a value known at issue. -/
def writeS (s : State) (ck n : Nat) (v : W64) (bound : Nat) : State :=
  if n = 0 then s else pushWrite s ck (.s ((s.ctx ck).sphys n)) laneS (v.setWidth 1024) true false bound 0

/-- Write scalar register `n` and the flags that land with it; with s0 the flags are set alone. -/
def writeSF (s : State) (ck n : Nat) (v : W64) (bound : Nat) (fl : BitVec 7) : State :=
  if n = 0 then s.modCtx ck fun c => c.raiseFlags (s.now ck) fl
  else pushWrite s ck (.s ((s.ctx ck).sphys n)) laneS (v.setWidth 1024) true false bound fl

/-- Write lanes of vector register `n` with a value known at issue, and the flags that land with it. -/
def writeV (s : State) (ck n : Nat) (lanes : BitVec 128) (v : VReg) (bound : Nat) (fl : BitVec 7) : State :=
  if lanes = 0 then s else pushWrite s ck (.v ((s.ctx ck).vBase + n)) lanes v true false bound fl

/-- Write mask register `n`. -/
def writeM (s : State) (ck n : Nat) (lanes : BitVec 128) (v : BitVec 128) (bound : Nat) (fl : BitVec 7) : State :=
  if lanes = 0 then s else pushWrite s ck (.m n) lanes (v.setWidth 1024) true false bound fl

/-- The unit accepts the operation of the writes `ids` in this cycle, from which their bounds count (R111); the remaining count of
a captured one is known then (R313). -/
def acceptWrites (s : State) (ck : Nat) (ids : List Nat) : State :=
  let now := s.now ck
  s.modCtx ck fun c =>
    let waits := fun w : Write => ids.contains w.id && w.acc.isNone
    { c with inflight := c.inflight.map fun w => if waits w then { w with acc := some now } else w
             late := c.late.map fun l =>
               if waits l.w then { l with w := { l.w with acc := some now }, rem := now + l.w.bound - l.cy } else l }

/-- Set sticky FLAGS bits of an operation with no register write to land with (R139). -/
def setFlags (s : State) (ck : Nat) (f : BitVec 7) : State :=
  let now := s.now ck
  s.modCtx ck fun c => c.raiseFlags now f

/-! ## Images and privilege -/

/-- Every sealed image of the package. -/
def State.images (s : State) : List Image := (List.range 4).flatMap fun p => (s.chip p).images

/-- The sealed KIND 2 image whose bundle 0 lies at an address (R310, R311). -/
def State.resImage (s : State) (base : Nat) : Option Image := s.images.find? fun i => i.kind == 2 && i.base == base

/-- The most recently sealed of some images. -/
def newestImage : List Image → Option Image
  | [] => none
  | i :: r => match newestImage r with
    | some j => if i.seq < j.seq then some j else some i
    | none => some i

/-- The resident image's address in TVEC.BASE (R310). -/
def Ctx.resBase (c : Ctx) : Nat := bitsOf c.tvec.toNat 45 6 * 64

/-- The resident image that the code of the running level runs (R70): the one at TVEC.BASE when its trap was taken. -/
def Ctx.runImg (c : Ctx) : Nat := sget 0 c.resImg c.tl

/-- Base and length in bundles of the image that the context runs (R48, R70): a sealed KIND 2 image at resident privilege, the
node's at node privilege. -/
def curImage (s : State) (ck : Nat) : Nat × Nat :=
  let c := s.ctx ck
  if !c.res then (c.imgBase, c.imgLen)
  else
    let n := match s.resImage c.runImg with
      | some i => i.len / 64
      | none => 0
    (c.runImg, n)

/-- The tag of the code that runs: trap level, user handler, call depth (R117). -/
def Ctx.tag (c : Ctx) : Nat × Bool × Nat := (c.tl, c.ui.inh, c.wdepth)

/-- The loop level is active, not suspended (R117). -/
def Ctx.active (c : Ctx) (l : Loop) : Bool := l.tag == c.tag

/-- The slip: issued bundles that still hold an operation in a slot queue (R112). -/
def Ctx.slip (c : Ctx) : Nat :=
  let bs := (c.mq.map (·.bundle)) ++ (c.lq.map (·.bundle)) ++ (c.tq.map (·.bundle)) ++ (c.cq.map (·.bundle))
  (bs.foldl (fun l b => if l.contains b then l else b :: l) []).length

/-- No operation stands in a slot queue (R113). -/
def Ctx.queuesEmpty (c : Ctx) : Bool := c.mq.isEmpty && c.lq.isEmpty && c.tq.isEmpty && c.cq.isEmpty

/-! ## Ending a context -/

/-- Resources that a node's end returns (R58, R215, R257, R288), once what it had under way has ended: the fret bank, its scratchpad
banks, its loader and storer. -/
def releaseCtx (s : State) (ck : Nat) : State :=
  let k := ckCore ck
  let x := ckCtx ck
  s.modCore k fun c =>
    let freed := c.banks.filterMap fun (b, v) => if v.owner == some x then some b else none
    let inFreed := fun (a : Nat) => freed.contains (a % 2 ^ 24 / 0x20000) && decide (a / 2 ^ 24 = winBase k / 2 ^ 24)
    { c with
      fbank := if c.fOwner == some x then [] else c.fbank
      fDep := if c.fOwner == some x then 0 else c.fDep
      fOwner := if c.fOwner == some x then none else c.fOwner
      banks := c.banks.map fun (b, v) =>
        if v.owner == some x then (b, { v with owner := none, inuse := false }) else (b, v)
      objs := c.objs.filter fun o => o.frozen || !inFreed o.addr
      past := c.past.filter fun p => p.ctx != x
      owner := if c.owner == some x then none else c.owner
      queues := if c.owner == some x then [] else c.queues
      loader := if c.owner == some x then { c.loader with running := false } else c.loader
      storer := if c.owner == some x then { c.storer with running := false } else c.storer }

/-- The members of a context's consort, or the context alone (R63). -/
def consortOf (s : State) (ck : Nat) : List Nat :=
  match (s.core (ckCore ck)).consort with
  | some c => if c.members.contains ck then c.members else [ck]
  | none => [ck]

/-- Release the banks that a multicast held for its landing (R223). -/
def releaseHolds (s : State) (o : CopyOp) : State :=
  o.holds.foldl (fun s (k, b, _) =>
    s.modCore k fun c =>
      let v := sget Bank.reset c.banks b
      { c with banks := sput c.banks b { v with hold := v.hold - 1 } }) s

/-- `n` free bytes. -/
def freeBytes : Nat → State → List Byte × State
  | 0, s => ([], s)
  | n + 1, s =>
    let (w, s1) := s.takeFree
    let (r, s2) := freeBytes n s1
    (w.setWidth 8 :: r, s2)

/-- The address of tile `t` of a core's accumulator store (Table 10-2). -/
def tileAddr (k t : Nat) : Nat := winBase k + 0x400000 + 0x4000 * t

/-- A field of a matrix descriptor (Table 12-3), W0 in the low bits. -/
def descField (d : BitVec 256) (hi lo : Nat) : Nat := bitsOf d.toNat hi lo
def descAsm (d : BitVec 256) : Nat := descField d 209 208
def descBsm (d : BitVec 256) : Nat := descField d 211 210

/-- An operand of the descriptor is K-blocked (R237). -/
def descKblk (d : BitVec 256) : Bool := descAsm d == 1 || descBsm d == 1

/-- The tiles that an M operation writes. -/
def EngOp.writes (o : EngOp) : List Nat :=
  match o.op with
  | 0x08 | 0x09 | 0x0A | 0x0B | 0x15 | 0x18 | 0x1A => [o.tile]
  | 0x10 | 0x11 => if descKblk o.desc then [o.tile] else []
  | 0x12 => (List.range 16).map (o.tile + ·)
  | _ => []

/-- A tile that an abandoned operation was writing is unpredictable (R257): it takes free values. -/
def spoilTiles (s : State) (k : Nat) (o : EngOp) : State :=
  if !o.started then s
  else o.writes.foldl (fun s t =>
    let (bs, s1) := freeBytes 0x4000 s
    s1.writeMem (tileAddr k t) bs) s

/-- Abandon what a context has started and not finished (R164): queued operations, accesses, engine work and copies,
its register writes in flight. -/
def abandon (s : State) (ck : Nat) : State :=
  let k := ckCore ck
  let x := ckCtx ck
  let own := (s.core k).owner == some x
  let gone := fun o : CopyOp => (o.ctx == x && o.hart.isNone) || (own && o.hart.isSome)
  let held := (s.core k).copies.filter gone ++ (s.ctx ck).cq
  let s0 := ((s.core k).engine.filter fun o => o.ctx == x).foldl (fun s o => spoilTiles s k o) (held.foldl releaseHolds s)
  let s1 := s0.modCore k fun c =>
    { c with copies := c.copies.filter fun o => !gone o
             engine := c.engine.filter fun o => o.ctx != x }
  s1.modCtx ck fun c => { c with mq := [], lq := [], tq := [], cq := [], outst := [], inflight := [], late := [],
                                 async := [], fences := [] }

/-- The bundle that made a request for another core's object does not issue now: the request is withdrawn, and a stage acquired for it
goes back (R259, R309). -/
def dropReq (s : State) (ck : Nat) : State :=
  match (s.ctx ck).objReq with
  | none => s
  | some (m, a) =>
    let s1 := s.modCtx ck fun c => { c with objReq := none }
    if a = some false then s1 else { s1 with objMsgs := s1.objMsgs ++ [{ m with op := 6, after := [] }] }

/-- Remove a context from its core: it issues nothing more, and a core that it held passes on two cycles later (R108). -/
def dropCtx (s : State) (ck : Nat) : State :=
  let s1 := releaseCtx (abandon (dropReq s ck) ck) ck
  let s2 := s1.modCtx ck fun c => { c with st := .idle, halted := false, loops := [], toks := [], preempt := none,
                                           closing := false, heldM := none, parked := [], fDepth := 0, fPair := 0,
                                           vSize := 0, fetched := none, fillBad := none, trapDue := none, resume := none, pendStr := []
                                           stepDue := none }
  s2.modCore (ckCore ck) fun c =>
    { c with active := if c.active == some (ckCtx ck) then none else c.active, consort := none
             cycle := if c.active == some (ckCtx ck) then c.cycle + 2 else c.cycle, idleSince := s.ctOf (ckPos ck) }

/-- The context holds a node that KILL can still kill (R164): one that is idle, or whose HALT has committed, is not
touched. -/
def Ctx.killable (c : Ctx) : Bool := c.st != .idle && !c.halted

/-- A context's node fails (R23, R164, R364): every member of its consort leaves its core with what it had started, and the
report goes to the graph engine with FCAUSE and the progress word, whose bit 31 is RVALID. -/
def failCtx (s : State) (ck cause : Nat) (rrow : W64) : State :=
  let c := s.ctx ck
  let ms := consortOf s ck
  let r : Report := { gid := c.gid, idx := c.idx, cause := cause, rrow := rrow, rvalid := rrow.getLsbD 31 }
  let s1 := ms.foldl dropCtx s
  s1.modChip (ckPos (ms.headD ck)) fun h => { h with reports := h.reports ++ [r] }

/-- Kill a context (R164): with it every member of its consort; its node is reported failed with `cause`. -/
def killCtx (s : State) (ck cause : Nat) : State :=
  if (s.ctx ck).killable then failCtx s ck cause (s.ctx ck).rowprog else s

/-! ## Tokens -/

def Ctx.tok (c : Ctx) (n : Nat) : Token := sget Token.reset c.toks n
def Ctx.setTok (c : Ctx) (n : Nat) (t : Token) : Ctx := { c with toks := sput c.toks n t }

/-- Faults in arrival order, those of one cycle in the issue order of their operations (R316). -/
def insertFault (f : AsyncFault) : List AsyncFault → List AsyncFault
  | [] => [f]
  | g :: r => if f.cy = g.cy ∧ f.id < g.id then f :: g :: r else g :: insertFault f r

/-- An asynchronous fault of a context arrives (R308, R316). After the context's HALT it is a node fault with the same cause
instead, with RROW as R364 gives (R316); an idle context takes none. -/
def pushAsync (s : State) (ck : Nat) (f : AsyncFault) : State :=
  let c := s.ctx ck
  if c.st = .idle then s
  else if c.halted then failCtx s ck f.cause (f.rp.getD c.rowprog)
  else
    let f1 := { f with cy := s.now ck }
    s.modCtx ck fun c => { c with async := insertFault f1 c.async }

/-- A firing or post reaches a token (R261, R264, R266): at FIRE 15 it is lost and the context takes cause 0x12. -/
def fireUp (s : State) (ck n : Nat) : State :=
  let t := (s.ctx ck).tok n
  if 15 ≤ t.fire then
    pushAsync s ck { cause := 0x12, own := 0, tok := n, slots := 0, value := BitVec.ofNat 64 n, rp := none, id := 0
                     bundle := none, cy := 0 }
  else s.modCtx ck fun c => c.setTok n { t with fire := t.fire + 1 }

/-- The token of a completed operation fires (R261). Token 0 is no token (R260). -/
def fireToken (s : State) (ck n : Nat) : State :=
  if n = 0 then s
  else fireUp (s.modCtx ck fun c => c.setTok n { c.tok n with pend := false }) ck n

/-- The token of an operation that will not fire: PEND becomes 0, FIRE is unchanged (R212, R316). -/
def clearPend (s : State) (ck n : Nat) : State :=
  if n = 0 then s else s.modCtx ck fun c => c.setTok n { c.tok n with pend := false }

/-- An operation that names a token as produced issues (R261). -/
def setPend (s : State) (ck n : Nat) : State :=
  if n = 0 then s else s.modCtx ck fun c => c.setTok n { c.tok n with pend := true }

/-- A firing of token `n` of context `x` is consumed (R221): the oldest copy that it stands for, and what its channel completed before,
are ordered before every copy that starts from now on. -/
def orderPast (l : List PastCopy) (x n : Nat) : List PastCopy :=
  match l.find? fun p => p.ctx == x && p.ko == n with
  | none => l
  | some p =>
    let before := l.takeWhile fun q => !(q.ctx == x && q.ko == n)
    (before.filter fun q => q.ch != p.ch) ++ (l.drop (before.length + 1))

/-- Consume a firing of each token (R262, R263). -/
def consume (s : State) (ck : Nat) (ks : List Nat) : State :=
  ks.foldl (fun s n => if n = 0 then s else
    (s.modCtx ck fun c => c.setTok n { c.tok n with fire := (c.tok n).fire - 1 }).modCore (ckCore ck) fun k =>
      if k.past = [] then k else { k with past := orderPast k.past (ckCtx ck) n }) s

/-- Every named token has fired (R262, R263). -/
def Ctx.fired (c : Ctx) (ks : List Nat) : Bool := ks.all fun n => n == 0 || decide (1 ≤ (c.tok n).fire)

/-! ## Taking a trap and returning from one -/

/-- The trap registers of a level. -/
def Ctx.trap (c : Ctx) (l : Nat) : TrapRegs := if l = 1 then c.trap1 else c.trap2
def Ctx.setTrap (c : Ctx) (l : Nat) (t : TrapRegs) : Ctx := if l = 1 then { c with trap1 := t } else { c with trap2 := t }

/-- TCAUSE (Table 15-2). -/
def TrapInfo.word (t : TrapInfo) : W64 :=
  BitVec.ofNat 64 (t.own % 256 * 2 ^ 16 + t.tok % 64 * 2 ^ 10 + bit01 t.isAsync * 2 ^ 8 + t.cause % 256)

/-- A write in flight that a trap entry to level `l` captures (R313). -/
def Write.captured (w : Write) (l : Nat) : Bool := !w.hold && w.lvl + 1 == l

/-- The remaining count of a captured write (R313). -/
def Write.remaining (w : Write) (now : Nat) : Nat := Nat.max 1 (w.from + w.bound - now)

/-- Capture the writes in flight into the late-write buffer of 96 entries (R313): writes that do not fit land in
place first. None where they do not fit yet, because their values have not arrived. -/
def capture (s : State) (ck l : Nat) : Option State :=
  let now := s.now ck
  let ws := (s.ctx ck).inflight.filter (·.captured l)
  let room := 96 - (s.ctx ck).late.length
  let excess := (ws.filter (·.ready)).take (ws.length - room)
  let s1 := excess.foldl (fun s w => landId s ck w.id (BitVec.allOnes 32)) s
  let ws1 := (s1.ctx ck).inflight.filter (·.captured l)
  if room < ws1.length then none
  else some (s1.modCtx ck fun c =>
    { c with late := c.late ++ ws1.map fun w => { w := w, rem := w.remaining now, tag := l, cy := now }
             inflight := c.inflight.filter fun w => !w.captured l })

/-- The key of the code of a level: 2 × the trap level, and 1 more in a user handler (R156). -/
def Ctx.levelKey (c : Ctx) : Nat := 2 * c.tl + bit01 c.ui.inh

/-- Pending stride registrations of the running code (R156). -/
def Ctx.pend (c : Ctx) : List (Nat × W64) := sget [] c.pendStr c.levelKey
def Ctx.setPendStr (c : Ctx) (l : List (Nat × W64)) : Ctx := { c with pendStr := sput c.pendStr c.levelKey l }

/-- A trap is a kill: at TL = 2, or where TVEC.BASE is no sealed KIND 2 image (R311, R312). -/
def trapKills (s : State) (ck : Nat) : Bool :=
  decide (2 ≤ (s.ctx ck).tl) || (s.resImage (s.ctx ck).resBase).isNone

/-- Enter the handler of a trap at level TL + 1 (R311): the writes in flight are captured, the level's trap registers
set, the level raised, the privilege made resident, and the pc moved to the handler of the cause. At TL = 2, or where
TVEC.BASE is no sealed KIND 2 image, the context is killed with the cause (R311, R312). -/
def enterTrap (s : State) (ck : Nat) (t : TrapInfo) (resumeIdx : Nat) : Option State :=
  let c := s.ctx ck
  let pos := ckPos ck
  if trapKills s ck then some (killCtx s ck t.cause)
  else
    let l := c.tl + 1
    match capture s ck l with
    | none => none
    | some s1 =>
      let ret : W64 := BitVec.ofNat 64 (bit01 c.res * 2 ^ 32 + resumeIdx % 2 ^ 32)
      let s2 := (dropReq s1 ck).modCtx ck fun c =>
        let c1 := { c.setTrap l { cause := t.word, ret := ret, val := t.value, mask := BitVec.ofNat 64 (t.slots % 256) } with
          tl := l, res := true, pc := 4 * t.cause + 128 * (l - 1), fetched := none, fillBad := none, trapDue := none
          resImg := sput c.resImg l c.resBase }
        c1.setPendStr []
      let s3 := s2.modCore (ckCore ck) fun k => { k with cycle := k.cycle + 2 }
      some (logRec s3 pos { kind := 1, sub := l, lcore := logicalCore s (ckCore ck),
                            ctx := ckCtx ck, agent := 0, a := t.word, b := t.value })

/-- The core lets a cycle pass in which its context issues nothing. -/
def stallCycle (s : State) (ck : Nat) : State := s.modCore (ckCore ck) fun k => { k with cycle := k.cycle + 1 }

/-- Take a trap before the next bundle, or, where its writes do not fit the late-write buffer yet (R313), let the cycle pass. -/
def takeTrap (s : State) (ck : Nat) (t : TrapInfo) (resumeIdx : Nat) : State :=
  (enterTrap s ck t resumeIdx).getD (stallCycle s ck)

/-- Take the trap that follows a bundle which has committed (R160): where its writes do not fit the late-write buffer yet, it is
due, and the context issues nothing until it is taken (R313). -/
def takeAfter (s : State) (ck : Nat) (t : TrapInfo) : State :=
  (enterTrap s ck t (s.ctx ck).pc).getD (s.modCtx ck fun c => { c with trapDue := some t })

/-- Land the entries of a level again after its return (R314): they become writes in flight whose bound counts from
the first resumed bundle, in cycle `u`. -/
def replay (c : Ctx) (l u : Nat) : Ctx :=
  let es := c.late.filter (·.tag == l)
  { c with late := c.late.filter fun e => !(e.tag == l)
           inflight := c.inflight ++ es.map fun e =>
             if e.w.acc.isNone then { e.w with t := u - 1 } else { e.w with t := u - 1, acc := some (u - 1), bound := e.rem } }

/-- Younger M operations held by a fault of cause 0x17 stay held until the handler that takes it returns (R244, R316): `heldM` is
the faulted bundle and the level of its handler, 0 while the fault is not taken. -/
def Ctx.releaseM (c : Ctx) (l : Nat) : Ctx :=
  match c.heldM with
  | some (b, lv) =>
    if lv ≠ l then c
    else if c.async.any fun f => f.cause == 0x17 then { c with heldM := some (b, 0) }
    else { c with heldM := none }
  | none => c

/-- Leave a trap handler (R161, R314): the level below, its banks and loops; the privilege and index of TRET; the
level's late writes land again, counted from the first resumed bundle, 2 cycles later. Those of a consort member that returns to
level 0 wait for the step at which the consort resumes (R317). Code that keeps resident privilege at level 0 runs the image of the
handler. -/
def leaveTrap (s : State) (ck : Nat) : State :=
  let c := s.ctx ck
  let l := c.tl
  let r := (c.trap l).ret
  let u := s.now ck + 2
  let joint := decide (l = 1) && (s.core (ckCore ck)).consort.isSome
  let s1 := s.modCtx ck fun c =>
    { (if joint then c else replay c l u).releaseM l with
      tl := l - 1, res := r.getLsbD 32, pc := bitsOf r.toNat 31 0, fetched := none, fillBad := none
      resImg := if l = 1 then sput c.resImg 0 c.runImg else c.resImg }
  stallCycle s1 ck

/-- Take the oldest asynchronous fault that has arrived (R308, R316); for a stopped streaming operation ROWPROG takes
its progress then (R244). -/
def takeAsync (s : State) (ck : Nat) : State :=
  match (s.ctx ck).async with
  | [] => s
  | f :: fs =>
    let s1 := s.modCtx ck fun c =>
      { c with async := fs, rowprog := f.rp.getD c.rowprog
               heldM := if f.cause = 0x17 then c.heldM.map fun h => (h.1, c.tl + 1) else c.heldM }
    match enterTrap s1 ck { cause := f.cause, own := f.own, tok := f.tok, isAsync := true, slots := f.slots,
                            value := f.value } (s.ctx ck).pc with
    | some s2 => s2
    | none => stallCycle s ck

/-- Enter the user-interrupt handler (R319). -/
def enterUser (s : State) (ck : Nat) : State :=
  let c := s.ctx ck
  match (setBitsOf 8 c.ui.pend).head? with
  | none => s
  | some n =>
    let wm := sget 0 (s.core (ckCore ck)).chwm n
    (dropReq s ck).modCtx ck fun c =>
      { c with
        ui := { c.ui with inh := true, pend := c.ui.pend &&& (0xFF - 2 ^ n), pc := BitVec.ofNat 32 c.pc }
        sregs := sput (sput c.sregs 272 (BitVec.ofNat 64 n)) 273 wm
        pc := c.ui.vec.toNat, fetched := none, fillBad := none, pendStr := sput c.pendStr 1 [] }

/-- Leave the user-interrupt handler (R319). -/
def leaveUser (s : State) (ck : Nat) : State :=
  s.modCtx ck fun c => { c with ui := { c.ui with inh := false }, pc := c.ui.pc.toNat, fetched := none, fillBad := none }

end Sys2Proof.Machine
end

