-- ==== Sys2Proof/Machine/Issue.lean ====
section
/-!
DEFINITION. How a bundle issues: the checks of R77 and R78, the conditions of Table 6-2, the faults of R381, the order
of R308, and what a commit does (R107 to R121, R308 to R311).

Every operation is described by one `Parts`: what the checks look at, what it reads, when it waits, when it faults and
what it does. A meaning is the issue of a bundle that holds the one operation.
-/
namespace Sys2Proof.Machine
open Sys2Proof

/-- A destination of the duplicate check (R78). -/
inductive DstName where
  | s (n : Nat)
  | v (n : Nat)
  | m (n : Nat)
  | tile (n : Nat)
  | bank (n : Nat)
  deriving DecidableEq, Repr

/-- Why an operation holds its bundle (Table 6-2): a condition, a stall that keeps the core (R108), or a
translation-cache miss that the walker answers. -/
inductive Wait where
  | cond
  | stall
  | walk (va : W64) (copy : Bool)
  deriving DecidableEq, Repr

/-- The outcome of S-slot control, which the lead of a consort fixes for every member (R126): whether the condition
held, the target, and the register value that LOOP or LSTR read. -/
structure Ctl where
  taken  : Bool
  target : Nat
  value  : W64
  deriving DecidableEq, Repr

/-- What an operation sees when its bundle issues: the state before the bundle, from which every operand is read
(R107, R111), the context, the prefix, the bundle's number, the control outcome of a consort's lead, whether the
operation stands alone in its bundle, the effective addresses of the L and T slots (R292), and the time of a TWAIT in the Y
slot (R304). -/
structure Env where
  pre    : State
  ck     : Nat
  p      : Pfx
  bundle : Nat
  ctl    : Option Ctl
  alone  : Bool
  eaL    : Option W64
  eaT    : Option W64
  tw     : Option W64

namespace Env
def c (e : Env) : Ctx := e.pre.ctx e.ck
def k (e : Env) : Nat := ckCore e.ck
def s (e : Env) (n : Nat) : W64 := e.c.s n
def v (e : Env) (n : Nat) : VReg := e.pre.v e.ck n
def scope (e : Env) : Nat := e.p.sc.toNat
/-- The numerics profile of the bundle's operations (R88, R142). -/
def prof (e : Env) : Nat := if e.p.np = 0 then e.c.npdef.toNat else e.p.np.toNat
end Env

/-- One operation in its slot. `bad` is the cause of the first illegal field value, `latBad` that of an illegal LAT
code, `unit` the unit that must accept it (0 M, 1 L, 2 T, 3 C), `isLocal` whether its access is local (R114). -/
structure Parts where
  slot   : Nat
  word   : W64
  known  : Bool := true
  zeroOk : Bool := true
  bad    : Option Nat := none
  latBad : Option Nat := none
  priv   : Bool := false
  vregs  : List Nat := []
  dsts   : List DstName := []
  prods  : List Nat := []
  srcS   : List Nat := []
  srcV   : List Nat := []
  srcM   : List Nat := []
  unit   : Option Nat := none
  isLocal : Env → Bool := fun _ => false
  ea     : Env → Option W64 := fun _ => none
  fault  : Env → Option (Nat × W64) := fun _ => none
  waits  : Env → Option Wait := fun _ => none
  arrive : Env → State → State := fun _ s => s
  eff    : Env → State → State := fun _ s => s
  ctlOf  : Env → Option Ctl := fun _ => none
  post   : Env → State → State := fun _ s => s
  after  : Env → Option TrapInfo := fun _ => none
  needsEmpty : Bool := false
  onFault : Env → State → State := fun _ s => s
  forgets : Env → State → State := fun _ s => s

/-- A slot whose opcode its map does not assign (R89). -/
def Parts.unassigned (slot : Nat) (w : W64) : Parts := { slot := slot, word := w, known := false }

/-- A slot of opcode 0 with bits that are not zero (R76). -/
def Parts.junk (slot : Nat) (w : W64) : Parts := { slot := slot, word := w, zeroOk := false }

/-! ## Checks before issue -/

/-- What FIO and LIO say of the bundle (R77, R88). -/
inductive Gate where | go | skip | notOpen
  deriving DecidableEq, Repr

/-- The level's current iteration is its last (R118, R120). -/
def Loop.isLast (l : Loop) : Bool := l.forced || l.serve || l.iter + 1 == l.trip

def gate (c : Ctx) (p : Pfx) : Gate :=
  if p.fio = 0 ∧ p.lio = 0 then .go
  else match c.loops[p.lv.toNat]? with
    | none => .notOpen
    | some l => if (p.fio = 1 → l.iter = 0) ∧ (p.lio = 1 → l.isLast) then .go else .skip

/-- The Y slot's word (TVAL of a Y failure). -/
def yWord (p : Pfx) (ops : List Parts) : W64 :=
  match ops.find? fun o => o.slot == 7 with
  | some o => o.word
  | none => synWord 0 p Syn.zero

/-- The first failing check of one operation other than the Y slot's prefix (R77). -/
def Parts.fail (o : Parts) (c : Ctx) : Option Nat :=
  if !o.known then some 0x01
  else if !o.zeroOk then some 0x02
  else match o.bad with
    | some b => some b
    | none => match o.latBad with
      | some b => some b
      | none =>
        if o.priv && !c.res then some 0x1D
        else if o.vregs.any fun n => decide (c.vSize ≤ n) || decide (640 ≤ n) then some 0x03
        else none

/-- The failing check of the Y slot, prefix fields included (R77, R79, R88). -/
def yFail (c : Ctx) (p : Pfx) (ops : List Parts) : Option Nat :=
  let o := (ops.find? fun o => o.slot == 7).getD { slot := 7, word := 0 }
  if !o.known then some 0x01
  else if !o.zeroOk || (p.fio == 0 && p.lio == 0 && p.lv != 0) then some 0x02
  else if decide (9 ≤ p.np.toNat) then some 0x05
  else if p.np == 0 && (ops.any fun o => o.slot == 3) && (decide (c.npdef.toNat < 1) || decide (8 < c.npdef.toNat)) then
    some 0x05
  else if decide (5 ≤ p.sc.toNat) || decide (6 ≤ p.lv.toNat) then some 0x01
  else o.fail c

/-- The failing slots, in slot order, each with its cause (R77). -/
def failures (c : Ctx) (p : Pfx) (ops : List Parts) : List (Nat × Nat × W64) :=
  let a := ops.filterMap fun o => if o.slot == 7 then none else (o.fail c).map fun f => (o.slot, f, o.word)
  match yFail c p ops with
  | some f => a ++ [(7, f, yWord p ops)]
  | none => a

/-- Bits of the slots of a list. -/
def slotMask (l : List Nat) : Nat := l.foldl (fun m k => if m.testBit k then m else m + 2 ^ k) 0

/-- The trap of a list of failures: the first one's cause and value, the mask of all; for cause 0x12 TOK is the token, which is the
value (Table 15-2, R266). -/
def trapOfFailures : List (Nat × Nat × W64) → Option TrapInfo
  | [] => none
  | (k, f, v) :: r =>
    some { cause := f, own := 0, tok := if f = 0x12 then v.toNat % 64 else 0, isAsync := false, slots := slotMask ((k :: r.map fun x => x.1)), value := v }

/-- The first later slot that names a destination or a produced token of an earlier one (R78). Destination s0 is
exempt. -/
def dupPair (same : Parts → Parts → Bool) : List Parts → List Parts → Option (Parts × Parts)
  | _, [] => none
  | seen, o :: r =>
    match seen.find? fun e => same e o with
    | some e => some (e, o)
    | none => dupPair same (seen ++ [o]) r

def sameDst (a b : Parts) : Bool := a.dsts.any fun d => d != .s 0 && b.dsts.contains d

/-- The duplicate-destination trap (R78). -/
def dupTrap (ops : List Parts) : Option TrapInfo :=
  (dupPair sameDst [] ops).map fun (a, b) =>
    { cause := 0x06, own := 0, tok := 0, isAsync := false, slots := slotMask [a.slot, b.slot], value := b.word }

/-- The checks of R77 and R78 on a bundle that FIO and LIO let issue. -/
def staticTrap (c : Ctx) (p : Pfx) (ops : List Parts) : Option TrapInfo :=
  (trapOfFailures (failures c p ops)).or (dupTrap ops)

/-! ## Conditions of Table 6-2 -/

/-- The oldest L or T entry may be accepted: a local access waits for older local accesses of the other slot (R114). -/
def localFirst (a : Access) (other : List Access) (isT : Bool) : Bool :=
  !a.isLocal || other.all fun b => !b.isLocal || decide (if isT then a.bundle < b.bundle else a.bundle ≤ b.bundle)

/-- The oldest entry of a slot queue (0 M, 1 L, 2 T, 3 C), where its unit may accept it: its identity, in issue order. -/
def Ctx.head? (c : Ctx) (u : Nat) : Option Nat :=
  match u with
  | 0 => c.mq.head?.map (·.id)
  | 1 => (c.lq.head?.filter fun a => localFirst a c.tq false).map (·.id)
  | 2 => (c.tq.head?.filter fun a => localFirst a c.lq true).map (·.id)
  | _ => c.cq.head?.map (·.id)

/-- A unit serves an operation of another context of the core before `id`: the queues are served oldest bundle first (R112). -/
def servesOther (s : State) (ck u : Nat) (id : Option Nat) : Bool :=
  (List.range 4).any fun y => y != ckCtx ck && match (s.ctx (ckCore ck * 4 + y)).head? u, id with
    | some j, some i => decide (j < i)
    | some _, none => true
    | none, _ => false

/-- The unit cannot accept an operation that issues in this cycle: it is busy, older operations stand in its queues, or an older
local access of the other slot is still queued (R111, R112, R114). -/
def unitRefuses (s : State) (ck : Nat) (u : Nat) (isLocal : Bool) : Bool :=
  let c := s.ctx ck
  let b := s.focus.busy
  servesOther s ck u none || match u with
  | 0 => b.m || !c.mq.isEmpty
  | 1 => b.l || !c.lq.isEmpty || (isLocal && c.tq.any (·.isLocal))
  | 2 => b.t || !c.tq.isEmpty || (isLocal && c.lq.any (·.isLocal))
  | _ => b.c || !c.cq.isEmpty

/-- The slip budget in force: 0 in a consort (R127). -/
def budgetOf (s : State) (ck : Nat) : Nat :=
  if (s.core (ckCore ck)).consort.isSome then 0 else (s.ctx ck).budget

/-- An operand whose bound has passed and whose value has not landed (R109). -/
def Parts.operandWait (o : Parts) (c : Ctx) (now : Nat) : Bool :=
  o.srcS.any (fun n => n != 0 && c.mustWait now (.s (c.sphys n)))
    || o.srcV.any (fun n => c.mustWait now (.v (c.vBase + n)))
    || o.srcM.any (fun n => c.mustWait now (.m n))

/-- An uncorrectable sector among the registers that an operation reads (Table 16-1): its address, or its offset in the scalar
bank. -/
def Parts.badReg (o : Parts) (s : State) (ck : Nat) : Option Nat :=
  let c := s.ctx ck
  match o.srcS.find? fun n => n != 0 && s.bad.contains (scalarSector ck (c.sphys n)) with
  | some n => some (c.sphys n / 4 * 32)
  | none =>
    match o.srcV.find? fun n => s.readBad (vregAddr (ckCore ck) (c.vBase + n)) 128 with
    | some n => (sectorsOf (vregAddr (ckCore ck) (c.vBase + n)) 128).find? fun x => s.bad.contains x
    | none => none

/-- The issue-time fault of an operation (R381); an uncorrectable register read, which the list of R381 does not name, comes after
those of the list (log entry 53). -/
def Parts.faultOf (o : Parts) (e : Env) : Option (Nat × W64) :=
  match o.fault e with
  | some f => some f
  | none => (o.badReg e.pre e.ck).map fun a => (0x0F, BitVec.ofNat 64 a)

/-- A token that this slot and another slot of the bundle both name as produced (R266). -/
def dupToken (ops : List Parts) (o : Parts) : Option Nat :=
  o.prods.find? fun t => t != 0 && ops.any fun q => q.slot != o.slot && q.prods.contains t

/-- The fault of a slot (R381): token misuse ranks first. -/
def slotFault (e : Env) (ops : List Parts) (o : Parts) : Option (Nat × W64) :=
  match o.faultOf e, dupToken ops o with
  | f, none => f
  | some (0x12, v), some _ => some (0x12, v)
  | _, some t => some (0x12, BitVec.ofNat 64 t)

/-- The faults of every slot, decided together (R381): the first slot's cause and value, the mask of all. -/
def issueTrap (e : Env) (ops : List Parts) : Option TrapInfo :=
  trapOfFailures (ops.filterMap fun o => (slotFault e ops o).map fun (f, v) => (o.slot, f, v))

/-- The bundle of the context whose operation on an object, or whose post, a message carries. -/
def ZOp.bundleOf (ck : Nat) : ZOp → Option Nat
  | .post p => if p.src = ck then some p.bundle else none
  | .obj m => if m.ck = ck ∧ m.op < 4 then some m.bundle else none
  | .write _ _ _ _ | .read _ _ _ | .resp _ _ _ | .amo _ _ _ _ _ _ | .token _ _ _ _ | .cancel _ _ _ _ | .refuse _ _ | .lx _ _ _ _ _ _ _
  | .peer _ _ _ _ _ _ _ _ | .peerRes _ _ _ _ | .mirror _ _ => none

/-- A message of the context cannot leave, because its chiplet already has 64 unacknowledged ones of the class (R299). -/
def windowFull (s : State) (ck : Nat) : Bool :=
  let pos := ckPos ck
  ((s.ctx ck).outst.any fun a => a.pieces.zipIdx.any fun (p, j) =>
    let dst := placePos pos (placeOf s pos p.pa)
    !a.sent.contains j && !a.done.contains j && dst != pos && !canSend s pos dst a.kind.cls)
  || (s.chip pos).tx.any fun (_, t) => t.wait.any fun m => (m.1.bundleOf ck).isSome

/-- Why the bundle waits (Table 6-2): an operand, RA or HALT with a queue in use, a unit at the slip budget, or an
operation that itself has no fault and waits; or a message of the context that waits for its window (R299). -/
def bundleWait (e : Env) (ops : List Parts) : Option Wait :=
  let s := e.pre
  let c := s.ctx e.ck
  if ops.any fun o => o.operandWait c (s.now e.ck) then some .cond
  else if (e.p.ra = 1 ∨ ops.any (·.needsEmpty)) ∧ !c.queuesEmpty then some .cond
  else if windowFull s e.ck then some .cond
  else match ops.findSome? fun o => if (o.faultOf e).isSome then none else o.waits e with
    | some w => some w
    | none =>
      if (ops.any fun o => match o.unit with
          | some u => unitRefuses s e.ck u (o.isLocal e)
          | none => false) ∧ budgetOf s e.ck ≤ c.slip then some .cond
      else none

/-- The context blocks in cycle t and hands the core on; another issues in cycle t + 2 at the earliest (R107, R108). A member of a
consort freezes it for a cycle (R127). -/
def blockCtx (s : State) (ck : Nat) (w : Wait) : State :=
  let s1 := s.modCtx ck fun c =>
    { c with st := .blocked
             walkVa := match w with
               | .walk va cp => some (va, cp)
               | _ => c.walkVa }
  s1.modCore (ckCore ck) fun k => { k with active := none, lastActive := ckCtx ck
                                           cycle := k.cycle + (if k.consort.isNone then 2 else 1) }

/-! ## Commit -/

/-- Add the strides of a level to their registers (R119). -/
def applyStrides (c : Ctx) (l : Loop) : Ctx :=
  l.strides.foldl (fun c (n, d) =>
    { c with sregs := sput c.sregs (c.sphys n) (sget 0 c.sregs (c.sphys n) + d) }) c

/-- A stride register with a write in flight at the boundary is unpredictable until the write lands (R119): it takes
a free value. -/
def freeStrides (s : State) (ck : Nat) (l : Loop) : State :=
  l.strides.foldl (fun s (n, _) =>
    let c := s.ctx ck
    if c.inflight.any fun w => w.dest == .s (c.sphys n) then
      let (v, s1) := s.takeFree
      s1.modCtx ck fun c => { c with sregs := sput c.sregs (c.sphys n) v }
    else s) s

/-- Nothing that the node of context `ck` or its harts have started is still copying. -/
def copiesDone (s : State) (ck : Nat) : Bool :=
  (consortOf s ck).all fun m =>
    let k := s.core (ckCore m)
    (s.ctx m).cq.isEmpty && k.copies.all fun o =>
      if o.hart.isSome then k.owner != some (ckCtx m) else o.ctx != ckCtx m

/-- An object homed in the banks of context `ck` whose other party is outside its node (R320): a barrier with BYTES other than 0,
which another node has used or whose bytes no copy of the node can bring (log entry 20), or a ring with a stage in landing
state or producer-held whose acquirer was another node. -/
def objHolds (s : State) (ck : Nat) : Bool :=
  let c := s.ctx ck
  let k := s.core (ckCore ck)
  k.objs.any fun o =>
    let bank := o.addr % 2 ^ 24 / 0x20000
    ((sget Bank.reset k.banks bank).owner == some (ckCtx ck)) &&
    match o.kind with
    | .barrier => bitsOf (s.readNat (o.addr + 16) 8) 47 0 != 0
        && (o.parties.any (fun n => n != c.node.toNat) || copiesDone s ck)
    | .ring =>
      let sst := s.readNat (o.addr + 8) 4
      anyTo 8 fun i =>
        let v := bitsOf sst (4 * i + 3) (4 * i)
        (v == 1 || v == 2) && sget 0 o.holders i != c.node.toNat

/-- A point of the node of context `ck` is passed over (R320): for a consort, by the objects of any member's banks. -/
def nodeHolds (s : State) (ck : Nat) : Bool := (consortOf s ck).any (objHolds s)

/-- The context is a member of a consort other than its lead: its points are the lead's (R127). -/
def follows (s : State) (ck : Nat) : Bool :=
  let ms := consortOf s ck
  decide (1 < ms.length) && ms.head? != some ck

/-- A pre-emption request is served at the next loop boundary (R121, R320): one stands, at TL 0 outside a user handler, and no object
passes the point over. -/
def wantServe (s : State) (ck : Nat) : Bool :=
  let c := s.ctx ck
  c.preempt.isSome && c.tl == 0 && !c.ui.inh && !c.closing && (follows s ck || !nodeHolds s ck)

/-- A boundary of the innermost active level, reached when the next bundle would be the one after its body: the next
iteration, or the level closes and the boundary of the level around it may follow (R118 to R121). A pre-emption
request makes the iteration entered the last (R121). -/
def loopBoundary : Nat → State → Nat → State
  | 0, s, _ => s
  | fuel + 1, s, ck =>
    let c := s.ctx ck
    match c.loops.getLast? with
    | none => s
    | some l =>
      if c.active l ∧ c.pc = l.last + 1 then
        if l.isLast then
          if l.serve then
            let s1 := freeStrides (s.modCtx ck fun c => applyStrides c l) ck l
            s1.modCtx ck fun c =>
              { c with loops := c.loops.dropLast, pc := l.loopPc
                       resume := some { pc := l.loopPc, tag := l.tag, count := l.trip - l.iter - 1, strides := l.strides } }
          else
            loopBoundary fuel (s.modCtx ck fun c => { c with loops := c.loops.dropLast }) ck
        else
          let s1 := freeStrides (s.modCtx ck fun c => applyStrides c l) ck l
          let serve := wantServe s ck && decide (l.iter + 2 < l.trip)
          s1.modCtx ck fun c =>
            { c with
              loops := c.loops.dropLast ++ [{ l with iter := l.iter + 1, serve := serve }]
              closing := c.closing || serve
              pc := l.loopPc + 1 }
      else s

/-- A step trap follows a bundle that committed at TL 0 outside a user handler with STEP set (R326). -/
def markStep (s : State) (ck : Nat) (c0 : Ctx) (cy : Nat) : State :=
  if c0.dbgStep ∧ c0.tl = 0 ∧ !c0.ui.inh then
    s.modCtx ck fun c => { c with stepDue := some (c0.pc, c0.bundleNo, cy) }
  else s

/-- The bundle takes its cycle: the pc moves on, and the context holds the core (R106, R108). -/
def beginCommit (s : State) (ck : Nat) : State :=
  let s1 := s.modCtx ck fun c =>
    { c with pc := c.pc + 1, bundleNo := c.bundleNo + 1, walkVa := none, walkMig := none, walkRes := none,
             st := .active, fetched := none, fillBad := none }
  s1.modCore (ckCore ck) fun k => { k with active := some (ckCtx ck), lastActive := ckCtx ck, yielded := false }

/-- The members of a list, each once. -/
def distinct (l : List Nat) : List Nat := l.foldl (fun r x => if r.contains x then r else r ++ [x]) []

/-- Note the errors of the registers read, a sector once for each operation that reads it (R327). -/
def noteRegs (s : State) (ck : Nat) (ops : List Parts) : State :=
  let c := s.ctx ck
  ops.foldl (fun s o =>
    (distinct o.srcV).foldl (fun s n => s.noteRead (vregAddr (ckCore ck) (c.vBase + n)) 128)
      ((distinct ((o.srcS.filter (· != 0)).map fun n => scalarSector ck (c.sphys n))).foldl (fun s x => s.noteRead x 1) s)) s

/-- A context that its own bundle of cycle `t` ended frees its core in cycle t + 2 (R108). -/
def freedAt (s : State) (ck t : Nat) : State :=
  if (s.ctx ck).st = .idle then s.modCore (ckCore ck) fun k => { k with cycle := t + 2 } else s

/-- Every operation takes effect, in slot order, from the operands of the state before (R107); then what follows the
whole bundle (a window move, a kill, a release of registers), the loop boundary (R118), and the trap of ECALL or TRAP
(R160). -/
def commit (e : Env) (ops : List Parts) : State :=
  let ck := e.ck
  let c0 := e.pre.ctx ck
  let t := e.pre.now ck
  let s1 := beginCommit (noteRegs e.pre ck ops) ck
  let s2 := ops.foldl (fun s o => o.eff e s) s1
  let s3 := (ops.foldl (fun s o => o.post e s) s2).modCtx ck fun c => { c with peak := Nat.max c.peak c.slip }
  let s4 := loopBoundary 6 s3 ck
  let s5 := s4.modCore (ckCore ck) fun k => { k with cycle := k.cycle + 1 }
  let s6 := match ops.findSome? fun o => o.after e with
    | some t => takeAfter s5 ck t
    | none => s5
  markStep (freedAt s6 ck t) ck c0 t

/-- A bundle that FIO or LIO suppresses takes its cycle and counts toward the boundary, and does nothing (R88, R118). -/
def commitSkip (s : State) (ck : Nat) : State :=
  let s1 := loopBoundary 6 ((beginCommit s ck).modCtx ck fun c => { c with peak := Nat.max c.peak c.slip }) ck
  s1.modCore (ckCore ck) fun k => { k with cycle := k.cycle + 1 }

/-- No operation on an object and no post of bundle `b` is still on its way: none waits to leave, none stands in a message, none waits at
its home core. -/
def objsArrived (s : State) (ck b : Nat) : Bool :=
  s.posts.all (fun p => !(p.src == ck && p.bundle == b))
    && s.objMsgs.all (fun m => !(m.ck == ck && m.bundle == b && decide (m.op < 4)))
    && (s.chip (ckPos ck)).tx.all (fun (_, t) =>
      t.unacked.all (fun m => m.op.bundleOf ck != some b) && t.wait.all fun m => m.1.bundleOf ck != some b)
    && s.cores.all fun (_, k) => k.waitObjs.all fun m => !(m.ck == ck && m.bundle == b)

/-- Everything that bundle number `b`, issued in cycle `cy`, started has finished (R326, SDRAIN): its operations have performed, its
register writes landed, its object operations and posts arrived, and its tokens fired. -/
def bundleDone (s : State) (ck b cy : Nat) : Bool :=
  let c := s.ctx ck
  let k := s.core (ckCore ck)
  let x := ckCtx ck
  c.mq.all (fun o => o.bundle != b) && (c.lq ++ c.tq ++ c.outst).all (fun a => a.bundle != b) && c.cq.all (fun o => o.bundle != b)
    && c.inflight.all (fun w => w.t != cy)
    && k.copies.all (fun o => !(o.ctx == x && o.hart.isNone && o.bundle == b))
    && k.engine.all (fun o => !(o.ctx == x && o.bundle == b))
    && k.peer.all (fun m => !(m.ck == ck && m.bundle == b))
    && objsArrived s ck b
    && (s.chip (ckPos ck)).tlbinvs.all (fun t => !(t.ck == ck && t.bundle == b))

/-- The step trap (R326). A fault that has arrived is taken first, and the step trap follows it; in step-drain mode the bundle's
operations finish first, and a fault among them takes the step's place. -/
def takeStep (s : State) (ck : Nat) : State :=
  let c := s.ctx ck
  match c.stepDue with
  | none => s
  | some (idx, b, cy) =>
    let own := fun f : AsyncFault => f.bundle == some b
    if c.tl ≠ 0 then s
    else if c.dbgDrain ∧ c.async.all own ∧ !bundleDone s ck b cy then stallCycle s ck
    else match c.async with
      | f :: _ =>
        let s1 := takeAsync s ck
        if c.dbgDrain ∧ own f ∧ (s1.ctx ck).async.length < c.async.length then
          s1.modCtx ck fun c => { c with stepDue := none }
        else s1
      | [] =>
        match enterTrap s ck { cause := 0x1A, own := 0, tok := 0, isAsync := false, slots := 0, value := BitVec.ofNat 64 idx } c.pc with
        | some s1 => s1.modCtx ck fun c => { c with stepDue := none, dbgStepped := true }
        | none => stallCycle s ck

/-! ## Register windows (R123, R124) -/

/-- The window advance that a call pushed at depth `d` (R154). -/
def Ctx.advAt (c : Ctx) (d : Nat) : Nat := (sget (0, 0) c.link d).2

/-- Registers of the exclusive parts of frames `lo` up to but not including `hi` (R123). -/
def exclusive (c : Ctx) : Nat → Nat → Nat
  | _, 0 => 0
  | lo, n + 1 => 8 * c.advAt (lo + 1) + exclusive c (lo + 1) n

/-- The save area of frame `d` of a context (R124). -/
def saveArea (ck d : Nat) : Nat := winBase (ckCore ck) + 0x580000 + ckCtx ck * 0x10000 + d * 1024 + 640

/-- Bank entries of the exclusive registers of frame `d`, which lies `below` registers under the window (R123). -/
def frameRegs (c : Ctx) (d below : Nat) : List Nat :=
  (List.range (8 * c.advAt (d + 1))).map fun k => (c.wp + 512 - below + k) % 256

/-- Spill the oldest resident frame (R124). A refused write kills the context with FCAUSE 0x0F. -/
def spillOldest (s : State) (ck : Nat) : State :=
  let c := s.ctx ck
  let d := c.resid
  let regs := frameRegs c d (exclusive c d (c.wdepth - d))
  let a := saveArea ck d
  if s.writeBad a (8 * regs.length) then killCtx (s.noteRefused a (8 * regs.length)) ck 0x0F
  else
    let bs := regs.flatMap fun r => leBytes 8 (sget 0 c.sregs r).toNat
    let s1 := (s.writeMem a bs).modCtx ck fun c => { c with resid := d + 1 }
    s1.modCore (ckCore ck) fun k => { k with cycle := k.cycle + c.advAt (d + 1) }

/-- Registers s(64 − 8A) to s63 of a new window hold unpredictable values (R123): free values. -/
def freeRegs : Nat → State → Nat → State
  | 0, s, _ => s
  | n + 1, s, ck =>
    let (v, s1) := s.takeFree
    freeRegs n (s1.modCtx ck fun c => { c with sregs := sput c.sregs (c.sphys (63 - n)) v }) ck

/-- The window and the resident frames do not fit the bank of 256 registers yet: a CALL that has issued is spilling (R124). -/
def Ctx.needSpill (c : Ctx) : Bool := decide (256 < 48 + exclusive c c.resid (c.wdepth - c.resid))

/-- A write is in flight to a register of the oldest resident frame, which the spill waits for (R124). -/
def Ctx.spillWaits (c : Ctx) : Bool :=
  let d := c.resid
  let regs := frameRegs c d (exclusive c d (c.wdepth - d))
  c.inflight.any fun w => regs.any fun r => w.dest == .s r

/-- One step of a spill (R124): it waits, or moves the oldest frame; with the last one the new window's registers are free. -/
def spillStep (s : State) (ck : Nat) : State :=
  if (s.ctx ck).spillWaits then stallCycle s ck
  else
    let s1 := spillOldest s ck
    let c := s1.ctx ck
    if c.st = .idle ∨ c.needSpill then s1 else freeRegs (8 * c.advAt c.wdepth) s1 ck

/-- The context keeps its core and issues nothing, because a bundle that has committed is not through: a trap of its own is due, or
its spill is under way (R108, R124, R160, R313). -/
def Ctx.stalled (c : Ctx) : Bool := c.trapDue.isSome || c.needSpill

/-- One step of a stall. -/
def stallStep (s : State) (ck : Nat) : State :=
  match (s.ctx ck).trapDue with
  | some t => takeTrap s ck t (s.ctx ck).pc
  | none => spillStep s ck

/-! ## Pre-emption points -/

/-- A pre-emption point (R121, R320): a request stands, at TL 0 outside a user handler, every slot queue is empty, and
the context is outside any loop or its level has closed for the request. -/
def preemptPoint (s : State) (ck : Nat) : Bool :=
  let c := s.ctx ck
  c.preempt.isSome && c.tl == 0 && !c.ui.inh && c.queuesEmpty && (follows s ck || !nodeHolds s ck)
    && ((c.loops.all fun l => !c.active l) || (c.closing && c.resume.any fun r => r.pc == c.pc && r.tag == c.tag))

/-- A user interrupt is deliverable (R319). -/
def Ctx.userReady (c : Ctx) : Bool := c.ui.en && !c.ui.inh && c.tl == 0 && c.ui.pend != 0

/-- The context enters draining (R121) and leaves the core. -/
def startDrain (s : State) (ck : Nat) : State :=
  ((dropReq s ck).modCtx ck fun c => { c with st := .draining }).modCore (ckCore ck) fun k =>
    { k with active := none, lastActive := ckCtx ck }

/-! ## Issue -/

/-- The context can issue at all: it holds a node, is not draining and has not halted (R106, R162). -/
def Ctx.live (c : Ctx) : Bool :=
  (match c.st with
    | .idle => false
    | .draining => false
    | _ => true) && !c.halted

/-- The effective address of the operation in a slot (R292). -/
def eaOf (e : Env) (ops : List Parts) (k : Nat) : Option W64 :=
  match ops.find? fun o => o.slot == k with
  | some o => o.ea e
  | none => none

/-- What the operations of a bundle see. -/
def envOf (s : State) (ck : Nat) (p : Pfx) (ops : List Parts) (ctl : Option Ctl) : Env :=
  let c := s.ctx ck
  let tw := (ops.find? fun o => o.slot == 7 && bitsOf o.word.toNat 63 56 == 0x31).map fun o =>
    c.s (bitsOf o.word.toNat 36 31)
  let e : Env := { pre := s, ck := ck, p := p, bundle := c.bundleNo, ctl := ctl,
                   alone := ops.length == 1, eaL := none, eaT := none, tw := tw }
  { e with eaL := eaOf e ops 4, eaT := eaOf e ops 5 }

/-- The synchronous trap of a bundle that can issue, if any: FIO and LIO name a level that is not open (R88), the
checks of R77 and R78, the faults of R381. -/
def bundleTrap (e : Env) (ops : List Parts) : Option TrapInfo :=
  match gate e.c e.p with
  | .notOpen => some { cause := 0x13, own := 0, tok := 0, isAsync := false, slots := 0x80, value := yWord e.p ops }
  | .skip => none
  | .go => (staticTrap e.c e.p ops).or (issueTrap e ops)

/-- The wait of a bundle: only one that FIO and LIO let issue and that passes R77 and R78 waits for anything. -/
def bundleHeld (e : Env) (ops : List Parts) : Option Wait :=
  if gate e.c e.p = .go ∧ (staticTrap e.c e.p ops).isNone then bundleWait e ops else none

/-- The bundle traps with `t` and takes no effect; what its fault records is recorded (R327, R381). -/
def trapBundle (s : State) (ck : Nat) (e : Env) (ops : List Parts) (t : TrapInfo) : State :=
  let s0 := noteRegs s ck (ops.filter fun o => (o.badReg s ck).isSome)
  let s1 := ops.foldl (fun s o =>
    let s := if (o.faultOf e).isSome then o.forgets e s else s
    if o.faultOf e = some (t.cause, t.value) then o.onFault e s else s) s0
  takeTrap (s1.modCtx ck fun c => { c with walkRes := none, walkVa := none, walkMig := none }) ck t (s.ctx ck).pc

/-- Operations register where they first reach issue although their bundle waits, unless it will trap (R281, R291). -/
def arriveAll (s : State) (e : Env) (ops : List Parts) : State :=
  if (bundleTrap e ops).isNone then ops.foldl (fun s o => o.arrive e s) s else s

/-- A bundle of the context in focus reaches issue: it waits (Table 6-2), or the first event of R308 that applies is
taken, or it commits. -/
def issueState (p : Pfx) (ops : List Parts) (ctl : Option Ctl) (s0 : State) : State :=
  let ck := s0.fck
  let s := settle s0 ck
  let c := s.ctx ck
  if !c.live then s
  else if c.stalled then stallStep s ck
  else if c.stepDue.isSome ∧ c.tl = 0 then takeStep s ck
  else
    let e := envOf s ck p ops ctl
    match bundleHeld e ops with
    | some w =>
      let s1 := arriveAll s e ops
      if w = .stall then s1.modCore (ckCore ck) fun k => { k with cycle := k.cycle + 1 } else blockCtx s1 ck w
    | none =>
      if c.async ≠ [] then takeAsync s ck
      else match bundleTrap e ops with
        | some t => trapBundle s ck e ops t
        | none =>
          if preemptPoint s ck then startDrain s ck
          else if c.userReady then enterUser s ck
          else if gate c p = .skip then commitSkip s ck
          else commit e ops

/-- The meaning of an operation that stands alone in its bundle. -/
def issueOne (p : Pfx) (o : Parts) (s : State) : Out := .next (issueState p [o] none s)

end Sys2Proof.Machine
end

