-- ==== Sys2Proof/Machine/Operands.lean ====
section
/-!
DEFINITION. Operand forms of the slots: register fields, widths, immediates and LAT legality (R79 to R85, R147).
-/
namespace Sys2Proof.Machine
open Sys2Proof

/-- A scalar register number in a 10-bit field has bits [9:6] zero (R79). -/
def s6Ok (f : BitVec 10) : Bool := f.toNat < 64
/-- The scalar register of a 10-bit field. -/
def s6 (f : BitVec 10) : Nat := f.toNat % 64

/-- LAT legality of an operation that writes a register, with minimum bound `min` (R80). -/
def latReg (code : BitVec 4) (min : Nat) : Option Nat :=
  if code.toNat = 15 ∨ latBound code.toNat < min then some 0x01 else none

/-- LAT of an operation that writes no register is 0 (R80). -/
def latNone (code : BitVec 4) : Option Nat := if code = 0 then none else some 0x02

/-- The bound of a LAT field. -/
def bnd (code : BitVec 4) : Nat := latBound code.toNat

/-- The width W of a scalar operation's EF, none for an EF it does not accept (R81, R147). -/
def sWidth (ef : BitVec 5) : Option Nat :=
  if ef = 0x00 ∨ ef = 0x12 then some 64 else if ef = 0x10 then some 32 else none

/-- W, 64 where EF is not accepted. -/
def sWidthD (ef : BitVec 5) : Nat := (sWidth ef).getD 64

/-- A function on words of either width, of the operands A and B and of the old destination D. -/
abbrev SFn := (w : Nat) → BitVec w → BitVec w → BitVec w → BitVec w

/-- Apply a function at width `w`: at 32 bits the low halves are read and the result is sign-extended (R147). -/
def atWidth (w : Nat) (f : SFn) (a b d : W64) : W64 :=
  if w = 32 then (f 32 (a.setWidth 32) (b.setWidth 32) (d.setWidth 32)).signExtend 64 else f 64 a b d

/-- The mode bits RM, FI, FO and SAT are zero. -/
def rrrPlain (f : Rrr) : Bool := f.rm == 0 && f.fi == 0 && f.fo == 0 && f.sat == 0
def riPlain (f : Ri) : Bool := f.rm == 0 && f.fi == 0 && f.fo == 0 && f.sat == 0

/-- IMM22 as a signed number (R82). -/
def immSgn (f : Ri) : Int := f.imm.toInt
/-- IMM22 sign-extended to 64 bits (R147). -/
def imm64 (f : Ri) : W64 := f.imm.signExtend 64

/-- A condition code of Table 5-4 on two scalars and the top of the mask stack (R83, R153, R122). -/
def condHolds (c : Ctx) (cond : Nat) (a b : W64) : Bool :=
  match cond with
  | 0 => true
  | 1 => a == b
  | 2 => a != b
  | 3 => a.slt b
  | 4 => !a.slt b
  | 5 => a.ult b
  | 6 => !a.ult b
  | 7 => c.maskOf 0 == 0
  | 8 => c.maskOf 0 != 0
  | _ => false

end Sys2Proof.Machine
end

