-- ==== Sys2Proof/Machine/Control.lean ====
section
/-!
DEFINITION. Branches, calls and hardware loops: the BR format of the S slot (R117 to R124, R153 to R157).
-/
namespace Sys2Proof.Machine
open Sys2Proof

/-- OFF32 as a signed number of bundles (R83). -/
def brOff (f : Br) : Int := f.off.toInt

/-- A bundle index from an integer: indices are 32 bits (R310, R318); a negative one lies outside every image. -/
def bundleIdx (i : Int) : Nat := (i % 4294967296).toNat

/-- The bits that are zero in every BR operation, and the values no BR operation accepts (R83). -/
def brZ (f : Br) : Bool := f.z1 == 0 && f.z2 == 0
def brBad (f : Br) : Option Nat := if 9 ≤ f.cond.toNat ∨ f.hint = 3 then some 0x01 else none

/-- COND reads no registers (R153). -/
def condBare (f : Br) : Bool := f.cond == 0 || f.cond == 7 || f.cond == 8

/-- The registers that COND compares. -/
def condSrc (f : Br) : List Nat := if condBare f then [] else [f.sa.toNat, f.sb.toNat]

/-- Whether the condition of a BR operation holds, from the context's own registers (R153). -/
def brTaken (f : Br) (e : Env) : Bool := condHolds e.c f.cond.toNat (e.s f.sa.toNat) (e.s f.sb.toNat)

/-- The innermost active level (R117). -/
def Ctx.inner (c : Ctx) : Option Loop :=
  match c.loops.getLast? with
  | some l => if c.active l then some l else none
  | none => none

/-- A target outside the body of the innermost active level (R120). -/
def leavesBody (c : Ctx) (t : Nat) : Bool :=
  match c.inner with
  | some l => !(decide (l.loopPc < t) && decide (t ≤ l.last))
  | none => false

/-- Set the next bundle. -/
def setPc (s : State) (ck t : Nat) : State := s.modCtx ck fun c => { c with pc := t }

/-- A branch: its outcome is the lead's in a consort (R126); a taken one whose target leaves the innermost active body
raises cause 0x13 (R120). -/
def branchParts (word : W64) (zero : Bool) (bad : Option Nat) (srcs : List Nat) (taken : Env → Bool)
    (target : Env → Nat) : Parts :=
  let ctl := fun e : Env => e.ctl.getD { taken := taken e, target := target e, value := 0 }
  { slot := 0, word := word, zeroOk := zero, bad := bad, srcS := srcs
    fault := fun e => if (ctl e).taken && leavesBody e.c (ctl e).target then some (0x13, word) else none
    ctlOf := fun e => some (ctl e)
    eff := fun e s => if (ctl e).taken then setPc s e.ck (ctl e).target else s }

/-- BR (R153). -/
def brParts (f : Br) : Parts :=
  branchParts (brWord 0x40 f) (brZ f && (!condBare f || (f.sa == 0 && f.sb == 0))) (brBad f) (condSrc f) (brTaken f)
    (fun e => bundleIdx (e.c.pc + brOff f))
def execBr (p : Pfx) (f : Br) (s : State) : Out := issueOne p (brParts f) s

/-- BRI (R153): COND 1 to 6 is illegal. -/
def briParts (f : Br) : Parts :=
  branchParts (brWord 0x41 f) (brZ f && f.sb == 0 && f.off == 0)
    (if condBare f then brBad f else some 0x01) [f.sa.toNat] (brTaken f) (fun e => (e.s f.sa.toNat).toNat)
def execBri (p : Pfx) (f : Br) (s : State) : Out := issueOne p (briParts f) s

/-! ## Calls and register windows -/

/-- A call: the link, the window and the depth (R123, R154). Where the window needs entries of outer frames, the spills follow
(R124). -/
def callEff (adv target : Nat) (s : State) (ck : Nat) : State :=
  let s1 := s.modCtx ck fun c =>
    ({ c with link := sput c.link (c.wdepth + 1) (c.pc, adv), wdepth := c.wdepth + 1, wp := (c.wp + 8 * adv) % 256
              pc := target }).setPendStr []
  if (s1.ctx ck).needSpill then s1 else freeRegs (8 * adv) s1 ck

/-- CALL and CALLI (R154). The move of the window comes after every other slot's effect, whose registers are those of
the caller's window. -/
def callParts2 (word : W64) (zero : Bool) (f : Br) (srcs : List Nat) (target : Env → Nat) : Parts :=
  let adv := f.sb.toNat
  let ctl := fun e : Env => e.ctl.getD { taken := true, target := target e, value := 0 }
  { slot := 0, word := word, zeroOk := zero && brZ f && f.cond == 0
    bad := if adv < 1 ∨ 6 < adv then some 0x01 else brBad f
    srcS := srcs
    fault := fun e => if e.c.wdepth = 63 then some (0x0B, word) else none
    ctlOf := fun e => some (ctl e)
    post := fun e s => callEff adv (ctl e).target s e.ck }

def callParts (f : Br) : Parts :=
  callParts2 (brWord 0x42 f) (f.sa == 0) f [] (fun e => bundleIdx (e.c.pc + brOff f))
def execCall (p : Pfx) (f : Br) (s : State) : Out := issueOne p (callParts f) s

def calliParts (f : Br) : Parts :=
  callParts2 (brWord 0x43 f) (f.off == 0) f [f.sa.toNat] (fun e => (e.s f.sa.toNat).toNat)
def execCalli (p : Pfx) (f : Br) (s : State) : Out := issueOne p (calliParts f) s

/-- Refill the exclusive registers of the frame returned into (R124). An uncorrectable sector kills the context. -/
def refill (s : State) (ck adv : Nat) : State :=
  let c := s.ctx ck
  let a := saveArea ck c.wdepth
  if s.readBad a (64 * adv) then killCtx (s.noteRead a (64 * adv)) ck 0x0F
  else
    let s1 := (s.noteRead a (64 * adv)).modCtx ck fun c =>
      { c with
        resid := c.wdepth
        sregs := (List.range (8 * adv)).foldl (fun m k => sput m ((c.wp + k) % 256) (s.read64 (a + 8 * k))) c.sregs }
    s1.modCore (ckCore ck) fun k => { k with cycle := k.cycle + adv }

/-- A return: the link is popped, the window moved back, and a spilled frame refilled (R123, R124, R154). -/
def retEff (s : State) (ck : Nat) : State :=
  let c := s.ctx ck
  let (p, adv) := sget (0, 0) c.link c.wdepth
  let s1 := s.modCtx ck fun c =>
    ({ c with wdepth := c.wdepth - 1, wp := (c.wp + 256 - 8 * adv) % 256, pc := p }).setPendStr []
  if c.wdepth - 1 < c.resid then refill s1 ck adv else s1

/-- RET (R154): at depth 0 cause 0x0B; with a level that the callee opened still open cause 0x13 (R120). -/
def retParts (f : Br) : Parts :=
  { slot := 0, word := brWord 0x44 f
    zeroOk := brZ f && f.cond == 0 && f.sa == 0 && f.sb == 0 && f.off == 0
    bad := brBad f
    fault := fun e =>
      if e.c.wdepth = 0 then some (0x0B, brWord 0x44 f)
      else if e.c.inner.isSome then some (0x13, brWord 0x44 f) else none
    ctlOf := fun _ => some { taken := true, target := 0, value := 0 }
    post := fun e s => retEff s e.ck }
def execRet (p : Pfx) (f : Br) (s : State) : Out := issueOne p (retParts f) s

/-! ## Hardware loops -/

/-- The level closed for pre-emption that this LOOP bundle reopens (R121). -/
def Ctx.reopens (c : Ctx) : Option Closed := c.resume.filter fun r => r.pc == c.pc && r.tag == c.tag

/-- LOOP (R117, R155): the trip count is the resume count where the level was closed for pre-emption (R121). -/
def loopTrip (f : Br) (e : Env) : Nat :=
  match e.c.reopens with
  | some r => r.count
  | none => ((e.ctl.map (·.value)).getD (e.s f.sa.toNat)).toNat

def loopBad (f : Br) (e : Env) : Bool :=
  let last := e.c.pc + f.off.toNat
  decide (0xFFFFFFFF < loopTrip f e) || (decide (6 ≤ e.c.loops.length) && loopTrip f e != 0) || !e.alone
    || match e.c.inner with
       | some l => !(decide (l.loopPc < e.c.pc) && decide (last ≤ l.last))
       | none => false

def loopParts (f : Br) : Parts :=
  { slot := 0, word := brWord 0x45 f
    zeroOk := brZ f && f.cond == 0 && f.sb == 0 && f.hint == 0
    bad := if f.off.toNat < 1 ∨ 256 < f.off.toNat then some 0x13 else none
    srcS := [f.sa.toNat]
    fault := fun e => if loopBad f e then some (0x13, brWord 0x45 f) else none
    ctlOf := fun e => some { taken := true, target := 0, value := e.s f.sa.toNat }
    eff := fun e s => s.modCtx e.ck fun c =>
      let n := loopTrip f e
      let last := e.c.pc + f.off.toNat
      let c1 := match e.c.reopens with
        | some _ => { c with resume := none, closing := false }
        | none => c
      let strides := match e.c.reopens with
        | some r => r.strides
        | none => c.pend
      let opened : Ctx := if n = 0 then { c1 with pc := last + 1 }
        else { c1 with loops := c.loops ++ [{ loopPc := e.c.pc, last := last, trip := n, iter := 0, forced := false,
                                              serve := false, tag := c.tag, strides := strides, buf := [] }] }
      opened.setPendStr [] }
def execLoop (p : Pfx) (f : Br) (s : State) : Out := issueOne p (loopParts f) s

/-- The loop level named in OFF32[2:0] (R156, R157). -/
def levelOf (f : Br) : Nat := f.off.toNat % 8

/-- Register or replace a stride (R156). -/
def addStride (l : List (Nat × W64)) (r : Nat) (d : W64) : List (Nat × W64) :=
  if l.any fun x => x.1 == r then l.map fun x => if x.1 == r then (r, d) else x else l ++ [(r, d)]

/-- The level is open and active. -/
def Ctx.activeAt (c : Ctx) (n : Nat) : Bool :=
  match c.loops[n]? with
  | some l => c.active l
  | none => false

/-- LSTR (R156). -/
def lstrParts (f : Br) : Parts :=
  let n := levelOf f
  let r := f.sa.toNat
  let full := fun l : List (Nat × W64) => decide (8 ≤ l.length) && !(l.any fun x => x.1 == r)
  { slot := 0, word := brWord 0x46 f
    zeroOk := brZ f && f.cond == 0 && f.hint == 0 && decide (f.off.toNat < 8)
    bad := if r = 0 ∨ 6 ≤ n then some 0x01 else none
    srcS := [f.sb.toNat]
    fault := fun e =>
      let w := brWord 0x46 f
      if e.c.activeAt n then if full ((e.c.loops[n]?.map (·.strides)).getD []) then some (0x13, w) else none
      else if n = e.c.loops.length then if full e.c.pend then some (0x13, w) else none
      else some (0x13, w)
    ctlOf := fun e => some { taken := true, target := 0, value := e.s f.sb.toNat }
    eff := fun e s => s.modCtx e.ck fun c =>
      let d := (e.ctl.map (·.value)).getD (e.s f.sb.toNat)
      match c.loops[n]? with
      | some l => { c with loops := lset c.loops n { l with strides := addStride l.strides r d } }
      | none => c.setPendStr (addStride c.pend r d) }
def execLstr (p : Pfx) (f : Br) (s : State) : Out := issueOne p (lstrParts f) s

/-- LBRK (R157): a taken one makes the level's current iteration its last, also where that iteration was to be run as
the last for a pre-emption (log entry 14). -/
def lbrkParts (f : Br) : Parts :=
  let n := levelOf f
  let ctl := fun e : Env => e.ctl.getD { taken := brTaken f e, target := 0, value := 0 }
  { slot := 0, word := brWord 0x47 f
    zeroOk := brZ f && decide (f.off.toNat < 8) && (!condBare f || (f.sa == 0 && f.sb == 0))
    bad := if 6 ≤ n then some 0x01 else brBad f
    srcS := condSrc f
    fault := fun e => if e.c.activeAt n then none else some (0x13, brWord 0x47 f)
    ctlOf := fun e => some (ctl e)
    eff := fun e s => if (ctl e).taken then s.modCtx e.ck fun c =>
        match c.loops[n]? with
        | some l => { c with loops := lset c.loops n { l with forced := true, serve := false },
                             closing := c.closing && !l.serve }
        | none => c
      else s }
def execLbrk (p : Pfx) (f : Br) (s : State) : Out := issueOne p (lbrkParts f) s

end Sys2Proof.Machine
end

