-- ==== Sys2Proof/Machine/Num.lean ====
section
/-!
DEFINITION. Numbers: the element formats of Tables 7-1 and 7-2, the helpers of Table 7-5 (VALUE, FIN, ENC, INTC, RNDF,
RNDI) and the arithmetic between a read and a write (R128 to R141).

A finite number is exact: a sign, a natural number and a power of two. A quotient or a root is kept to more bits than
any format has, with one further bit that says whether it is exact, so that one rounding of it is the rounding of the
real number.
-/
namespace Sys2Proof.Machine
open Sys2Proof

/-! ## Flags and formats -/

/-- The bits of FLAGS (Table 7-7). -/
def flNV : BitVec 7 := 0x01
def flDZ : BitVec 7 := 0x02
def flOF : BitVec 7 := 0x04
def flUF : BitVec 7 := 0x08
def flNX : BitVec 7 := 0x10
def flSA : BitVec 7 := 0x20
def flCD : BitVec 7 := 0x40

/-- A flag where a condition holds. -/
def flIf (b : Bool) (f : BitVec 7) : BitVec 7 := if b then f else 0

/-- A floating format (Table 7-2): exponent and mantissa bits, bias, whether it has infinities and NaNs. `top` is the
code of the largest finite magnitude. -/
structure Flt where
  eb   : Nat
  mb   : Nat
  bias : Nat
  inf  : Bool
  nan  : Bool
  top  : Nat
  deriving DecidableEq, Repr

def e2m1 : Flt := { eb := 2, mb := 1, bias := 1, inf := false, nan := false, top := 0x7 }
def e2m3 : Flt := { eb := 2, mb := 3, bias := 1, inf := false, nan := false, top := 0x1F }
def e3m2 : Flt := { eb := 3, mb := 2, bias := 3, inf := false, nan := false, top := 0x1F }
def e4m3 : Flt := { eb := 4, mb := 3, bias := 7, inf := false, nan := true, top := 0x7E }
def e5m2 : Flt := { eb := 5, mb := 2, bias := 15, inf := true, nan := true, top := 0x7B }
def f16 : Flt := { eb := 5, mb := 10, bias := 15, inf := true, nan := true, top := 0x7BFF }
def bf16 : Flt := { eb := 8, mb := 7, bias := 127, inf := true, nan := true, top := 0x7F7F }
def f32 : Flt := { eb := 8, mb := 23, bias := 127, inf := true, nan := true, top := 0x7F7FFFFF }

/-- What a format's codes denote (Table 7-1). -/
inductive FKind where
  | int (signed : Bool)
  | flt (f : Flt)
  | ds
  | xs
  deriving DecidableEq, Repr

/-- An element format (Table 7-1): its width in bits, its kind, and whether it is block-scaled. -/
structure Fmt where
  bits  : Nat
  kind  : FKind
  block : Bool
  deriving DecidableEq, Repr

/-- The format of a code of Table 7-1. -/
def fmtOf (c : Nat) : Option Fmt :=
  match c with
  | 0x01 => some ⟨4, .int true, false⟩ | 0x02 => some ⟨4, .int false, false⟩ | 0x03 => some ⟨4, .flt e2m1, false⟩
  | 0x04 => some ⟨8, .int true, false⟩ | 0x05 => some ⟨8, .int false, false⟩ | 0x06 => some ⟨8, .flt e4m3, false⟩
  | 0x07 => some ⟨8, .flt e5m2, false⟩ | 0x08 => some ⟨8, .flt e2m3, false⟩ | 0x09 => some ⟨8, .flt e3m2, false⟩
  | 0x0A => some ⟨8, .ds, false⟩ | 0x0B => some ⟨16, .int true, false⟩ | 0x0C => some ⟨16, .int false, false⟩
  | 0x0D => some ⟨16, .flt f16, false⟩ | 0x0E => some ⟨16, .flt bf16, false⟩ | 0x0F => some ⟨32, .flt f32, false⟩
  | 0x10 => some ⟨32, .int true, false⟩ | 0x11 => some ⟨32, .int false, false⟩ | 0x12 => some ⟨64, .int true, false⟩
  | 0x13 => some ⟨64, .int false, false⟩ | 0x18 => some ⟨4, .int true, true⟩ | 0x19 => some ⟨4, .flt e2m1, true⟩
  | 0x1A => some ⟨8, .int true, true⟩ | 0x1B => some ⟨8, .flt e4m3, true⟩ | 0x1C => some ⟨8, .flt e3m2, true⟩
  | 0x1D => some ⟨8, .ds, true⟩ | 0x1F => some ⟨8, .xs, false⟩
  | _ => none

/-- The format of a code, I8 for a code that is none (its operation has trapped). -/
def fmtD (c : Nat) : Fmt := (fmtOf c).getD ⟨8, .int true, false⟩

/-- The integer group and the float group (ch. 9), and the 20 operand formats of the matrix engine (Table 7-1). -/
def isIntGrp (c : Nat) : Bool := [0x04, 0x05, 0x0B, 0x0C, 0x10, 0x11, 0x12, 0x13].contains c
def isFltGrp (c : Nat) : Bool := [0x0D, 0x0E, 0x0F].contains c
def isMFmt (c : Nat) : Bool :=
  [0x01, 0x02, 0x03, 0x04, 0x05, 0x06, 0x07, 0x08, 0x09, 0x0A, 0x0B, 0x0D, 0x0E, 0x0F, 0x18, 0x19, 0x1A, 0x1B, 0x1C,
   0x1D].contains c

/-- The formats that FI and FO act on (R138). -/
def Flt.flushes (f : Flt) : Bool := f == f16 || f == bf16 || f == f32

/-- Element i of a register or of memory: bits [w(i+1)−1 : wi] (R129). -/
def elemOf (w i n : Nat) : Nat := (n >>> (w * i)) % 2 ^ w

/-! ## Numbers -/

/-- A real number with the sign of its zeros, an infinity, or an F32 quiet NaN (Table 7-5). `fin neg m e` is
(−1)^neg × m × 2^e. -/
inductive Num where
  | fin (neg : Bool) (m : Nat) (e : Int)
  | inf (neg : Bool)
  | nan (p : W32)
  deriving DecidableEq, Repr

namespace Num
/-- An exact integer. -/
def ofInt (i : Int) : Num := .fin (decide (i < 0)) i.natAbs 0
def zero : Num := .fin false 0 0
/-- The generated NaN of number n (Table 7-4). -/
def gen (n : Nat) : Num := .nan (BitVec.ofNat 32 (0x7FC00000 + n))

def isNaN : Num → Bool
  | .nan _ => true
  | .fin _ _ _ => false
  | .inf _ => false

def isZero : Num → Bool
  | .fin _ m _ => m == 0
  | .inf _ => false
  | .nan _ => false

def isFin : Num → Bool
  | .fin _ _ _ => true
  | .inf _ => false
  | .nan _ => false

/-- The sign. -/
def neg? : Num → Bool
  | .fin n _ _ => n
  | .inf n => n
  | .nan p => p.getLsbD 31

/-- The negative of a number that is no NaN. -/
def negate : Num → Num
  | .fin n m e => .fin (!n) m e
  | .inf n => .inf (!n)
  | .nan p => .nan p

/-- A finite number times 2^k. -/
def scale (k : Int) : Num → Num
  | .fin n m e => .fin n m (e + k)
  | .inf n => .inf n
  | .nan p => .nan p
end Num

/-- m × 2^e as a multiple of 2^g, for g ≤ e. -/
def alignTo (m : Nat) (e g : Int) : Nat := m * 2 ^ (e - g).toNat

/-- A signed natural number. -/
def signed (neg : Bool) (m : Nat) : Int := if neg then -(m : Int) else (m : Int)

/-- The exact sum of finite numbers; a zero sum has the sign `z`, or is −0 where both are −0 (R141). -/
def addFin (z : Bool) (n1 : Bool) (m1 : Nat) (e1 : Int) (n2 : Bool) (m2 : Nat) (e2 : Int) : Num :=
  let g := min e1 e2
  let v := signed n1 (alignTo m1 e1 g) + signed n2 (alignTo m2 e2 g)
  if v = 0 then .fin (if m1 = 0 ∧ m2 = 0 ∧ n1 ∧ n2 then true else z) 0 0
  else .fin (decide (v < 0)) v.natAbs g

/-- The sum of two numbers that are no NaNs, ∞ − ∞ the NaN of Table 7-4, and its flags. -/
def numAdd (z : Bool) (a b : Num) : Num × BitVec 7 :=
  match a, b with
  | .nan p, _ => (.nan p, 0)
  | _, .nan p => (.nan p, 0)
  | .inf n, .inf k => if n = k then (.inf n, 0) else (Num.gen 1, flNV)
  | .inf n, .fin _ _ _ => (.inf n, 0)
  | .fin _ _ _, .inf n => (.inf n, 0)
  | .fin n1 m1 e1, .fin n2 m2 e2 => (addFin z n1 m1 e1 n2 m2 e2, 0)

/-- The exact product, 0 × ∞ the NaN of Table 7-4, and its flags; NaN operands in order. -/
def numMul (a b : Num) : Num × BitVec 7 :=
  match a, b with
  | .nan p, _ => (.nan p, 0)
  | _, .nan p => (.nan p, 0)
  | .inf n, .inf k => (.inf (n != k), 0)
  | .inf n, .fin k m _ => if m = 0 then (Num.gen 2, flNV) else (.inf (n != k), 0)
  | .fin k m _, .inf n => if m = 0 then (Num.gen 2, flNV) else (.inf (n != k), 0)
  | .fin n1 m1 e1, .fin n2 m2 e2 => (.fin (n1 != n2) (m1 * m2) (e1 + e2), 0)

/-- The quotient (R173). -/
def numDiv (a b : Num) : Num × BitVec 7 :=
  match a, b with
  | .nan p, _ => (.nan p, 0)
  | _, .nan p => (.nan p, 0)
  | .inf _, .inf _ => (Num.gen 3, flNV)
  | .inf n, .fin k _ _ => (.inf (n != k), 0)
  | .fin n _ _, .inf k => (.fin (n != k) 0 0, 0)
  | .fin n1 m1 e1, .fin n2 m2 e2 =>
    if m2 = 0 then (if m1 = 0 then (Num.gen 3, flNV) else (.inf (n1 != n2), flDZ))
    else
      let k := 72 + Nat.log2 m2 - Nat.log2 m1
      let q := m1 * 2 ^ k / m2
      let r := m1 * 2 ^ k % m2
      if m1 = 0 then (.fin (n1 != n2) 0 0, 0)
      else (.fin (n1 != n2) (2 * q + (if r = 0 then 0 else 1)) (e1 - e2 - k - 1), 0)

/-- The largest r below 2^bits that satisfies a test which holds below some number and fails from it on. -/
def searchBits (ok : Nat → Bool) : Nat → Nat → Nat
  | 0, r => r
  | b + 1, r => searchBits ok b (if ok (r + 2 ^ b) then r + 2 ^ b else r)

/-- A number of even exponent equal to m × 2^e. -/
def evenExp (m : Nat) (e : Int) : Nat × Int := if e % 2 = 0 then (m, e) else (2 * m, e - 1)

/-- The square root (R173). -/
def numSqrt (a : Num) : Num × BitVec 7 :=
  match a with
  | .nan p => (.nan p, 0)
  | .inf false => (.inf false, 0)
  | .inf true => (Num.gen 4, flNV)
  | .fin n m e =>
    if m = 0 then (.fin n 0 0, 0)
    else if n then (Num.gen 4, flNV)
    else
      let (m1, e1) := evenExp m e
      let k : Nat := 72
      let v := m1 * 2 ^ (2 * k)
      let b := (Nat.log2 v) / 2 + 1
      let r := searchBits (fun r => decide (r * r ≤ v)) b 0
      (.fin false (2 * r + (if r * r = v then 0 else 1)) (e1 / 2 - k - 1), 0)

/-- The reciprocal square root (R173). -/
def numRsq (a : Num) : Num × BitVec 7 :=
  match a with
  | .nan p => (.nan p, 0)
  | .inf false => (.fin false 0 0, 0)
  | .inf true => (Num.gen 4, flNV)
  | .fin n m e =>
    if m = 0 then (.inf n, flDZ)
    else if n then (Num.gen 4, flNV)
    else
      let (m1, e1) := evenExp m e
      let k : Nat := 73 + Nat.log2 m1
      let b := k + 1
      let r := searchBits (fun r => decide (r * r * m1 ≤ 2 ^ (2 * k))) b 0
      (.fin false (2 * r + (if r * r * m1 = 2 ^ (2 * k) then 0 else 1)) (-(e1 / 2) - k - 1), 0)

/-- Compare two numbers that are no NaNs; zeros are equal whatever their sign. -/
def numCmp (a b : Num) : Ordering :=
  match a, b with
  | .nan _, _ => .eq
  | _, .nan _ => .eq
  | .inf n, .inf k => if n = k then .eq else if n then .lt else .gt
  | .inf n, .fin _ _ _ => if n then .lt else .gt
  | .fin _ _ _, .inf k => if k then .gt else .lt
  | .fin n1 m1 e1, .fin n2 m2 e2 =>
    let g := min e1 e2
    compare (signed n1 (alignTo m1 e1 g)) (signed n2 (alignTo m2 e2 g))

/-- ⌊log2 |x|⌋ of a finite number that is not zero. -/
def floorLog (m : Nat) (e : Int) : Int := (Nat.log2 m : Int) + e

/-! ## Rounding -/

/-- m / 2^k rounded under `rm` (Table 5-3) for a number of sign `neg`. -/
def roundShift (rm : Nat) (neg : Bool) (m k : Nat) : Nat :=
  let q := m / 2 ^ k
  let r := m % 2 ^ k
  let up := match rm with
    | 0 => decide (2 ^ k < 2 * r) || (2 * r == 2 ^ k && q % 2 == 1)
    | 1 => false
    | 2 => neg && r != 0
    | _ => !neg && r != 0
  if up then q + 1 else q

/-- m × 2^e rounded to a multiple of 2^g: how many times 2^g, and whether that changed it. -/
def roundGrid (rm : Nat) (neg : Bool) (m : Nat) (e g : Int) : Nat × Bool :=
  if g ≤ e then (alignTo m e g, false)
  else
    let k := (g - e).toNat
    (roundShift rm neg m k, m % 2 ^ k != 0)

/-- RNDI: an integer (Table 7-5), and whether rounding changed the number. -/
def rndi (rm : Nat) (neg : Bool) (m : Nat) (e : Int) : Int × Bool :=
  let (q, c) := roundGrid rm neg m e 0
  (signed neg q, c)

/-- Exponent of the least grid of a format, its subnormal spacing. -/
def Flt.low (f : Flt) : Int := 1 - (f.bias : Int) - (f.mb : Int)

/-- RNDF (Table 7-5): the code that the rounded magnitude has, or would have with its exponent unbounded above; and
whether rounding changed the number. -/
def rndf (f : Flt) (rm : Nat) (neg : Bool) (m : Nat) (e : Int) : Nat × Bool :=
  let g := max (floorLog m e - f.mb) f.low
  let (q, c) := roundGrid rm neg m e g
  ((g - f.low).toNat * 2 ^ f.mb + q, c)

/-- The width of a floating code. -/
def Flt.width (f : Flt) : Nat := 1 + f.eb + f.mb

/-- A magnitude code with its sign. -/
def Flt.withSign (f : Flt) (neg : Bool) (c : Nat) : Nat := bit01 neg * 2 ^ (f.eb + f.mb) + c

/-- The code of infinity. -/
def Flt.infCode (f : Flt) : Nat := (2 ^ f.eb - 1) * 2 ^ f.mb

/-- The quiet NaN of a format with a NaN's sign and top payload bits (R136). -/
def Flt.nanCode (f : Flt) (p : W32) : Nat :=
  let sgn := p.getLsbD 31
  if f = e4m3 then f.withSign sgn 0x7F
  else if f = e5m2 then f.withSign sgn 0x7F
  else f.withSign sgn (f.infCode + bitsOf p.toNat 22 (23 - f.mb))

/-- ENC into a floating format (R136), then FO where `fo` asks for it (R138). -/
def encF (f : Flt) (rm : Nat) (sat fo : Bool) (x : Num) : Nat × BitVec 7 :=
  match x with
  | .nan p => if f.nan then (f.nanCode p, 0) else (0, flNV)
  | .inf n => if f.inf && !sat then (f.withSign n f.infCode, 0) else (f.withSign n f.top, flOF ||| flSA)
  | .fin n m e =>
    if m = 0 then (f.withSign n 0, 0)
    else
      let (c, ch) := rndf f rm n m e
      let fl := flIf ch flNX ||| flIf (ch && decide (floorLog m e < 1 - (f.bias : Int))) flUF
      if f.top < c then
        let away := rm == 0 || (rm == 2 && n) || (rm == 3 && !n)
        if f.inf && !sat && away then (f.withSign n f.infCode, fl ||| flOF)
        else (f.withSign n f.top, fl ||| flOF ||| flIf (sat || !f.inf) flSA)
      else if fo && f.flushes && c != 0 && decide (c < 2 ^ f.mb) then (f.withSign n 0, fl ||| flUF ||| flNX)
      else (f.withSign n c, fl)

/-- The least and greatest values of an integer format. -/
def intMin (w : Nat) (sgn : Bool) : Int := if sgn then -((2 ^ (w - 1) : Nat) : Int) else 0
def intMax (w : Nat) (sgn : Bool) : Int := if sgn then ((2 ^ (w - 1) : Nat) : Int) - 1 else ((2 ^ w : Nat) : Int) - 1

/-- INTC (Table 7-5): the code, and the saturation flag. -/
def intc (w : Nat) (sgn : Bool) (sat : Bool) (x : Int) : Nat × BitVec 7 :=
  if sat then
    let y := max (intMin w sgn) (min (intMax w sgn) x)
    (ofSigned w y, flIf (y != x) flSA)
  else (ofSigned w x, 0)

/-- ENC of a floating number into an integer format (R137). -/
def encI (w : Nat) (sgn : Bool) (rm : Nat) (x : Num) : Nat × BitVec 7 :=
  match x with
  | .nan _ => (0, flNV)
  | .inf n => (ofSigned w (if n then intMin w sgn else intMax w sgn), flNV)
  | .fin n m e =>
    let (y, ch) := rndi rm n m e
    if y < intMin w sgn then (ofSigned w (intMin w sgn), flNV)
    else if intMax w sgn < y then (ofSigned w (intMax w sgn), flNV)
    else (ofSigned w y, flIf ch flNX)

/-! ## Reading an encoding -/

/-- A DS8 term with sign bit `s` and code `c` (R132). -/
def dsTerm (s : Bool) (c : Nat) : Int := if c = 7 then 0 else signed s (2 ^ c)

/-- The value of a DS8 byte (R132). -/
def dsValue (e : Nat) : Int := dsTerm (bitOf e 7) (bitsOf e 6 4) + dsTerm (bitOf e 3) (bitsOf e 2 0)

/-- A NaN code of a floating format read into arithmetic (R131). -/
def Flt.readNaN (f : Flt) (neg : Bool) (man : Nat) : W32 :=
  if f = e4m3 ∨ f = e5m2 then BitVec.ofNat 32 (bit01 neg * 2 ^ 31 + 0x7FC00000)
  else BitVec.ofNat 32 (bit01 neg * 2 ^ 31 + 0x7F800000) ||| BitVec.ofNat 32 (man * 2 ^ (23 - f.mb)) ||| 0x00400000#32

/-- VALUE and FIN of a floating code (R130, R131, Table 7-5): with `fi` a subnormal of F16, BF16 or F32 reads as zero of
its sign; reading a signalling NaN sets NV. -/
def readF (f : Flt) (fi : Bool) (e : Nat) : Num × BitVec 7 :=
  let neg := bitOf e (f.eb + f.mb)
  let ex := bitsOf e (f.eb + f.mb - 1) f.mb
  let man := e % 2 ^ f.mb
  let ones := ex == 2 ^ f.eb - 1
  if ones && f.inf && man == 0 then (.inf neg, 0)
  else if ones && f.inf then (.nan (f.readNaN neg man), flIf (f.flushes && !bitOf man (f.mb - 1)) flNV)
  else if ones && f.nan && man == 2 ^ f.mb - 1 then (.nan (f.readNaN neg man), 0)
  else if ex = 0 then (if fi && f.flushes then (.fin neg 0 0, 0) else (.fin neg man f.low, 0))
  else (.fin neg (2 ^ f.mb + man) (f.low + ex - 1), 0)

/-- VALUE or FIN of an encoding in a format (R128 to R133); an XS8 code denotes no number and reads as 0. -/
def readNum (f : Fmt) (fi : Bool) (e : Nat) : Num × BitVec 7 :=
  match f.kind with
  | .int sgn => (Num.ofInt (if sgn then toSigned f.bits e else ((e % 2 ^ f.bits : Nat) : Int)), 0)
  | .flt g => readF g fi (e % 2 ^ g.width)
  | .ds => (Num.ofInt (dsValue e), 0)
  | .xs => (Num.zero, 0)

/-- An integer encoding as an integer. -/
def readInt (f : Fmt) (e : Nat) : Int :=
  match f.kind with
  | .int true => toSigned f.bits e
  | .int false => ((e % 2 ^ f.bits : Nat) : Int)
  | .ds => dsValue e
  | .flt _ => 0
  | .xs => 0

/-- A block-scaled element with its scale code (R133, R134): code 255 reads a NaN in a floating format, and 0 with NV
in an integer or DS8 format. -/
def readScaled (f : Fmt) (fi : Bool) (e c : Nat) : Num × BitVec 7 :=
  if c = 255 then
    match f.kind with
    | .flt _ => (Num.gen 6, flNV)
    | .int _ => (Num.zero, flNV)
    | .ds => (Num.zero, flNV)
    | .xs => (Num.zero, flNV)
  else
    let (x, fl) := readNum f fi e
    (x.scale ((c : Int) - 127), fl)

/-- The conversion of a number into a format (R136 to R138, R185): into an integer format of a number read from an
integer format (`ints`) by INTC, else by rounding. -/
def encNum (t : Fmt) (rm : Nat) (sat fo ints : Bool) (x : Num) : Nat × BitVec 7 :=
  match t.kind with
  | .flt f => encF f rm sat fo x
  | .int sgn =>
    if ints then
      match x with
      | .fin n m e => intc t.bits sgn sat (signed n (alignTo m e 0))
      | .inf _ => (0, flNV)
      | .nan _ => (0, flNV)
    else encI t.bits sgn rm x
  | .ds => (0, 0)
  | .xs => (0, 0)

/-! ## The index rule -/

/-- The summary of a partial result (R140): the lowest index of a NaN with its payload, of a +∞, of a −∞. -/
structure Summ where
  ni : Option (Nat × W32)
  pi : Option Nat
  mi : Option Nat
  deriving DecidableEq, Repr

def Summ.none : Summ := ⟨.none, .none, .none⟩

/-- SUMM: the summary of a term at an index (R140). -/
def summ (i : Nat) (x : Num) : Summ :=
  match x with
  | .nan p => ⟨some (i, p), .none, .none⟩
  | .inf false => ⟨.none, some i, .none⟩
  | .inf true => ⟨.none, .none, some i⟩
  | .fin _ _ _ => Summ.none

def minOpt : Option Nat → Option Nat → Option Nat
  | some a, some b => some (Nat.min a b)
  | some a, none => some a
  | none, b => b

/-- SJOIN (R140). -/
def sjoin (x y : Summ) : Summ :=
  { ni := match x.ni, y.ni with
      | some a, some b => some (if b.1 < a.1 then b else a)
      | some a, none => some a
      | none, b => b
    pi := minOpt x.pi y.pi
    mi := minOpt x.mi y.mi }

/-- SRESULT (R140): the special result of a sum with its flags; none where the sum is finite. -/
def sresult (s : Summ) : Option (Num × BitVec 7) :=
  let g := match s.pi, s.mi with
    | some a, some b => some (Nat.max a b)
    | _, _ => none
  match s.ni, g with
  | some (i, p), some gi => if i < gi then some (.nan p, 0) else some (Num.gen 1, flNV)
  | some (_, p), none => some (.nan p, 0)
  | none, some _ => some (Num.gen 1, flNV)
  | none, none =>
    if s.pi.isSome then some (.inf false, 0) else if s.mi.isSome then some (.inf true, 0) else none

/-- The summary of terms in index order, the first at index `i`. -/
def summList : Nat → List Num → Summ
  | _, [] => Summ.none
  | i, x :: r => sjoin (summ i x) (summList (i + 1) r)

end Sys2Proof.Machine
end

