-- ==== Sys2Proof/Machine/Flags.lean ====
section
/-!
DEFINITION. The flag computations of element-wise floating arithmetic: special values and rounding (R144, R172, R173,
R179, R180), each with the FLAGS bits that it sets.
-/
namespace Sys2Proof.Machine
open Sys2Proof

/-- A code of one element and the flags that writing it sets. -/
abbrev El := Nat × BitVec 7

/-- The mode bits of an operation: rounding, FI, FO, SAT (R81, R138). -/
structure Mode where
  rm  : Nat
  fi  : Bool
  fo  : Bool
  sat : Bool
  deriving DecidableEq, Repr

/-- A sum under IEEE 754-2019: two +0 give +0 in every rounding direction (R173). -/
def ieeeAdd (rm : Nat) (a b : Num) : Num × BitVec 7 :=
  match a, b with
  | .fin false 0 _, .fin false 0 _ => (.fin false 0 0, 0)
  | _, _ => numAdd (rm == 2) a b

/-- The first NaN of the inputs in the order A, B, D (R173). -/
def firstNaN (xs : List Num) : Option Num := xs.find? Num.isNaN

/-- An element-wise floating operation (R173): the inputs are read through FIN, a NaN input decides, and any other result
is rounded once by ENC. `inv` are the flags that an invalid part of the operation sets beside a NaN input. -/
def floatEl (f : Flt) (md : Mode) (ins : List Nat) (fn : List Num → Num × BitVec 7)
    (inv : List Num → BitVec 7 := fun _ => 0) : El :=
  let rs := ins.map (readF f md.fi)
  let fl := rs.foldl (fun a r => a ||| r.2) 0
  match firstNaN (rs.map (·.1)) with
  | some x =>
    let (c, g) := encF f md.rm md.sat md.fo x
    (c, fl ||| g ||| inv (rs.map (·.1)))
  | none =>
    let (x, g) := fn (rs.map (·.1))
    let (c, h) := encF f md.rm md.sat md.fo x
    (c, fl ||| g ||| h)

/-- An operation on three numbers, of which those an operation does not read are zero. -/
def on3 (fn : Num → Num → Num → Num × BitVec 7) : List Num → Num × BitVec 7
  | [a, b, d] => fn a b d
  | [a, b] => fn a b Num.zero
  | [a] => fn a Num.zero Num.zero
  | _ => (Num.zero, 0)

/-- d + a × b, rounded once (Table 9-2); a − sign for VMSB. -/
def numFma (rm : Nat) (sub : Bool) (a b d : Num) : Num × BitVec 7 :=
  let (q, g) := numMul a b
  match q with
  | .nan p => (.nan p, g)
  | .inf _ => ieeeAdd rm d (if sub then q.negate else q)
  | .fin _ _ _ => ieeeAdd rm d (if sub then q.negate else q)

/-- The product of a multiply-add is invalid, 0 × ∞, although the addend is a NaN (R173). -/
def fmaInv (a b : Num) : BitVec 7 := if a.isNaN ∨ b.isNaN then 0 else (numMul a b).2

/-- The float operations of Table 9-2 that round. -/
inductive FOp where
  | add | sub | mul | mad | msb | div | rcp | rsq | sqrt | avg
  deriving DecidableEq, Repr

def FOp.fn (o : FOp) (rm : Nat) : Num → Num → Num → Num × BitVec 7 :=
  match o with
  | .add => fun a b _ => ieeeAdd rm a b
  | .sub => fun a b _ => ieeeAdd rm a b.negate
  | .mul => fun a b _ => numMul a b
  | .mad => numFma rm false
  | .msb => numFma rm true
  | .div => fun a b _ => numDiv a b
  | .rcp => fun a _ _ => numDiv (Num.ofInt 1) a
  | .rsq => fun a _ _ => numRsq a
  | .sqrt => fun a _ _ => numSqrt a
  | .avg => fun a b _ => ((ieeeAdd rm a b).1.scale (-1), (ieeeAdd rm a b).2)

/-- The number of sources that a float operation reads. -/
def FOp.ins (o : FOp) (a b d : Nat) : List Nat :=
  match o with
  | .add => [a, b] | .sub => [a, b] | .mul => [a, b] | .div => [a, b] | .avg => [a, b]
  | .mad => [a, b, d] | .msb => [a, b, d]
  | .rcp => [a] | .rsq => [a] | .sqrt => [a]

/-- The flags of an operation's invalid part beside a NaN input. -/
def FOp.inv (o : FOp) (xs : List Num) : BitVec 7 :=
  match o, xs with
  | .mad, [a, b, _] => fmaInv a b
  | .msb, [a, b, _] => fmaInv a b
  | _, _ => 0

/-- A float operation of Table 9-2 on one element. -/
def FOp.el (o : FOp) (f : Flt) (md : Mode) (a b d : Nat) : El := floatEl f md (o.ins a b d) (on3 (o.fn md.rm)) o.inv

/-- Order of floats with −0 less than +0 (R173, R141): the sign-magnitude code as an integer. -/
def Flt.order (f : Flt) (e : Nat) : Int :=
  let m : Int := (e % 2 ^ (f.width - 1) : Nat)
  if bitOf e (f.width - 1) then -m - 1 else m

/-- VMIN and VMAX of floats (R173). -/
def floatMinMax (f : Flt) (isMax : Bool) (a b : Nat) : El :=
  let (x, g) := readF f false a
  let (y, h) := readF f false b
  match firstNaN [x, y] with
  | some n => ((encF f 0 false false n).1, g ||| h)
  | none =>
    let aLess := decide (f.order a ≤ f.order b)
    (if aLess != isMax then a else b, 0)

/-- A sum of finite numbers by R141: an exactly zero sum is +0, −0 under toward −∞, or −0 where every term is −0. -/
def sumFin (rm : Nat) : List Num → Num
  | [] => Num.zero
  | x :: r => r.foldl (fun s y => (numAdd (rm == 2) s y).1) x

/-- VREDADD of floats (R179, R144): each partial sum is rounded in index order; specials by R140 and R141. -/
def redAddF (f : Flt) (md : Mode) (terms : List Nat) : El :=
  let rs := terms.map (readF f md.fi)
  let fl := rs.foldl (fun a r => a ||| r.2) 0
  let xs := rs.map (·.1)
  match sresult (summList 0 xs) with
  | some (x, g) =>
    let (c, h) := encF f md.rm md.sat md.fo x
    (c, fl ||| g ||| h)
  | none =>
    match xs with
    | [] => (0, 0)
    | x :: r =>
      let (y, g) := r.foldl (fun (acc : Num × BitVec 7) t =>
        let (c, h) := encF f md.rm md.sat false (numAdd (md.rm == 2) acc.1 t).1
        ((readF f false c).1, acc.2 ||| h)) (x, 0)
      let (c, h) := encF f md.rm md.sat md.fo y
      (c, fl ||| g ||| h)

/-- VREDMAX and VREDMIN of floats (R141, R179): the NaN of lowest index; of equal values the lower index. -/
def redMaxF (f : Flt) (isMax : Bool) (terms : List Nat) : El :=
  let rs := terms.map (readF f false)
  let fl := rs.foldl (fun a r => a ||| r.2) 0
  match firstNaN (rs.map (·.1)) with
  | some n => ((encF f 0 false false n).1, fl)
  | none =>
    match terms with
    | [] => (f.withSign isMax f.infCode, 0)
    | x :: r => (r.foldl (fun b t =>
        if (if isMax then decide (f.order b < f.order t) else decide (f.order t < f.order b)) then t else b) x, fl)

/-- A dot product of exact products and an accumulator term of lowest index, rounded once into F32 (R180). -/
def dotF (md : Mode) (d : Num) (prods : List (Num × BitVec 7)) : El :=
  let xs := d :: prods.map (·.1)
  let fl := prods.foldl (fun a r => a ||| r.2) 0
  let (x, g) := match sresult (summList 0 xs) with
    | some r => r
    | none => (sumFin md.rm xs, 0)
  let (c, h) := encF f32 md.rm md.sat md.fo x
  (c, fl ||| g ||| h)

/-! ## DS8 -/

/-- The two-term form of a magnitude (R189): the first term's code, and the second term's sign and code; the smallest
first exponent. Magnitudes that are 0, a power of two below 128, or 128 have their own forms. -/
def dsForm (v : Nat) : Option (Nat × Bool × Nat) :=
  if v = 0 then some (7, false, 7)
  else if v = 128 then some (6, false, 6)
  else match (List.range 7).find? fun a => 2 ^ a == v with
    | some a => some (a, false, 7)
    | none =>
      ((List.range 7).flatMap fun a => (List.range a).flatMap fun b => [(a, false, b), (a, true, b)]).find? fun x =>
        (if x.2.1 then 2 ^ x.1 - 2 ^ x.2.2 else 2 ^ x.1 + 2 ^ x.2.2) == v

/-- The DS8 byte of a magnitude with a form, with its sign (R189). -/
def dsByte (neg : Bool) (v : Nat) : Nat :=
  match dsForm v with
  | some (a, minus, b) =>
    if v = 0 then 0x77
    else bit01 neg * 128 + a * 16 + (if b = 7 then 7 else bit01 (neg != minus) * 8 + b)
  | none => 0x77

/-- The greatest magnitude with a form at most `n`, and the least at least `n`, for n up to 128. -/
def dsBelow : Nat → Nat
  | 0 => 0
  | n + 1 => if (dsForm (n + 1)).isSome then n + 1 else dsBelow n
def dsAbove (n : Nat) : Nat := ((List.range 129).find? fun v => decide (n ≤ v) && (dsForm v).isSome).getD 128

/-- The conversion of VDSENC (R189). -/
def encDs (x : Num) : El :=
  match x with
  | .nan _ => (0x77, flNV)
  | .inf n => (dsByte n 128, flOF ||| flSA)
  | .fin n m e =>
    let y : Num := .fin false m e
    if numCmp y (Num.ofInt 128) = .gt then (dsByte n 128, flOF ||| flSA)
    else
      let (lowI, ch) := rndi 1 false m e
      let fl := lowI.toNat
      let lo := dsBelow fl
      let hi := dsAbove (if ch then fl + 1 else fl)
      let v := if !ch && (dsForm fl).isSome then fl
        else if numCmp (y.scale 1) (Num.ofInt (lo + hi : Nat)) = .gt then hi else lo
      (dsByte n v, flIf (ch || v != fl) flNX)

end Sys2Proof.Machine
end

