-- ==== Sys2Proof/Machine/Vector.lean ====
section
/-!
DEFINITION. The vector operations of Table 5-11 but conversions: element-wise arithmetic, compares, moves, reductions,
lane movement, mask registers and the mask stack (R169 to R184).

A register is handled as a natural number; element e of width w is its bits [w(e+1)−1 : we] (R129).
-/
namespace Sys2Proof.Machine
open Sys2Proof

/-! ## Elements and lanes -/

/-- Elements of a register at width w (R129). -/
def elems (w : Nat) : Nat := 1024 / w

/-- A register from its elements. -/
def mkReg (w n : Nat) (f : Nat → Nat) : Nat := (List.range n).foldr (fun i a => f i % 2 ^ w + 2 ^ w * a) 0

/-- Element e of width w is active: the mask bit of its lowest byte lane (R170). -/
def actEl (w : Nat) (m : BitVec 128) (e : Nat) : Bool := m.getLsbD (e * w / 8)

/-- The byte lanes of the active elements of width w among the first n. -/
def actLanes (w n : Nat) (m : BitVec 128) : BitVec 128 :=
  let k := Nat.max 1 (w / 8)
  BitVec.ofNat 128 ((List.range 128).foldr (fun j a => bit01 (decide (j < n * w / 8 + (if w = 4 then n % 2 else 0)) &&
    m.getLsbD (j - j % k)) + 2 * a) 0)

/-- The elements of a result with the flags of the active ones: an inactive element is 0 and sets no flag (R122). -/
def mapActive (w n : Nat) (m : BitVec 128) (f : Nat → El) : Nat × BitVec 7 :=
  (List.range n).foldr (fun i (a : Nat × BitVec 7) =>
    if actEl w m i then
      let (c, g) := f i
      (c % 2 ^ w + 2 ^ w * a.1, a.2 ||| g)
    else (2 ^ w * a.1, a.2)) (0, 0)

/-- The slot of a vector unit. -/
def vSlot (u : VUnit) : Nat := match u with | .va => 1 | .vb => 2

/-- RM, FI and FO zero; SAT zero. -/
def noFp (f : Rrr) : Bool := f.rm == 0 && f.fi == 0 && f.fo == 0
def noSat (f : Rrr) : Bool := f.sat == 0

/-- The mode bits of an RRR operation. -/
def modeOf (f : Rrr) : Mode := { rm := f.rm.toNat, fi := f.fi == 1, fo := f.fo == 1, sat := f.sat == 1 }

/-- The element width of an operation's format. -/
def efBits (ef : BitVec 5) : Nat := (fmtD ef.toNat).bits

/-- Registers of the mask that MK names (R122): the stack is no register. -/
def mkSrc (k : BitVec 3) : List Nat := if k = 0 then [] else [k.toNat]

/-- The floating format of an EF in the float group. -/
def fltD (ef : BitVec 5) : Flt := if ef = 0x0D then f16 else if ef = 0x0E then bf16 else f32

/-- A mask operand's number in a 10-bit field, and that its other bits are zero (R182). -/
def mNum (f : BitVec 10) : Nat := f.toNat % 8
def mOk (f : BitVec 10) : Bool := decide (f.toNat < 8)

/-- An element-wise operation on one to three registers under MK (R169, R170, R172): `fn` gives the code of an active
element from the codes of A, B and D. -/
def ewParts (u : VUnit) (op : BitVec 8) (f : Rrr) (zero : Bool) (fmts : Nat → Bool) (min : Nat) (useB useD : Bool)
    (fn : Nat → Nat → Nat → El) : Parts :=
  let w := efBits f.ef
  { slot := vSlot u, word := rrrWord op f
    zeroOk := zero && f.x == 0 && (useB || f.b == 0)
    bad := if fmts f.ef.toNat then none else some 0x04
    latBad := latReg f.lat min
    vregs := [f.d.toNat, f.a.toNat] ++ if useB then [f.b.toNat] else []
    dsts := [.v f.d.toNat]
    srcV := [f.a.toNat] ++ (if useB then [f.b.toNat] else []) ++ if useD then [f.d.toNat] else []
    srcM := mkSrc f.msk
    eff := fun e s =>
      let a := (e.v f.a.toNat).toNat
      let b := (e.v f.b.toNat).toNat
      let d := (e.v f.d.toNat).toNat
      let m := e.c.maskOf f.msk.toNat
      let (r, g) := mapActive w (elems w) m fun i => fn (elemOf w i a) (elemOf w i b) (elemOf w i d)
      writeV s e.ck f.d.toNat (actLanes w (elems w) m) (BitVec.ofNat 1024 r) (bnd f.lat) g }

/-- The minimum of an operation whose float form takes 4 cycles and its integer form 2 (Table 9-1). -/
def min24 (f : Rrr) : Nat := if isFltGrp f.ef.toNat then 4 else 2

/-- The integer group or the float group. -/
def isNumGrp (c : Nat) : Bool := isIntGrp c || isFltGrp c

/-- Arithmetic of Table 9-2 with an integer form by INTC and a float form by ENC: RM, FI and FO only for floats, SAT
only where `satI` or `satF`. -/
def arithParts (u : VUnit) (op : BitVec 8) (f : Rrr) (min : Nat) (useB useD satI satF : Bool)
    (int : Int → Int → Int → Int) (flt : FOp) : Parts :=
  let isF := isFltGrp f.ef.toNat
  let t := fmtD f.ef.toNat
  let sgn := t.kind == .int true
  ewParts u op f ((isF || noFp f) && (noSat f || (if isF then satF else satI))) isNumGrp min useB useD
    fun a b d =>
      if isF then flt.el (fltD f.ef) (modeOf f) a b d
      else intc t.bits sgn (f.sat == 1) (int (readInt t a) (readInt t b) (readInt t d))

/-- An operation on encodings as bit strings, of the formats given (R174). -/
def bitParts (u : VUnit) (op : BitVec 8) (f : Rrr) (fmts : Nat → Bool) (useB : Bool) (fn : Nat → Nat → Nat → Nat) : Parts :=
  ewParts u op f (noFp f && noSat f) fmts 2 useB false fun a b _ => (fn (efBits f.ef) a b, 0)

def isLogic (c : Nat) : Bool := c == 0x01 || c == 0x02 || isIntGrp c
def isAny (c : Nat) : Bool := (fmtOf c).isSome

/-- Population count and leading zeros of the low w bits (Table 9-3). -/
def popN (w n : Nat) : Nat := countTo w fun i => n.testBit i
def clzN (w n : Nat) : Nat := if n = 0 then w else w - 1 - Nat.log2 n

/-- A shift right with copies of the sign bit (Table 9-3). -/
def sraN (w a k : Nat) : Nat := ofSigned w (toSigned w a / (2 ^ k : Nat))

/-- VADD: Element-wise add (R172). -/
def vaddParts (u : VUnit) (f : Rrr) : Parts := arithParts u 0x01 f (min24 f) true false true true (fun a b _ => a + b) .add
def execVadd (p : Pfx) (u : VUnit) (f : Rrr) (s : State) : Out := issueOne p (vaddParts u f) s

/-- VSUB: Element-wise subtract (R172). -/
def vsubParts (u : VUnit) (f : Rrr) : Parts := arithParts u 0x02 f (min24 f) true false true true (fun a b _ => a - b) .sub
def execVsub (p : Pfx) (u : VUnit) (f : Rrr) (s : State) : Out := issueOne p (vsubParts u f) s

/-- VMUL: Element-wise multiply (R172). -/
def vmulParts (u : VUnit) (f : Rrr) : Parts := arithParts u 0x03 f 4 true false true true (fun a b _ => a * b) .mul
def execVmul (p : Pfx) (u : VUnit) (f : Rrr) (s : State) : Out := issueOne p (vmulParts u f) s

/-- VMULH: High half of the integer element product (R172). -/
def vmulhParts (u : VUnit) (f : Rrr) : Parts :=
  ewParts u 0x04 f (noFp f && noSat f) isIntGrp 4 true false fun a b _ =>
    let t := fmtD f.ef.toNat
    (ofSigned t.bits (readInt t a * readInt t b / (2 ^ t.bits : Nat)), 0)
def execVmulh (p : Pfx) (u : VUnit) (f : Rrr) (s : State) : Out := issueOne p (vmulhParts u f) s

/-- VMAD: d + a × b, rounded once (R172). -/
def vmadParts (u : VUnit) (f : Rrr) : Parts := arithParts u 0x05 f 4 true true true true (fun a b d => d + a * b) .mad
def execVmad (p : Pfx) (u : VUnit) (f : Rrr) (s : State) : Out := issueOne p (vmadParts u f) s

/-- VMSB: d − a × b, rounded once (R172). -/
def vmsbParts (u : VUnit) (f : Rrr) : Parts := arithParts u 0x06 f 4 true true true true (fun a b d => d - a * b) .msb
def execVmsb (p : Pfx) (u : VUnit) (f : Rrr) (s : State) : Out := issueOne p (vmsbParts u f) s

/-- VDIV: Float element divide, in VB only (R172). -/
def vdivParts (f : Rrr) : Parts :=
  ewParts .vb 0x07 f true isFltGrp 24 true false (FOp.div.el (fltD f.ef) (modeOf f))
def execVdiv (p : Pfx) (f : Rrr) (s : State) : Out := issueOne p (vdivParts f) s

/-- VRCP: Float reciprocal (R172). -/
def vrcpParts (u : VUnit) (f : Rrr) : Parts :=
  ewParts u 0x08 f true isFltGrp 8 false false (FOp.rcp.el (fltD f.ef) (modeOf f))
def execVrcp (p : Pfx) (u : VUnit) (f : Rrr) (s : State) : Out := issueOne p (vrcpParts u f) s

/-- VRSQ: Float reciprocal square root (R172). -/
def vrsqParts (u : VUnit) (f : Rrr) : Parts :=
  ewParts u 0x09 f true isFltGrp 8 false false (FOp.rsq.el (fltD f.ef) (modeOf f))
def execVrsq (p : Pfx) (u : VUnit) (f : Rrr) (s : State) : Out := issueOne p (vrsqParts u f) s

/-- VSQRT: Float square root (R172). -/
def vsqrtParts (u : VUnit) (f : Rrr) : Parts :=
  ewParts u 0x0A f true isFltGrp 24 false false (FOp.sqrt.el (fltD f.ef) (modeOf f))
def execVsqrt (p : Pfx) (u : VUnit) (f : Rrr) (s : State) : Out := issueOne p (vsqrtParts u f) s

/-- VMIN: Element minimum (R173). -/
def vminParts (u : VUnit) (f : Rrr) : Parts :=
  ewParts u 0x0B f (noFp f && noSat f) isNumGrp 2 true false fun a b _ =>
    if isFltGrp f.ef.toNat then floatMinMax (fltD f.ef) false a b
    else
      let t := fmtD f.ef.toNat
      (if decide (readInt t a ≤ readInt t b) != false then a else b, 0)
def execVmin (p : Pfx) (u : VUnit) (f : Rrr) (s : State) : Out := issueOne p (vminParts u f) s

/-- VMAX: Element maximum (R173). -/
def vmaxParts (u : VUnit) (f : Rrr) : Parts :=
  ewParts u 0x0C f (noFp f && noSat f) isNumGrp 2 true false fun a b _ =>
    if isFltGrp f.ef.toNat then floatMinMax (fltD f.ef) true a b
    else
      let t := fmtD f.ef.toNat
      (if decide (readInt t a ≤ readInt t b) != true then a else b, 0)
def execVmax (p : Pfx) (u : VUnit) (f : Rrr) (s : State) : Out := issueOne p (vmaxParts u f) s

/-- VABS: Element absolute value (R172). -/
def vabsParts (u : VUnit) (f : Rrr) : Parts :=
  ewParts u 0x0D f (noFp f && (noSat f || !isFltGrp f.ef.toNat)) isNumGrp 2 false false fun a _ _ =>
    let t := fmtD f.ef.toNat
    if isFltGrp f.ef.toNat then (a % 2 ^ (t.bits - 1), 0)
    else intc t.bits (t.kind == .int true) (f.sat == 1) ((readInt t a).natAbs)
def execVabs (p : Pfx) (u : VUnit) (f : Rrr) (s : State) : Out := issueOne p (vabsParts u f) s

/-- VNEG: Element negation (R172). -/
def vnegParts (u : VUnit) (f : Rrr) : Parts :=
  ewParts u 0x0E f (noFp f && (noSat f || !isFltGrp f.ef.toNat)) isNumGrp 2 false false fun a _ _ =>
    let t := fmtD f.ef.toNat
    if isFltGrp f.ef.toNat then (a ^^^ 2 ^ (t.bits - 1), 0)
    else intc t.bits (t.kind == .int true) (f.sat == 1) (-(readInt t a))
def execVneg (p : Pfx) (u : VUnit) (f : Rrr) (s : State) : Out := issueOne p (vnegParts u f) s

/-- VAVG: Element average (R172). -/
def vavgParts (u : VUnit) (f : Rrr) : Parts :=
  ewParts u 0x0F f (noSat f && (isFltGrp f.ef.toNat || noFp f)) isNumGrp (min24 f) true false fun a b d =>
    let t := fmtD f.ef.toNat
    if isFltGrp f.ef.toNat then FOp.avg.el (fltD f.ef) (modeOf f) a b d
    else (ofSigned t.bits ((readInt t a + readInt t b + 1) / 2), 0)
def execVavg (p : Pfx) (u : VUnit) (f : Rrr) (s : State) : Out := issueOne p (vavgParts u f) s

/-- VAND: Element AND (R174). -/
def vandParts (u : VUnit) (f : Rrr) : Parts := bitParts u 0x10 f isLogic true (fun _ a b => a &&& b)
def execVand (p : Pfx) (u : VUnit) (f : Rrr) (s : State) : Out := issueOne p (vandParts u f) s

/-- VOR: Element OR (R174). -/
def vorParts (u : VUnit) (f : Rrr) : Parts := bitParts u 0x11 f isLogic true (fun _ a b => a ||| b)
def execVor (p : Pfx) (u : VUnit) (f : Rrr) (s : State) : Out := issueOne p (vorParts u f) s

/-- VXOR: Element XOR (R174). -/
def vxorParts (u : VUnit) (f : Rrr) : Parts := bitParts u 0x12 f isLogic true (fun _ a b => a ^^^ b)
def execVxor (p : Pfx) (u : VUnit) (f : Rrr) (s : State) : Out := issueOne p (vxorParts u f) s

/-- VANDN: Element a AND NOT b (R174). -/
def vandnParts (u : VUnit) (f : Rrr) : Parts := bitParts u 0x13 f isLogic true (fun w a b => a &&& (2 ^ w - 1 - b))
def execVandn (p : Pfx) (u : VUnit) (f : Rrr) (s : State) : Out := issueOne p (vandnParts u f) s

/-- VSHL: Element shift left (R174). -/
def vshlParts (u : VUnit) (f : Rrr) : Parts := bitParts u 0x14 f isIntGrp true (fun w a b => a * 2 ^ (b % w))
def execVshl (p : Pfx) (u : VUnit) (f : Rrr) (s : State) : Out := issueOne p (vshlParts u f) s

/-- VSHR: Element logical shift right (R174). -/
def vshrParts (u : VUnit) (f : Rrr) : Parts := bitParts u 0x15 f isIntGrp true (fun w a b => a / 2 ^ (b % w))
def execVshr (p : Pfx) (u : VUnit) (f : Rrr) (s : State) : Out := issueOne p (vshrParts u f) s

/-- VSRA: Element arithmetic shift right (R174). -/
def vsraParts (u : VUnit) (f : Rrr) : Parts := bitParts u 0x16 f isIntGrp true (fun w a b => sraN w a (b % w))
def execVsra (p : Pfx) (u : VUnit) (f : Rrr) (s : State) : Out := issueOne p (vsraParts u f) s

/-- VPOPC: Element population count (R174). -/
def vpopcParts (u : VUnit) (f : Rrr) : Parts := bitParts u 0x17 f isIntGrp false (fun w a _ => popN w a)
def execVpopc (p : Pfx) (u : VUnit) (f : Rrr) (s : State) : Out := issueOne p (vpopcParts u f) s

/-- VCLZ: Element leading-zero count (R174). -/
def vclzParts (u : VUnit) (f : Rrr) : Parts := bitParts u 0x18 f isIntGrp false (fun w a _ => clzN w a)
def execVclz (p : Pfx) (u : VUnit) (f : Rrr) (s : State) : Out := issueOne p (vclzParts u f) s

/-! ## Compares -/

/-- What a compare asks (R175). -/
inductive Cmp where | eq | ne | lt | le | un
  deriving DecidableEq, Repr

def Cmp.int (c : Cmp) (a b : Int) : Bool :=
  match c with
  | .eq => decide (a = b)
  | .ne => decide (a ≠ b)
  | .lt => decide (a < b)
  | .le => decide (a ≤ b)
  | .un => false

/-- A float compare, with NV where R175 sets it; VCUN reads a signalling NaN as every operation does (R131). -/
def Cmp.flt (c : Cmp) (f : Flt) (a b : Nat) : Bool × BitVec 7 :=
  let (x, g) := readF f false a
  let (y, h) := readF f false b
  if x.isNaN || y.isNaN then
    match c with
    | .eq => (false, g ||| h)
    | .ne => (true, g ||| h)
    | .lt => (false, flNV)
    | .le => (false, flNV)
    | .un => (true, g ||| h)
  else
    match c with
    | .eq => (numCmp x y == .eq, 0)
    | .ne => (numCmp x y != .eq, 0)
    | .lt => (numCmp x y == .lt, 0)
    | .le => (numCmp x y != .gt, 0)
    | .un => (false, 0)

/-- A compare (R175): every byte-lane bit of an active element takes the outcome. -/
def cmpParts (u : VUnit) (op : BitVec 8) (f : Rrr) (fmts : Nat → Bool) (c : Cmp) : Parts :=
  let t := fmtD f.ef.toNat
  let w := t.bits
  let k := Nat.max 1 (w / 8)
  { slot := vSlot u, word := rrrWord op f
    zeroOk := noFp f && noSat f && f.x == 0 && mOk f.d
    bad := if !fmts f.ef.toNat then some 0x04 else if mNum f.d = 0 then some 0x01 else none
    latBad := latReg f.lat 2
    vregs := [f.a.toNat, f.b.toNat]
    dsts := [.m (mNum f.d)]
    srcV := [f.a.toNat, f.b.toNat]
    srcM := mkSrc f.msk
    eff := fun e s =>
      let a := (e.v f.a.toNat).toNat
      let b := (e.v f.b.toNat).toNat
      let m := e.c.maskOf f.msk.toNat
      let (r, g) := mapActive w (elems w) m fun i =>
        let x := elemOf w i a
        let y := elemOf w i b
        if isFltGrp f.ef.toNat then
          let (q, h) := c.flt (fltD f.ef) x y
          (bit01 q, h)
        else (bit01 (c.int (readInt t x) (readInt t y)), 0)
      let bits := BitVec.ofNat 128 ((List.range (elems w)).foldr (fun i z =>
        elemOf w i r * (2 ^ k - 1) + 2 ^ k * z) 0)
      writeM s e.ck (mNum f.d) (actLanes w (elems w) m) bits (bnd f.lat) g }

/-- VCEQ: Compares for equality into a mask register (R175). -/
def vceqParts (u : VUnit) (f : Rrr) : Parts := cmpParts u 0x19 f isNumGrp .eq
def execVceq (p : Pfx) (u : VUnit) (f : Rrr) (s : State) : Out := issueOne p (vceqParts u f) s

/-- VCNE: Compares for inequality into a mask register (R175). -/
def vcneParts (u : VUnit) (f : Rrr) : Parts := cmpParts u 0x1A f isNumGrp .ne
def execVcne (p : Pfx) (u : VUnit) (f : Rrr) (s : State) : Out := issueOne p (vcneParts u f) s

/-- VCLT: Compares less-than into a mask register (R175). -/
def vcltParts (u : VUnit) (f : Rrr) : Parts := cmpParts u 0x1B f isNumGrp .lt
def execVclt (p : Pfx) (u : VUnit) (f : Rrr) (s : State) : Out := issueOne p (vcltParts u f) s

/-- VCLE: Compares less-or-equal into a mask register (R175). -/
def vcleParts (u : VUnit) (f : Rrr) : Parts := cmpParts u 0x1C f isNumGrp .le
def execVcle (p : Pfx) (u : VUnit) (f : Rrr) (s : State) : Out := issueOne p (vcleParts u f) s

/-- VCUN: Compares unordered into a mask register (R175). -/
def vcunParts (u : VUnit) (f : Rrr) : Parts := cmpParts u 0x1D f isFltGrp .un
def execVcun (p : Pfx) (u : VUnit) (f : Rrr) (s : State) : Out := issueOne p (vcunParts u f) s

/-! ## Select, move and scalar access -/

/-- VSEL: Selects A or B per selector lane (R176). -/
def vselParts (u : VUnit) (f : Rrr) : Parts :=
  { ewParts u 0x1E { f with x := 0 } (noFp f && noSat f && f.x.toNat < 8) isAny 2 true false (fun a _ _ => (a, 0)) with
    word := rrrWord 0x1E f
    srcM := mkSrc f.msk ++ mkSrc (f.x.setWidth 3)
    eff := fun e s =>
      let w := efBits f.ef
      let a := (e.v f.a.toNat).toNat
      let b := (e.v f.b.toNat).toNat
      let m := e.c.maskOf f.msk.toNat
      let sel := e.c.maskOf (f.x.toNat % 8)
      writeV s e.ck f.d.toNat (actLanes w (elems w) m)
        (BitVec.ofNat 1024 (mkReg w (elems w) fun i => if actEl w sel i then elemOf w i a else elemOf w i b))
        (bnd f.lat) 0 }
def execVsel (p : Pfx) (u : VUnit) (f : Rrr) (s : State) : Out := issueOne p (vselParts u f) s

/-- VMOV: Moves encodings into active elements (R176). -/
def vmovParts (u : VUnit) (f : Rrr) : Parts := ewParts u 0x1F f (noFp f && noSat f) isAny 2 false false fun a _ _ => (a, 0)
def execVmov (p : Pfx) (u : VUnit) (f : Rrr) (s : State) : Out := issueOne p (vmovParts u f) s

/-- An RI operation on the elements of A, governed by the top of the mask stack (R170, R177). -/
def vriParts (u : VUnit) (op : BitVec 8) (f : Ri) (zero : Bool) (fmts : Nat → Bool) (bad : Option Nat) (useA : Bool)
    (fn : Nat → El) : Parts :=
  let w := efBits f.ef
  { slot := vSlot u, word := riWord op f
    zeroOk := zero && f.rm == 0 && f.fi == 0 && f.fo == 0 && (useA || f.a == 0)
    bad := if fmts f.ef.toNat then bad else some 0x04
    latBad := latReg f.lat 2
    vregs := [f.d.toNat] ++ if useA then [f.a.toNat] else []
    dsts := [.v f.d.toNat]
    srcV := if useA then [f.a.toNat] else []
    eff := fun e s =>
      let a := (e.v f.a.toNat).toNat
      let m := e.c.maskOf 0
      let (r, g) := mapActive w (elems w) m fun i => fn (elemOf w i a)
      writeV s e.ck f.d.toNat (actLanes w (elems w) m) (BitVec.ofNat 1024 r) (bnd f.lat) g }

/-- A shift by an immediate below the width (Table 9-4). -/
def vshiParts (u : VUnit) (op : BitVec 8) (f : Ri) (fn : Nat → Nat → Nat → Nat) : Parts :=
  vriParts u op f (f.sat == 0 && decide (f.imm.toNat < 64)) isIntGrp
    (if efBits f.ef ≤ f.imm.toNat then some 0x01 else none) true
    fun a => (fn (efBits f.ef) a f.imm.toNat, 0)

/-- VADDI: Adds a signed immediate to elements (R177). -/
def vaddiParts (u : VUnit) (f : Ri) : Parts :=
  vriParts u 0x20 f true isIntGrp none true fun a =>
    let t := fmtD f.ef.toNat
    intc t.bits (t.kind == .int true) (f.sat == 1) (readInt t a + immSgn f)
def execVaddi (p : Pfx) (u : VUnit) (f : Ri) (s : State) : Out := issueOne p (vaddiParts u f) s

/-- VSHLI: Shifts elements left by an immediate (R177). -/
def vshliParts (u : VUnit) (f : Ri) : Parts := vshiParts u 0x21 f fun _ a k => a * 2 ^ k
def execVshli (p : Pfx) (u : VUnit) (f : Ri) (s : State) : Out := issueOne p (vshliParts u f) s

/-- VSHRI: Shifts elements right logically by an immediate (R177). -/
def vshriParts (u : VUnit) (f : Ri) : Parts := vshiParts u 0x22 f fun _ a k => a / 2 ^ k
def execVshri (p : Pfx) (u : VUnit) (f : Ri) (s : State) : Out := issueOne p (vshriParts u f) s

/-- VSRAI: Shifts elements right arithmetically by an immediate (R177). -/
def vsraiParts (u : VUnit) (f : Ri) : Parts := vshiParts u 0x23 f sraN
def execVsrai (p : Pfx) (u : VUnit) (f : Ri) (s : State) : Out := issueOne p (vsraiParts u f) s

/-- VANDI: ANDs elements with an immediate (R177). -/
def vandiParts (u : VUnit) (f : Ri) : Parts :=
  vriParts u 0x24 f (f.sat == 0) isLogic none true fun a => (a &&& ofSigned (efBits f.ef) (immSgn f), 0)
def execVandi (p : Pfx) (u : VUnit) (f : Ri) (s : State) : Out := issueOne p (vandiParts u f) s

/-- VSPLATI: Writes an immediate into every active element (R177). -/
def vsplatiParts (u : VUnit) (f : Ri) : Parts :=
  vriParts u 0x26 f (f.sat == 0) isAny none false fun _ => (ofSigned (efBits f.ef) (immSgn f), 0)
def execVsplati (p : Pfx) (u : VUnit) (f : Ri) (s : State) : Out := issueOne p (vsplatiParts u f) s

/-- VSPLAT: Writes a scalar into every active element (R178). -/
def vsplatParts (u : VUnit) (f : Rrr) : Parts :=
  let w := efBits f.ef
  { slot := vSlot u, word := rrrWord 0x25 f
    zeroOk := noFp f && noSat f && f.b == 0 && f.x == 0 && s6Ok f.a
    bad := if isAny f.ef.toNat then none else some 0x04
    latBad := latReg f.lat 2
    vregs := [f.d.toNat]
    dsts := [.v f.d.toNat]
    srcS := [s6 f.a]
    srcM := mkSrc f.msk
    eff := fun e s => writeV s e.ck f.d.toNat (actLanes w (elems w) (e.c.maskOf f.msk.toNat))
      (BitVec.ofNat 1024 (mkReg w (elems w) fun _ => (e.s (s6 f.a)).toNat)) (bnd f.lat) 0 }
def execVsplat (p : Pfx) (u : VUnit) (f : Rrr) (s : State) : Out := issueOne p (vsplatParts u f) s

/-- VEXT: Extracts one element into a scalar register (R178). -/
def vextParts (u : VUnit) (f : Rrr) : Parts :=
  let t := fmtD f.ef.toNat
  { slot := vSlot u, word := rrrWord 0x27 f
    zeroOk := noFp f && noSat f && f.msk == 0 && f.x == 0 && s6Ok f.d && s6Ok f.b
    bad := if isAny f.ef.toNat then none else some 0x04
    latBad := latReg f.lat 2
    vregs := [f.a.toNat]
    dsts := [.s (s6 f.d)]
    srcS := [s6 f.b]
    srcV := [f.a.toNat]
    eff := fun e s =>
      let n := elems t.bits
      let x := elemOf t.bits ((e.s (s6 f.b)).toNat % n) (e.v f.a.toNat).toNat
      let v := if t.kind = .int true ∧ !t.block then ofSigned 64 (toSigned t.bits x) else x
      writeS s e.ck (s6 f.d) (BitVec.ofNat 64 v) (bnd f.lat) }
def execVext (p : Pfx) (u : VUnit) (f : Rrr) (s : State) : Out := issueOne p (vextParts u f) s

/-- VINS: Inserts a scalar into one element (R178). -/
def vinsParts (u : VUnit) (f : Rrr) : Parts :=
  let w := efBits f.ef
  { slot := vSlot u, word := rrrWord 0x28 f
    zeroOk := noFp f && noSat f && f.msk == 0 && f.x == 0 && s6Ok f.a && s6Ok f.b
    bad := if isAny f.ef.toNat then none else some 0x04
    latBad := latReg f.lat 2
    vregs := [f.d.toNat]
    dsts := [.v f.d.toNat]
    srcS := [s6 f.a, s6 f.b]
    srcV := [f.d.toNat]
    eff := fun e s =>
      let d := (e.v f.d.toNat).toNat
      let k := (e.s (s6 f.b)).toNat % elems w
      writeV s e.ck f.d.toNat laneV
        (BitVec.ofNat 1024 (mkReg w (elems w) fun i => if i = k then (e.s (s6 f.a)).toNat else elemOf w i d))
        (bnd f.lat) 0 }
def execVins (p : Pfx) (u : VUnit) (f : Rrr) (s : State) : Out := issueOne p (vinsParts u f) s

/-! ## Reductions -/

/-- The terms of a reduction in index order (R179): with ACC element 0 of D first, then the active elements of A. -/
def redTerms (e : Env) (f : Rrr) (w : Nat) : List Nat :=
  let a := (e.v f.a.toNat).toNat
  let m := e.c.maskOf f.msk.toNat
  let act := ((List.range (elems w)).filter (actEl w m)).map fun i => elemOf w i a
  if f.x.getLsbD 0 then elemOf w 0 (e.v f.d.toNat).toNat :: act else act

/-- A reduction (R179): the result goes to element 0 of D; a lone accumulator term is unchanged. -/
def redParts (u : VUnit) (op : BitVec 8) (f : Rrr) (zero : Bool) (fmts : Nat → Bool) (fn : List Nat → El) : Parts :=
  let w := efBits f.ef
  { slot := vSlot u, word := rrrWord op f
    zeroOk := zero && f.b == 0 && decide (f.x.toNat < 2)
    bad := if fmts f.ef.toNat then none else some 0x04
    latBad := latReg f.lat 12
    vregs := [f.d.toNat, f.a.toNat]
    dsts := [.v f.d.toNat]
    srcV := [f.a.toNat] ++ if f.x.getLsbD 0 then [f.d.toNat] else []
    srcM := mkSrc f.msk
    eff := fun e s =>
      let ts := redTerms e f w
      let (r, g) := if f.x.getLsbD 0 ∧ ts.length = 1 then (ts.headD 0, 0) else fn ts
      let d := (e.v f.d.toNat).toNat
      let v := if w = 4 then d % 256 / 16 * 16 + r % 16 else r
      writeV s e.ck f.d.toNat (BitVec.ofNat 128 (2 ^ Nat.max 1 (w / 8) - 1)) (BitVec.ofNat 1024 v) (bnd f.lat) g }

/-- The terms as integers. -/
def intTerms (f : Rrr) (ts : List Nat) : List Int := ts.map (readInt (fmtD f.ef.toNat))

/-- The largest or smallest of integers, the format's own bound where there is none. -/
def intExt (f : Rrr) (isMax : Bool) (ts : List Nat) : El :=
  let t := fmtD f.ef.toNat
  let sgn := t.kind == .int true
  let o := if isMax then intMin t.bits sgn else intMax t.bits sgn
  (ofSigned t.bits ((intTerms f ts).foldl (fun a b => if isMax then max a b else min a b) o), 0)

/-- VREDADD: Sum reduction into element 0 (R179). -/
def vredaddParts (u : VUnit) (f : Rrr) : Parts :=
  redParts u 0x30 f (isFltGrp f.ef.toNat || noFp f) isNumGrp fun ts =>
    let t := fmtD f.ef.toNat
    if isFltGrp f.ef.toNat then redAddF (fltD f.ef) (modeOf f) ts
    else intc t.bits (t.kind == .int true) (f.sat == 1) ((intTerms f ts).foldl (· + ·) 0)
def execVredadd (p : Pfx) (u : VUnit) (f : Rrr) (s : State) : Out := issueOne p (vredaddParts u f) s

/-- VREDMAX: Maximum reduction (R179). -/
def vredmaxParts (u : VUnit) (f : Rrr) : Parts :=
  redParts u 0x31 f (noFp f && noSat f) isNumGrp fun ts =>
    if isFltGrp f.ef.toNat then redMaxF (fltD f.ef) true ts else intExt f true ts
def execVredmax (p : Pfx) (u : VUnit) (f : Rrr) (s : State) : Out := issueOne p (vredmaxParts u f) s

/-- VREDMIN: Minimum reduction (R179). -/
def vredminParts (u : VUnit) (f : Rrr) : Parts :=
  redParts u 0x32 f (noFp f && noSat f) isNumGrp fun ts =>
    if isFltGrp f.ef.toNat then redMaxF (fltD f.ef) false ts else intExt f false ts
def execVredmin (p : Pfx) (u : VUnit) (f : Rrr) (s : State) : Out := issueOne p (vredminParts u f) s

/-- VREDAND: AND reduction (R179). -/
def vredandParts (u : VUnit) (f : Rrr) : Parts :=
  redParts u 0x33 f (noFp f && noSat f) isLogic fun ts => (ts.foldl (· &&& ·) (2 ^ efBits f.ef - 1), 0)
def execVredand (p : Pfx) (u : VUnit) (f : Rrr) (s : State) : Out := issueOne p (vredandParts u f) s

/-- VREDOR: OR reduction (R179). -/
def vredorParts (u : VUnit) (f : Rrr) : Parts :=
  redParts u 0x34 f (noFp f && noSat f) isLogic fun ts => (ts.foldl (· ||| ·) 0, 0)
def execVredor (p : Pfx) (u : VUnit) (f : Rrr) (s : State) : Out := issueOne p (vredorParts u f) s

/-- VDOT4: Dot products of groups of four, accumulated into D (R180). -/
def vdot4Parts (u : VUnit) (f : Rrr) : Parts :=
  let t := fmtD f.ef.toNat
  let w := t.bits
  let dw := if w = 8 then 32 else if f.ef = 0x0B then 64 else 32
  let n := if w = 8 then 32 else 16
  let isF := isFltGrp f.ef.toNat
  { ewParts u 0x35 f (isF || noFp f) (fun c => [0x04, 0x05, 0x0B, 0x0D, 0x0E].contains c) 8 true true (fun a _ _ => (a, 0)) with
    eff := fun e s =>
      let a := (e.v f.a.toNat).toNat
      let b := (e.v f.b.toNat).toNat
      let d := (e.v f.d.toNat).toNat
      let m := e.c.maskOf f.msk.toNat
      let (r, g) := mapActive dw n m fun i =>
        let el := fun j : Nat => (elemOf w (4 * i + j) a, elemOf w (4 * i + j) b)
        if isF then
          let rd := readF f32 false (elemOf 32 i d)
          let prods := (List.range 4).map fun j =>
            let x := readF (fltD f.ef) (f.fi == 1) (el j).1
            let y := readF (fltD f.ef) (f.fi == 1) (el j).2
            let q := numMul x.1 y.1
            (q.1, q.2 ||| x.2 ||| y.2)
          let q := dotF (modeOf f) rd.1 prods
          (q.1, q.2 ||| rd.2)
        else
          intc dw true (f.sat == 1) ((List.range 4).foldl (fun z j => z + readInt t (el j).1 * readInt t (el j).2)
            (toSigned dw (elemOf dw i d)))
      writeV s e.ck f.d.toNat (actLanes dw n m) (BitVec.ofNat 1024 r) (bnd f.lat) g }
def execVdot4 (p : Pfx) (u : VUnit) (f : Rrr) (s : State) : Out := issueOne p (vdot4Parts u f) s

/-! ## Lane movement -/

/-- A lane movement (R181): `pick` says which element of A (false) or B (true) element e receives, none for zero. `sB`:
B is a scalar register. -/
def lmParts (u : VUnit) (op : BitVec 8) (f : Rrr) (fmts : Nat → Bool) (xOk sB : Bool)
    (pick : Env → Nat → Nat → Nat → Option (Bool × Nat)) : Parts :=
  let w := efBits f.ef
  { slot := vSlot u, word := rrrWord op f
    zeroOk := noFp f && noSat f && xOk && (!sB || s6Ok f.b)
    bad := if fmts f.ef.toNat then none else some 0x04
    latBad := latReg f.lat 4
    vregs := [f.d.toNat, f.a.toNat] ++ if sB then [] else [f.b.toNat]
    dsts := [.v f.d.toNat]
    srcS := if sB then [s6 f.b] else []
    srcV := [f.a.toNat] ++ if sB then [] else [f.b.toNat]
    srcM := mkSrc f.msk
    eff := fun e s =>
      let a := (e.v f.a.toNat).toNat
      let b := (e.v f.b.toNat).toNat
      writeV s e.ck f.d.toNat (actLanes w (elems w) (e.c.maskOf f.msk.toNat))
        (BitVec.ofNat 1024 (mkReg w (elems w) fun i =>
          match pick e (elems w) i (elemOf w i b) with
          | some (false, j) => elemOf w j a
          | some (true, j) => elemOf w j b
          | none => 0)) (bnd f.lat) 0 }

/-- S[B] read signed. -/
def sgnB (e : Env) (f : Rrr) : Int := (e.s (s6 f.b)).toInt

/-- VSHUF: Permutes elements by indices (R181). -/
def vshufParts (u : VUnit) (f : Rrr) : Parts :=
  lmParts u 0x38 f (fun c => isAny c && decide (8 ≤ (fmtD c).bits)) (f.x == 0) false fun _ n _ b => some (false, b % n)
def execVshuf (p : Pfx) (u : VUnit) (f : Rrr) (s : State) : Out := issueOne p (vshufParts u f) s

/-- VSLIDE: Slides elements by a signed count (R181). -/
def vslideParts (u : VUnit) (f : Rrr) : Parts :=
  lmParts u 0x39 f isAny (f.x == 0) true fun e n i _ =>
    let j := (i : Int) + sgnB e f
    if 0 ≤ j ∧ j < n then some (false, j.toNat) else none
def execVslide (p : Pfx) (u : VUnit) (f : Rrr) (s : State) : Out := issueOne p (vslideParts u f) s

/-- VROTL: Rotates elements (R181). -/
def vrotlParts (u : VUnit) (f : Rrr) : Parts :=
  lmParts u 0x3A f isAny (f.x == 0) true fun e n i _ => some (false, (((i : Int) - sgnB e f) % n).toNat)
def execVrotl (p : Pfx) (u : VUnit) (f : Rrr) (s : State) : Out := issueOne p (vrotlParts u f) s

/-- VZIP: Interleaves two registers (R181). -/
def vzipParts (u : VUnit) (f : Rrr) : Parts :=
  lmParts u 0x3B f isAny (decide (f.x.toNat < 2)) false fun _ n i _ => some (i % 2 == 1, i / 2 + f.x.toNat * (n / 2))
def execVzip (p : Pfx) (u : VUnit) (f : Rrr) (s : State) : Out := issueOne p (vzipParts u f) s

/-- VUNZIP: De-interleaves two registers (R181). -/
def vunzipParts (u : VUnit) (f : Rrr) : Parts :=
  lmParts u 0x3C f isAny (decide (f.x.toNat < 2)) false fun _ n i _ =>
    some (if i < n / 2 then (false, 2 * i + f.x.toNat) else (true, 2 * (i - n / 2) + f.x.toNat))
def execVunzip (p : Pfx) (u : VUnit) (f : Rrr) (s : State) : Out := issueOne p (vunzipParts u f) s

/-! ## Mask registers and the mask stack -/

/-- A stack operation (R183): it writes no register; `act` gives the stack that the next bundle sees. -/
def stackParts (op : BitVec 8) (f : Rrr) (zero : Bool) (src : List Nat) (fault : Ctx → Option Nat)
    (act : Ctx → List (BitVec 128)) : Parts :=
  { slot := 1, word := rrrWord op f
    zeroOk := noFp f && noSat f && f.msk == 0 && zero && f.d == 0 && f.b == 0
    bad := if f.ef = 0 then none else some 0x04
    latBad := latNone f.lat
    srcM := src
    fault := fun e => (fault e.c).map fun c => (c, rrrWord op f)
    eff := fun e s => s.modCtx e.ck fun c => { c with mstack := act e.c } }

/-- A mask-register operation (R184): all 128 lanes, not masked. -/
def maskParts (op : BitVec 8) (f : Rrr) (useB : Bool) (fn : BitVec 128 → BitVec 128 → BitVec 128) : Parts :=
  { slot := 1, word := rrrWord op f
    zeroOk := noFp f && noSat f && f.msk == 0 && f.x == 0 && mOk f.d && mOk f.a && mOk f.b && (useB || f.b == 0)
    bad := if f.ef ≠ 0 then some 0x04 else if mNum f.d = 0 then some 0x01 else none
    latBad := latReg f.lat 1
    dsts := [.m (mNum f.d)]
    srcM := [mNum f.a, mNum f.b].filter (· ≠ 0)
    eff := fun e s => writeM s e.ck (mNum f.d) laneM (fn (e.c.maskOf (mNum f.a)) (e.c.maskOf (mNum f.b))) (bnd f.lat) 0 }

/-- MPUSH: Pushes a mask onto the mask stack (R183). -/
def mpushParts (f : Rrr) : Parts :=
  stackParts 0x40 f (mOk f.a && decide (f.x.toNat < 2)) (if mNum f.a = 0 then [] else [mNum f.a])
    (fun c => if 16 ≤ c.mstack.length then some 0x0C else none)
    fun c => (if f.x = 1 then c.maskOf (mNum f.a) else c.maskOf 0 &&& c.maskOf (mNum f.a)) :: c.mstack
def execMpush (p : Pfx) (f : Rrr) (s : State) : Out := issueOne p (mpushParts f) s

/-- MINV: Inverts the top of the mask stack within the entry below (R183). -/
def minvParts (f : Rrr) : Parts :=
  stackParts 0x41 f (f.a == 0 && f.x == 0) [] (fun c => if c.mstack.isEmpty then some 0x0D else none)
    fun c => match c.mstack with
      | [] => []
      | t :: r => ((r.headD (BitVec.allOnes 128)) &&& ~~~t) :: r
def execMinv (p : Pfx) (f : Rrr) (s : State) : Out := issueOne p (minvParts f) s

/-- MPOP: Pops the mask stack (R183). -/
def mpopParts (f : Rrr) : Parts :=
  stackParts 0x42 f (f.a == 0 && f.x == 0) [] (fun c => if c.mstack.isEmpty then some 0x0D else none)
    fun c => c.mstack.drop 1
def execMpop (p : Pfx) (f : Rrr) (s : State) : Out := issueOne p (mpopParts f) s

/-- MAND: ANDs two masks (R184). -/
def mandParts (f : Rrr) : Parts := maskParts 0x43 f true fun a b => a &&& b
def execMand (p : Pfx) (f : Rrr) (s : State) : Out := issueOne p (mandParts f) s

/-- MOR: ORs two masks (R184). -/
def morParts (f : Rrr) : Parts := maskParts 0x44 f true fun a b => a ||| b
def execMor (p : Pfx) (f : Rrr) (s : State) : Out := issueOne p (morParts f) s

/-- MNOT: Inverts a mask (R184). -/
def mnotParts (f : Rrr) : Parts := maskParts 0x45 f false fun a _ => ~~~a
def execMnot (p : Pfx) (f : Rrr) (s : State) : Out := issueOne p (mnotParts f) s

/-- MCPY: Copies a mask (R184). -/
def mcpyParts (f : Rrr) : Parts := maskParts 0x46 f false fun a _ => a
def execMcpy (p : Pfx) (f : Rrr) (s : State) : Out := issueOne p (mcpyParts f) s

/-- MCNT: Counts mask lanes into a scalar register (R184). -/
def mcntParts (f : Rrr) : Parts :=
  { slot := 1, word := rrrWord 0x47 f
    zeroOk := noFp f && noSat f && f.msk == 0 && f.x == 0 && f.b == 0 && s6Ok f.d && mOk f.a
    bad := if f.ef = 0 ∨ isIntGrp f.ef.toNat then none else some 0x04
    latBad := latReg f.lat 2
    dsts := [.s (s6 f.d)]
    srcM := [mNum f.a].filter (· ≠ 0)
    eff := fun e s =>
      let m := e.c.maskOf (mNum f.a)
      let k := if f.ef = 0 then 1 else efBits f.ef / 8
      writeS s e.ck (s6 f.d) (BitVec.ofNat 64 (countTo 128 fun j => j % k == 0 && m.getLsbD j)) (bnd f.lat) }
def execMcnt (p : Pfx) (f : Rrr) (s : State) : Out := issueOne p (mcntParts f) s

end Sys2Proof.Machine
end

