-- ==== Sys2Proof/Machine/Convert.lean ====
section
/-!
DEFINITION. Conversions, block quantisation and the DS8 operations of the VB slot (R185 to R190).
-/
namespace Sys2Proof.Machine
open Sys2Proof

/-- The source format code, part and top bits of X (R185, R186). -/
def xSrc (f : Rrr) : Nat := bitsOf f.x.toNat 4 0
def xPart (f : Rrr) : Nat := bitsOf f.x.toNat 6 5
def xHi (f : Rrr) : Nat := bitsOf f.x.toNat 8 8

/-- The conversion of one encoding from format `s` to format `t` (R185). -/
def convEl (t sf : Fmt) (md : Mode) (x : Nat) : El :=
  let (v, g) := readNum sf md.fi x
  let ints := match sf.kind with
    | .flt _ => false
    | .int _ => true
    | .ds => true
    | .xs => true
  let (c, h) := encNum t md.rm md.sat md.fo ints v
  (c, g ||| h)

/-- A format that VCVT, VWIDEN and VNARROW accept (R185): neither block-scaled nor XS8, and DS8 only as a source. -/
def convFmt (c : Nat) (isDst : Bool) : Bool :=
  match fmtOf c with
  | none => false
  | some f => !f.block && f.kind != .xs && !(isDst && f.kind == .ds)

/-- The parts that VCVT, VWIDEN and VNARROW share: the element widths must be in the ratio `k`, 1, or 2 or 4 (R186). -/
def convParts (op : BitVec 8) (f : Rrr) (kOf : Nat → Nat → Nat) (zero useD : Bool) (eff : Env → State → State) : Parts :=
  let k := kOf (fmtD (xSrc f)).bits (efBits f.ef)
  { slot := 2, word := rrrWord op f
    zeroOk := zero && f.b == 0 && decide (f.x.toNat < 128)
    bad := if !convFmt (xSrc f) false || !convFmt f.ef.toNat true || k == 0 then some 0x04
      else if k ≤ xPart f then some 0x01 else none
    latBad := latReg f.lat 4
    vregs := [f.d.toNat, f.a.toNat]
    dsts := [.v f.d.toNat]
    srcV := [f.a.toNat] ++ if useD then [f.d.toNat] else []
    srcM := mkSrc f.msk
    eff := eff }

/-- The ratio of two widths, if it is 2 or 4. -/
def ratio24 (big small : Nat) : Nat := if big = 2 * small then 2 else if big = 4 * small then 4 else 0

/-- VCVT (R185, R186): element e from element e, of equal widths. -/
def vcvtParts (f : Rrr) : Parts :=
  convParts 0x50 f (fun s t => if s = t then 1 else 0) (xPart f == 0) false fun e s =>
    let t := fmtD f.ef.toNat
    let a := (e.v f.a.toNat).toNat
    let m := e.c.maskOf f.msk.toNat
    let (r, g) := mapActive t.bits (elems t.bits) m fun i => convEl t (fmtD (xSrc f)) (modeOf f) (elemOf t.bits i a)
    writeV s e.ck f.d.toNat (actLanes t.bits (elems t.bits) m) (BitVec.ofNat 1024 r) (bnd f.lat) g
def execVcvt (p : Pfx) (f : Rrr) (s : State) : Out := issueOne p (vcvtParts f) s

/-- VWIDEN (R185, R186): the part P of A fills D. -/
def vwidenParts (f : Rrr) : Parts :=
  convParts 0x52 f (fun s t => ratio24 t s) true false fun e s =>
    let t := fmtD f.ef.toNat
    let sf := fmtD (xSrc f)
    let n := elems t.bits
    let a := (e.v f.a.toNat).toNat
    let m := e.c.maskOf f.msk.toNat
    let (r, g) := mapActive t.bits n m fun i => convEl t sf (modeOf f) (elemOf sf.bits (i + xPart f * n) a)
    writeV s e.ck f.d.toNat (actLanes t.bits n m) (BitVec.ofNat 1024 r) (bnd f.lat) g
def execVwiden (p : Pfx) (f : Rrr) (s : State) : Out := issueOne p (vwidenParts f) s

/-- VNARROW (R169, R185, R186): A fills the part P of D, read at issue; every other element keeps its value. -/
def vnarrowParts (f : Rrr) : Parts :=
  convParts 0x51 f (fun s t => ratio24 s t) true true fun e s =>
    let t := fmtD f.ef.toNat
    let sf := fmtD (xSrc f)
    let n := elems sf.bits
    let lo := xPart f * n
    let a := (e.v f.a.toNat).toNat
    let d := (e.v f.d.toNat).toNat
    let m := e.c.maskOf f.msk.toNat
    let inPart := fun i : Nat => decide (lo ≤ i) && decide (i < lo + n)
    let (r, g) := mapActive t.bits (elems t.bits) m fun i =>
      if inPart i then convEl t sf (modeOf f) (elemOf sf.bits (i - lo) a) else (0, 0)
    let v := mkReg t.bits (elems t.bits) fun i =>
      if inPart i && actEl t.bits m i then elemOf t.bits i r else elemOf t.bits i d
    writeV s e.ck f.d.toNat laneV (BitVec.ofNat 1024 v) (bnd f.lat) g
def execVnarrow (p : Pfx) (f : Rrr) (s : State) : Out := issueOne p (vnarrowParts f) s

/-! ## Block quantisation -/

/-- The block-scaled formats of VQNT and VDQNT (R187). -/
def isBlock (c : Nat) : Bool := decide (0x18 ≤ c) && decide (c ≤ 0x1D)

/-- MAXV of a block-scaled format (R187). -/
def maxV (c : Nat) : Nat :=
  match c with
  | 0x18 => 7 | 0x19 => 6 | 0x1A => 127 | 0x1B => 448 | 0x1C => 28 | _ => 128

/-- Registers from `r` up that hold 128 elements of w bits. -/
def group128 (w r : Nat) : List Nat := (List.range (128 * w / 1024)).map fun i => r + i

/-- Element e of 128 elements of w bits in registers from `r` up. -/
def groupEl (e : Env) (w r i : Nat) : Nat :=
  elemOf w (i % elems w) (e.v (r + i / elems w)).toNat

/-- The scale code of a block from its largest magnitude m × 2^k (R187). -/
def scaleCode (v m : Nat) (k : Int) : Nat :=
  if m = 0 then 127
  else
    let l := floorLog m k - Nat.log2 v
    let fits := numCmp (.fin false m k) (.fin false v l) != .gt
    (max 0 (min 254 (127 + (if fits then l else l + 1)))).toNat

/-- The larger of two finite magnitudes. -/
def maxMag (a b : Nat × Int) : Nat × Int :=
  if numCmp (.fin false a.1 a.2) (.fin false b.1 b.2) = .lt then b else a

/-- The scale code that the scale form writes for 128 elements (R187). -/
def blockScale (t : Nat) (xs : List Num) : Nat :=
  if xs.any fun x => !x.isFin then 255
  else
    let m := xs.foldl (fun a x => match x with
      | .fin _ m e => maxMag a (m, e)
      | .inf _ => a
      | .nan _ => a) (0, 0)
    scaleCode (maxV t) m.1 m.2

/-- VQNT, scale form (R187). -/
def vqntScaleParts (f : Rrr) : Parts :=
  let w := (fmtD (xSrc f)).bits
  { slot := 2, word := rrrWord 0x53 f
    zeroOk := f.rm == 0 && f.fo == 0 && f.sat == 0 && f.msk == 0 && f.b == 0 && xPart f == 0 && xHi f == 0 && s6Ok f.d
    bad := if isFltGrp (xSrc f) && isBlock f.ef.toNat then none else some 0x04
    latBad := latReg f.lat 12
    vregs := group128 w f.a.toNat
    dsts := [.s (s6 f.d)]
    srcV := group128 w f.a.toNat
    eff := fun e s =>
      let xs := (List.range 128).map fun i => readNum (fmtD (xSrc f)) (f.fi == 1) (groupEl e w f.a.toNat i)
      writeSF s e.ck (s6 f.d) (BitVec.ofNat 64 (blockScale f.ef.toNat (xs.map (·.1)))) (bnd f.lat)
        (xs.foldl (fun g x => g ||| x.2) 0) }
def execVqntScale (p : Pfx) (f : Rrr) (s : State) : Out := issueOne p (vqntScaleParts f) s

/-- One element of a block quantised with scale code `c` (R187). -/
def quantEl (t sf : Fmt) (md : Mode) (c x : Nat) : El :=
  if c = 255 then ((match t.kind with | .ds => 0x77 | .int _ => 0 | .flt _ => 0 | .xs => 0), flNV)
  else
    let (v, g) := readNum sf md.fi x
    let y := v.scale (127 - (c : Int))
    let (r, h) := match t.kind with
      | .ds => encDs y
      | .int _ => encNum t md.rm md.sat md.fo false y
      | .flt _ => encNum t md.rm md.sat md.fo false y
      | .xs => (0, 0)
    (r, g ||| h)

/-- VQNT, quantising form (R187): an 8-bit block fills D, a 4-bit one the half H. -/
def vqntParts (f : Rrr) : Parts :=
  let sf := fmtD (xSrc f)
  let t := fmtD f.ef.toNat
  { slot := 2, word := rrrWord 0x53 f
    zeroOk := xPart f == 0 && (t.bits == 4 || xHi f == 0) && s6Ok f.b
    bad := if isFltGrp (xSrc f) && isBlock f.ef.toNat then none else some 0x04
    latBad := latReg f.lat 8
    vregs := f.d.toNat :: group128 sf.bits f.a.toNat
    dsts := [.v f.d.toNat]
    srcS := [s6 f.b]
    srcV := group128 sf.bits f.a.toNat
    srcM := mkSrc f.msk
    eff := fun e s =>
      let c := (e.s (s6 f.b)).toNat % 256
      let m := e.c.maskOf f.msk.toNat
      let lo := 128 * xHi f
      let inHalf := fun i : Nat => decide (lo ≤ i) && decide (i < lo + 128)
      let (r, g) := mapActive t.bits (elems t.bits) m fun i =>
        if inHalf i then quantEl t sf (modeOf f) c (groupEl e sf.bits f.a.toNat (i - lo)) else (0, 0)
      let half : BitVec 128 := if t.bits = 4 then BitVec.ofNat 128 ((2 ^ 64 - 1) * 2 ^ (64 * xHi f)) else laneV
      writeV s e.ck f.d.toNat (actLanes t.bits (elems t.bits) m &&& half) (BitVec.ofNat 1024 r) (bnd f.lat) g }
def execVqnt (p : Pfx) (f : Rrr) (s : State) : Out := issueOne p (vqntParts f) s

/-- VDQNT (R188): one block expanded into the registers from D up. -/
def vdqntParts (f : Rrr) : Parts :=
  let sf := fmtD (xSrc f)
  let t := fmtD f.ef.toNat
  { slot := 2, word := rrrWord 0x54 f
    zeroOk := f.fi == 0 && bitsOf f.x.toNat 7 5 == 0 && (sf.bits == 4 || xHi f == 0) && s6Ok f.b
    bad := if isFltGrp f.ef.toNat && isBlock (xSrc f) then none else some 0x04
    latBad := latReg f.lat 8
    vregs := group128 t.bits f.d.toNat ++ [f.a.toNat]
    dsts := (group128 t.bits f.d.toNat).map DstName.v
    srcS := [s6 f.b]
    srcV := [f.a.toNat]
    srcM := mkSrc f.msk
    eff := fun e s =>
      let c := (e.s (s6 f.b)).toNat % 256
      let m := e.c.maskOf f.msk.toNat
      let a := (e.v f.a.toNat).toNat
      let n := elems t.bits
      (List.range (128 / n)).foldl (fun s j =>
        let (r, g) := mapActive t.bits n m fun i =>
          let (x, h) := readScaled sf false (elemOf sf.bits (j * n + i + 128 * xHi f) a) c
          let (q, l) := encNum t f.rm.toNat (f.sat == 1) (f.fo == 1) false x
          (q, h ||| l)
        writeV s e.ck (f.d.toNat + j) (actLanes t.bits n m) (BitVec.ofNat 1024 r) (bnd f.lat) g) s }
def execVdqnt (p : Pfx) (f : Rrr) (s : State) : Out := issueOne p (vdqntParts f) s

/-! ## DS8 -/

/-- VDSENC (R189). -/
def vdsencParts (f : Rrr) : Parts :=
  let sf := fmtD (xSrc f)
  let k := sf.bits / 8
  { slot := 2, word := rrrWord 0x55 f
    zeroOk := f.rm == 0 && f.sat == 0 && f.fi == 0 && f.fo == 0 && f.b == 0 && decide (f.x.toNat < 128)
    bad := if f.ef ≠ 0x0A ∨ !([0x04, 0x05, 0x0B, 0x0C, 0x10, 0x0D, 0x0E, 0x0F].contains (xSrc f)) then some 0x04
      else if k ≤ xPart f then some 0x01 else none
    latBad := latReg f.lat 4
    vregs := [f.d.toNat, f.a.toNat]
    dsts := [.v f.d.toNat]
    srcV := [f.a.toNat]
    srcM := mkSrc f.msk
    eff := fun e s =>
      let n := elems sf.bits
      let lo := xPart f * n
      let a := (e.v f.a.toNat).toNat
      let m := e.c.maskOf f.msk.toNat
      let inPart := fun i : Nat => decide (lo ≤ i) && decide (i < lo + n)
      let (r, g) := mapActive 8 128 m fun i =>
        if inPart i then
          let (v, h) := readNum sf false (elemOf sf.bits (i - lo) a)
          let (c, l) := encDs v
          (c, h ||| l)
        else (0, 0)
      let lanes := BitVec.ofNat 128 ((2 ^ n - 1) * 2 ^ lo)
      writeV s e.ck f.d.toNat (actLanes 8 128 m &&& lanes) (BitVec.ofNat 1024 r) (bnd f.lat) g }
def execVdsenc (p : Pfx) (f : Rrr) (s : State) : Out := issueOne p (vdsencParts f) s

/-- VDSMUL (R190): the product of a DS8 byte and an element, with ACC the sum with D, rounded once. -/
def vdsmulParts (f : Rrr) : Parts :=
  let t := fmtD f.ef.toNat
  let k := t.bits / 8
  let isF := isFltGrp f.ef.toNat
  let acc := f.x.getLsbD 7
  { slot := 2, word := rrrWord 0x56 f
    zeroOk := (isF || noFp f) && bitsOf f.x.toNat 4 0 == 0 && xHi f == 0
    bad := if !([0x04, 0x0B, 0x10, 0x0D, 0x0E, 0x0F].contains f.ef.toNat) then some 0x04
      else if k ≤ xPart f then some 0x01 else none
    latBad := latReg f.lat 4
    vregs := [f.d.toNat, f.a.toNat, f.b.toNat]
    dsts := [.v f.d.toNat]
    srcV := [f.a.toNat, f.b.toNat] ++ if acc then [f.d.toNat] else []
    srcM := mkSrc f.msk
    eff := fun e s =>
      let n := elems t.bits
      let a := (e.v f.a.toNat).toNat
      let b := (e.v f.b.toNat).toNat
      let d := (e.v f.d.toNat).toNat
      let m := e.c.maskOf f.msk.toNat
      let (r, g) := mapActive t.bits n m fun i =>
        let w := dsValue (elemOf 8 (i + xPart f * n) a)
        if isF then
          floatEl (fltD f.ef) (modeOf f) ([elemOf t.bits i b] ++ if acc then [elemOf t.bits i d] else []) (fun xs =>
            match xs with
            | [y, z] => numFma f.rm.toNat false (Num.ofInt w) y z
            | y :: _ => numMul (Num.ofInt w) y
            | [] => (Num.zero, 0)) (fun xs => match xs with
            | [y, _] => fmaInv (Num.ofInt w) y
            | _ => 0)
        else intc t.bits true (f.sat == 1)
          (w * readInt t (elemOf t.bits i b) + if acc then readInt t (elemOf t.bits i d) else 0)
      writeV s e.ck f.d.toNat (actLanes t.bits n m) (BitVec.ofNat 1024 r) (bnd f.lat) g }
def execVdsmul (p : Pfx) (f : Rrr) (s : State) : Out := issueOne p (vdsmulParts f) s

end Sys2Proof.Machine
end

