-- ==== Sys2Proof/Machine/Nodes.lean ====
section
/-!
DEFINITION. The records that the graph engine holds and writes back, slips, evidence, and decisions under recording and
replay (R11 to R18, R22, R338, R339, R354 to R361).
-/
namespace Sys2Proof.Machine
open Sys2Proof

/-! ## Fields of records -/

/-- Word i of a list of words. -/
def wAt (l : List W64) (i : Nat) : Nat := (l[i]?.getD 0).toNat

namespace Node
def slmask (n : Node) : Nat := bitsOf (wAt n.w 0) 60 56
def retry (n : Node) : Nat := bitsOf (wAt n.w 0) 51 48
def policy (n : Node) : Nat := bitsOf (wAt n.w 0) 47 46
def req (n : Node) : Nat := bitsOf (wAt n.w 0) 40 36
def prio (n : Node) : Nat := bitsOf (wAt n.w 0) 27 22
def csize (n : Node) : Nat := bitsOf (wAt n.w 1) 48 46
def chmask (n : Node) : Nat := bitsOf (wAt n.w 1) 45 42
def dl (n : Node) : Bool := bitOf (wAt n.w 1) 41
def timed (n : Node) : Bool := bitOf (wAt n.w 1) 40
def deadline (n : Node) : Nat := bitsOf (wAt n.w 1) 39 20
def release (n : Node) : Nat := bitsOf (wAt n.w 1) 19 0
def cksize (n : Node) : Nat := bitsOf (wAt n.w 3) 55 46
def ckpt (n : Node) : Nat := bitsOf (wAt n.w 3) 45 0
def pblk (n : Node) : Nat := bitsOf (wAt n.w 14) 47 0
def p (n : Node) (i : Nat) : W64 := BitVec.ofNat 64 (wAt n.w (8 + i))
/-- Used slots are those with KIND other than 0 (R18). -/
def used (n : Node) (k : Nat) : Bool := bitsOf (n.srcs[k]?.getD 0) 31 30 != 0
def count (n : Node) (k : Nat) : Nat := n.counts[k]?.getD 0
/-- RCVD: used slots whose count is at least 1 (Table 2-3). -/
def rcvd (n : Node) : Nat := countTo 16 fun k => n.used k && decide (1 ≤ n.count k)

/-! The task type (Table 2-7). -/
def ilen (n : Node) : Nat := bitsOf (wAt n.tt 0) 58 46
def img (n : Node) : Nat := bitsOf (wAt n.tt 0) 45 0
def dltrap (n : Node) : Bool := bitOf (wAt n.tt 1) 57
def dom (n : Node) : Nat := bitsOf (wAt n.tt 1) 55 53
def npdef (n : Node) : Nat := bitsOf (wAt n.tt 1) 52 47
def cls (n : Node) : Nat := bitsOf (wAt n.tt 1) 46 44
def fdepth (n : Node) : Nat := bitsOf (wAt n.tt 1) 40 35
def atiles (n : Node) : Nat := bitsOf (wAt n.tt 1) 34 28
def sbanks (n : Node) : Nat := bitsOf (wAt n.tt 1) 27 22
def vregs (n : Node) : Nat := bitsOf (wAt n.tt 1) 21 12
def entry (n : Node) : Nat := bitsOf (wAt n.tt 1) 11 0
def pbound (n : Node) : Nat := bitsOf (wAt n.tt 4) 19 0
/-- Length and address of the program, and of the data image, of the loader or storer. -/
def hlen (n : Node) (storer : Bool) : Nat := bitsOf (wAt n.tt (if storer then 3 else 2)) 59 46
def himg (n : Node) (storer : Bool) : Nat := bitsOf (wAt n.tt (if storer then 3 else 2)) 45 0
def dlen (n : Node) (storer : Bool) : Nat := bitsOf (wAt n.tt (if storer then 6 else 5)) 59 46
def dimg (n : Node) (storer : Bool) : Nat := bitsOf (wAt n.tt (if storer then 6 else 5)) 45 0
/-- The task type has a loader or storer program (R215). -/
def harts (n : Node) : Bool := n.hlen false != 0 || n.hlen true != 0
/-- Cores of the consort (R63). -/
def cores (n : Node) : Nat := 2 ^ n.csize
end Node

/-- The RO fields of a node record and its token entry (Table 2-3, R18): whether they lie in the token entry, the word, the
bits, and the value. -/
def nodeFields (n : Node) : List (Bool × Nat × Nat × Nat × Nat) :=
  [(false, 0, 55, 52, n.rused), (false, 0, 45, 41, n.rcvd), (false, 0, 19, 16, n.st), (false, 4, 63, 0, n.stamp),
   (false, 5, 63, 32, n.frame), (false, 5, 25, 24, n.ctx), (false, 5, 22, 16, n.lcore), (false, 5, 7, 0, n.fcause),
   (false, 6, 32, 32, bit01 n.rvalid), (false, 6, 31, 0, n.rrow)]
  ++ (List.range 16).map fun k => (true, 0, 4 * k + 3, 4 * k, n.count k)

/-- The RO fields of a graph header that change while it runs (Table 2-1). -/
def graphFields (g : Graph) : List (Nat × Nat × Nat × Nat) :=
  [(0, 25, 23, g.gstate), (4, 63, 0, g.fstart), (5, 63, 48, g.drops), (5, 47, 32, g.slips), (5, 31, 0, g.frameno),
   (6, 31, 16, g.cancels), (6, 15, 0, g.misroute)]

/-! ## The engine's state -/

def State.eng (s : State) (pos : Nat) : Engine := (s.chip pos).eng
def modGe (s : State) (pos : Nat) (f : Engine → Engine) : State := s.modChip pos fun c => { c with eng := f c.eng }
def State.graph? (s : State) (pos gid : Nat) : Option Graph := sget? (s.eng pos).graphs gid
def State.node? (s : State) (pos gid idx : Nat) : Option Node := (s.graph? pos gid).bind fun g => sget? g.nodes idx

/-- FRAMENO of a graph, 0 for an unframed one (R159). -/
def frameOf (s : State) (pos gid : Nat) : Nat :=
  match s.graph? pos gid with
  | some g => if g.period = 0 then 0 else g.frameno
  | none => 0

/-- Change a graph without writing its header. -/
def setGraph (s : State) (pos gid : Nat) (f : Graph → Graph) : State :=
  modGe s pos fun e => match sget? e.graphs gid with
    | some g => { e with graphs := sput e.graphs gid (f g) }
    | none => e

/-! ## Evidence (R338, R339, R50) -/

def modBr (s : State) (pos : Nat) (f : Bridge → Bridge) : State := s.modChip pos fun c => { c with br := f c.br }

/-- Set a bit of QEVT: vector 1 fires where EVID, PROP or DEC, vector 5 where STRETCH or ROTSUS, changes from 0 (R50). -/
def raiseQevt (s : State) (pos b : Nat) : State :=
  if bitOf (s.chip pos).br.qevt b then s
  else fireVector (modBr s pos fun r => { r with qevt := r.qevt + 2 ^ b }) pos (if b ≤ 2 then 1 else 5)

/-- The record of a piece of evidence on a chiplet's quorum page (R50). -/
def hostEvid (s : State) (pos : Nat) (e : Evid) : State :=
  let s1 := modBr s pos fun r =>
    { r with evRing := sput r.evRing (r.evCount % 16)
               (BitVec.ofNat 64 e.ct, BitVec.ofNat 64 (e.source % 16 * 256 + e.reporter % 4 * 4 + e.accused % 4))
             evCount := (r.evCount + 1) % 65536 }
  raiseQevt s1 pos 0

/-- A Bridge holds evidence, and its page shows it (R338). -/
def holdEvid (s : State) (pos : Nat) (e : Evid) : State :=
  hostEvid (modBr s pos fun r =>
    { r with evid := r.evid ++ [e], firstEv := r.firstEv.or (some (s.ctOf pos))
             lateEv := if s.quorum.prop.isSome then r.lateEv.or (some (s.ctOf pos)) else r.lateEv }) pos e

/-- A voter detects evidence: it holds it and sends it to every other Bridge (R338). A closed chiplet is not accused again. -/
def evidence (s : State) (pos accused source : Nat) (pair : Option Nat) : State :=
  if !bitOf ((s.chip pos).br.dec ||| s.quorum.cand) accused || (s.chip pos).br.halted then s else
  let e : Evid := { accused := accused, source := source, ct := s.ctOf pos, reporter := pos, pair := pair }
  let s1 := holdEvid s pos e
  ((List.range 4).filter (· != pos)).foldl (fun s q => modBr s q fun r => { r with evidIn := r.evidIn ++ [e] }) s1

/-! ## Writing back (R12, Table 16-1) -/

/-- Write one field of a word at `a`; false where the write is refused (R328). -/
def writeField (s : State) (a hi lo v : Nat) : State × Bool :=
  if s.writeBad a 8 then (s.noteRefused a 8, false)
  else (s.writeMem a (leBytes 8 (setBits (s.readNat a 8) hi lo v)), true)

/-- The graph escalates (R23): GSTATE 4, and a region fault of its chiplet is evidence (Table 16-6). -/
def escalate (s : State) (pos gid : Nat) : State :=
  match s.graph? pos gid with
  | none => s
  | some g =>
    if g.gstate = 4 then s
    else
      let s1 := setGraph s pos gid fun g => { g with gstate := 4 }
      let s2 := (writeField s1 g.addr 25 23 4).1
      evidence s2 pos pos 6 none

/-- Write the header fields of a graph that differ from what they were; a refused write escalates the graph. -/
def syncGraph (s : State) (pos gid : Nat) (old g : Graph) : State :=
  let ws := (graphFields g).filter fun f => !(graphFields old).contains f
  let (s1, ok) := ws.foldl (fun (acc : State × Bool) (i, hi, lo, v) =>
    let (s2, k) := writeField acc.1 (g.addr + 8 * i) hi lo v
    (s2, acc.2 && k)) (s, true)
  if ok then s1 else escalate s1 pos gid

/-- Change a graph and write its header back. -/
def modGraph (s : State) (pos gid : Nat) (f : Graph → Graph) : State :=
  match s.graph? pos gid with
  | none => s
  | some g => syncGraph (setGraph s pos gid f) pos gid g (f g)

/-- Write the fields of a node that differ from what they were. -/
def syncNode (s : State) (pos gid idx : Nat) (g : Graph) (old n : Node) : State :=
  let ws := (nodeFields n).filter fun f => !(nodeFields old).contains f
  let (s1, ok) := ws.foldl (fun (acc : State × Bool) (t, i, hi, lo, v) =>
    let (s2, k) := writeField acc.1 ((if t then g.toksA else g.nodesA) + 128 * idx + 8 * i) hi lo v
    (s2, acc.2 && k)) (s, true)
  if ok then s1 else escalate s1 pos gid

/-! ## Slips (R356) -/

/-- SLIPS of the named graph increases, and the record is written. -/
def slip (s : State) (pos kind : Nat) (gid? : Option Nat) (agent : Nat) (a b : W64) : State :=
  let s1 := match gid? with
    | some g => modGraph s pos g fun g => { g with slips := Nat.min 0xFFFF (g.slips + 1) }
    | none => s
  logRec s1 pos { kind := 2, sub := kind, lcore := 0x7F, ctx := 0, agent := agent, a := a, b := b }

/-! ## Decisions (R358, R360, R361) -/

/-- Decisions of a partition are recorded (R355). -/
def Chip.records (c : Chip) (part : Nat) : Bool := c.tbMode == 1 && c.tbPart part
/-- Decisions of a partition follow the log (R360). -/
def Chip.replays (c : Chip) (part : Nat) : Bool := c.tbMode == 2 && c.tbPart part && !c.tbOver
/-- Decision points of a partition wait for space (R358). -/
def Chip.holds (c : Chip) (part : Nat) : Bool := c.records part && c.tbPol == 0 && decide (c.tbFree ≤ 64)

/-- A decision point waits: HOLD is set, and the first to find FREE = 64 writes the slip (R358). -/
def noteHold (s : State) (pos : Nat) : State :=
  let c := s.chip pos
  let s1 := s.setChip pos { c with tbHold := true, tbHeld := c.tbHeld || c.tbFree == 64 }
  if c.tbFree = 64 ∧ !c.tbHeld then slip s1 pos 9 none 4 64 (BitVec.ofNat 64 c.tbWr.toNat) else s1

/-- Write a decision record of a partition, where it is recorded. -/
def logDecision (s : State) (pos part : Nat) (r : Rec) : State :=
  if (s.chip pos).records part then logRec s pos r else s

/-- The address of record i of the log (R357). -/
def Chip.recAddr (c : Chip) (i : Nat) : Nat := bitsOf c.tbBase.toNat 45 12 * 4096 + 32 * (i % c.tbCap)

/-- The logged records from RD to WR that replay has not consumed, up to an end marker: index, W1, A and B. -/
def pendingRecs (s : State) (pos : Nat) : List (Nat × Nat × Nat × Nat) :=
  let c := s.chip pos
  let is := (List.range c.tbUsed).map fun i => (c.tbRd + BitVec.ofNat 32 i).toNat
  let rs := is.map fun i =>
    let a := c.recAddr i
    (i, s.readNat (a + 8) 8, s.readNat (a + 16) 8, s.readNat (a + 24) 8)
  (rs.takeWhile fun r => bitsOf r.2.1 31 24 != 10).filter fun r => !c.eng.repDone.contains r.1

/-- The next logged record that satisfies a test. -/
def nextRec (s : State) (pos : Nat) (p : Nat → Nat → Nat → Bool) : Option (Nat × Nat × Nat × Nat) :=
  (pendingRecs s pos).find? fun r => p r.2.1 r.2.2.1 r.2.2.2

/-- KIND, SUB and AGENT of W1. -/
def recKind (w1 : Nat) : Nat := bitsOf w1 31 24
def recSub (w1 : Nat) : Nat := bitsOf w1 23 16

/-- A logged record belongs to the decisions that replay follows or compares: its kind, and its graph's or port's partition. -/
def replayed (s : State) (pos w1 a : Nat) : Bool :=
  let c := s.chip pos
  match recKind w1 with
  | 0 | 5 | 7 | 8 => match s.graph? pos (a / 4096) with
    | some g => c.replays g.part
    | none => false
  | 4 => true
  | 6 => c.replays (a / 256)
  | _ => false

/-- RD moves past records consumed and past those that replay skips (R360). -/
def advanceRd : Nat → State → Nat → State
  | 0, s, _ => s
  | n + 1, s, pos =>
    let c := s.chip pos
    let i := c.tbRd.toNat
    let a := c.recAddr i
    if c.tbRd = c.tbWr then s
    else
      let w1 := s.readNat (a + 8) 8
      if recKind w1 = 10 then s
      else if c.eng.repDone.contains i ∨ !replayed s pos w1 (s.readNat (a + 16) 8) then
        let e := { c.eng with repDone := c.eng.repDone.filter (· != i) }
        advanceRd n (s.setChip pos { c with tbRd := c.tbRd + 1, eng := e }) pos
      else s

/-- Replay has reached WR or an end marker (R360): REND, vector 7, and each replayed graph stops once its running nodes have
finished. -/
def checkEnd (s : State) (pos : Nat) : State :=
  let c := s.chip pos
  if c.tbMode ≠ 2 ∨ c.tbOver then s
  else if c.tbRd = c.tbWr ∨ recKind (s.readNat (c.recAddr c.tbRd.toNat + 8) 8) = 10 then
    let s1 := s.setChip pos { c with tbRend := true, tbOver := true }
    let s2 := modGe s1 pos fun e =>
      { e with graphs := e.graphs.map fun (k, g) => (k, if c.tbPart g.part then { g with ending := true } else g) }
    fireVector s2 pos 7
  else s

/-- Consume the logged record of an index. -/
def consumeRec (s : State) (pos i : Nat) : State :=
  let s1 := modGe s pos fun e => { e with repDone := e.repDone ++ [i] }
  checkEnd (advanceRd ((s1.chip pos).tbUsed) s1 pos) pos

/-- A divergence (R361): EXP, the record that would have been written, DIV and vector 7. -/
def diverge (s : State) (pos exp : Nat) (r : Rec) : State :=
  let c := s.chip pos
  fireVector (s.setChip pos
    { c with tbDivx := BitVec.ofNat 32 exp, tbDiv := true, tbDiv4 := r.words c.ct c.tbSeq pos }) pos 7

/-- The index of the record expected where none is left. -/
def endIndex (s : State) (pos : Nat) : Nat := (s.chip pos).tbRd.toNat

/-- W1[31:0] of a record (R360). -/
def Rec.low (r : Rec) (pos : Nat) : Nat := ((r.words 0 0 pos).getD 1 0).toNat % 2 ^ 32

/-- A state change of a replayed node is compared with the next logged state change of the engine (R360). A graph that diverges
is marked, and stops at the end of the step (R361). -/
def compareState (s : State) (pos gid : Nat) (r : Rec) : State :=
  match nextRec s pos fun w1 a _ => recKind w1 == 0 && replayed s pos w1 a with
  | some (i, w1, a, b) =>
    if w1 % 2 ^ 32 = r.low pos ∧ a = r.a.toNat ∧ b = r.b.toNat then consumeRec s pos i
    else modGe (diverge s pos i r) pos fun e => { e with dead := if e.dead.contains gid then e.dead else e.dead ++ [gid] }
  | none => s

/-! ## State changes -/

/-- Change a node: a change of state writes STAMP and is logged (R22), and the fields that change are written back. -/
def modNode (s : State) (pos gid idx : Nat) (f : Node → Node) : State :=
  match s.graph? pos gid, s.node? pos gid idx with
  | some g, some n =>
    let n1 := f n
    let moved := n1.st != n.st
    let n2 := if moved then { n1 with stamp := s.ctOf pos } else n1
    let s1 := setGraph s pos gid fun g => { g with nodes := sput g.nodes idx n2 }
    let s2 := syncNode s1 pos gid idx g n n2
    if moved then
      let r : Rec := { kind := 0, sub := n2.st, lcore := 0x7F, ctx := 0, agent := 1, a := BitVec.ofNat 64 (gid * 4096 + idx),
                       b := BitVec.ofNat 64 n.st }
      let s3 := logRec s2 pos r
      if (s3.chip pos).replays g.part then compareState s3 pos gid r else s3
    else s2
  | _, _ => s

/-! ## Nodes and grants of a chiplet -/

/-- Every node that a chiplet's engine holds: graph id, index, graph, node. -/
def allNodes (s : State) (pos : Nat) : List (Nat × Nat × Graph × Node) :=
  (s.eng pos).graphs.flatMap fun (gid, g) => g.nodes.map fun (i, n) => (gid, i, g, n)

/-- Half-amperes of a current class (Table 4-5). -/
def classAmps (c : Nat) : Nat := [0, 1, 2, 3, 4, 6, 8, 10].getD c 0

/-- Half-amperes that a node draws: its class current for each core of its consort (R68; log entry 70). -/
def Node.amps (n : Node) : Nat := classAmps n.cls * n.cores

/-- Half-amperes held on a chiplet by granted nodes that satisfy a test. -/
def heldAmps (s : State) (pos : Nat) (p : Graph → Bool) : Nat :=
  (allNodes s pos).foldl (fun z (_, _, g, n) =>
    match n.place with
    | some q => if q.granted && p g then z + n.amps else z
    | none => z) 0

/-- The node leaves the blocking nodes of its frame: it becomes done, failed or cancelled (R27). -/
def Node.ends (n : Node) (st : Nat) : Node := { n with st := st, overWith := true }

end Sys2Proof.Machine
end

