-- ==== Sys2Proof/Machine/Addr.lean ====
section
/-!
DEFINITION. Virtual addresses: the page-table walk, the translation caches, permissions and the checks of the target
(R192 to R206, R289 to R291).
-/
namespace Sys2Proof.Machine
open Sys2Proof

/-! ## Page tables -/

/-- Bits of a page-table entry (Table 10-4), as masks of what an access needs (Table 10-5). -/
def pteR : Nat := 0x08
def pteW : Nat := 0x10
def pteX : Nat := 0x20
def pteER : Nat := 0x40
def pteEW : Nat := 0x80

/-- What a walk finds (R192, R199, R202, R206): a leaf with the first virtual address and the size of its page, a fault, which is 0x0F
for a table in a hole, a migrating entry, or an uncorrectable sector. -/
inductive Walk where
  | leaf (va size : Nat) (pte : W64)
  | fault (cause : Nat)
  | migrating
  | bad (sector : Nat)
  deriving DecidableEq, Repr

/-- The size of a leaf's page, as a power of two (Table 10-3, R200). -/
def leafShift (level : Nat) (pte : W64) : Nat :=
  let cg := pte.getLsbD 2
  match level with
  | 1 => 29
  | 2 => if cg then 25 else 21
  | _ => if cg then 16 else 12

/-- The memory class of the region of Table 10-1 in which an address lies; none in a hole. -/
def classOf (pa : Nat) : Option Nat :=
  if pa < 0x2000000000 then some 0
  else if 0x100000000000 ≤ pa ∧ pa < 0x180000000000 then
    if bitsOf pa 42 36 < 4 ∧ bitsOf pa 35 24 < 34 then some 2 else none
  else if 0x180000000000 ≤ pa ∧ pa < 0x180000000000 + 128 * 2 ^ 24 then some 2
  else if 0x200000000000 ≤ pa ∧ pa < 0x200000000000 + 4 * 2 ^ 32 then some 3
  else if 0x300000000000 ≤ pa ∧ pa < 0x400000000000 then some 4
  else none

/-- The page's memory class matches its region (R199). -/
def classFits (mc pa : Nat) : Bool :=
  match classOf pa with
  | some c => mc == c || (mc == 1 && c == 0)
  | none => false

/-- The physical address of the first byte of a leaf's page; a group member's low bits are ignored (R200). -/
def leafBase (sh : Nat) (pte : W64) : Nat := bitsOf pte.toNat 45 12 * 4096 / 2 ^ sh * 2 ^ sh

/-- A valid leaf is malformed (R199). -/
def leafBad (level : Nat) (pte : W64) : Bool :=
  let n := pte.toNat
  let sh := leafShift level pte
  level == 0 || bitsOf n 63 46 != 0 || (level == 1 && pte.getLsbD 2)
    || (!pte.getLsbD 2 && bitsOf n 45 12 * 4096 % 2 ^ sh != 0)
    || decide (5 ≤ bitsOf n 10 8) || !classFits (bitsOf n 10 8) (leafBase sh pte)

/-- A page of class 0 or 1 lies wholly inside one region of the partition (R199). -/
def inRegions (p : Part) (base size : Nat) : Bool :=
  p.regions.any fun r => decide (r.1 ≤ base) && decide (base + size ≤ r.1 + r.2)

/-- The member of a group whose fields a walk uses (R200): the entry of the address, or the member `pick` of its group
where both are members. -/
def groupMember (s : State) (table idx pick level : Nat) : Nat :=
  let isMem := fun i : Nat =>
    let e := s.readNat (table + 8 * i) 8
    bitOf e 0 && bitOf e 1 && bitOf e 2
  let other := idx - idx % 16 + pick % 16
  if 2 ≤ level && isMem idx && isMem other then other else idx

/-- The address behind the aliases at which a walker of chiplet `pos` reads a table (R55, R192): none in a hole, and none outside
DRAM and the core windows (log entry 21). -/
def tableAt (s : State) (pos pa : Nat) : Option Nat :=
  match placeOf s pos pa with
  | .dram _ => some pa
  | .window k off => if areaOf off = .ctl then none else some (winBase k + off)
  | .chipCtl _ _ | .host _ | .held _ _ _ | .hole => none

/-- The walk from a table down (Table 10-3, R197 to R200). `pick` chooses the member of a group. A table in a hole ends it with cause
0x0F (R192). -/
def walkFrom (s : State) (pos : Nat) (p : Part) (va pick : Nat) : List (Nat × Nat × Nat) → Nat → Walk
  | [], _ => .fault 0x09
  | (level, shift, bits) :: rest, table =>
    match tableAt s pos table with
    | none => .fault 0x0F
    | some base =>
    let a := base + 8 * groupMember s base ((va / 2 ^ shift) % 2 ^ bits) pick level
    if s.readBad a 8 then .bad (s.badSector a 8)
    else
      let e := s.read64 a
      if !e.getLsbD 0 then (if e.getLsbD 11 then .migrating else .fault 0x09)
      else if e.getLsbD 1 then
        if leafBad level e then .fault 0x09
        else
          let sh := leafShift level e
          let mc := bitsOf e.toNat 10 8
          if mc < 2 && !inRegions p (leafBase sh e) (2 ^ sh) then .fault 0x0A
          else .leaf (va / 2 ^ sh * 2 ^ sh) (2 ^ sh) e
      else if level = 3 ∨ bitsOf e.toNat 11 2 ≠ 0 ∨ bitsOf e.toNat 63 46 ≠ 0 then .fault 0x09
      else walkFrom s pos p va pick rest (bitsOf e.toNat 45 12 * 4096)

/-- The levels of Table 10-3. -/
def walkLevels : List (Nat × Nat × Nat) := [(0, 38, 10), (1, 29, 9), (2, 21, 8), (3, 12, 9)]

/-- A walk of a partition's tables, by the walker of chiplet `pos` (R197, R203). -/
def walk (s : State) (pos part va pick : Nat) : Walk :=
  let p := sget Part.reset (s.chip pos).parts part
  walkFrom s pos p va pick walkLevels p.ptroot

/-! ## Translation caches -/

/-- A cached translation (R203). -/
def tlbFind (l : List TlbEnt) (part va : Nat) : Option TlbEnt :=
  l.find? fun e => e.part == part && decide (e.va ≤ va) && decide (va < e.va + e.size)

/-- Hold a translation in a cache of `cap` entries; a cache may drop an entry at any time, the oldest here (R203). -/
def tlbAdd (cap : Nat) (l : List TlbEnt) (e : TlbEnt) : List TlbEnt :=
  let l1 := l.filter fun x => !(x.part == e.part && x.va == e.va && x.size == e.size)
  (l1 ++ [e]).drop (l1.length + 1 - cap)

/-- The physical address of `va` under a cached leaf (R200). -/
def TlbEnt.pa (e : TlbEnt) (va : Nat) : Nat := bitsOf e.pte.toNat 45 12 * 4096 / e.size * e.size + va % e.size

/-- Who accesses memory, and with what rights: the context, its partition and privilege, the leaf bits that the access
needs, whether it writes, whether it is an atomic, whether it is a copy, and the domain of a write in a compute phase
(R201, R291). -/
structure Acc where
  ck    : Nat
  part  : Nat
  res   : Bool
  need  : Nat
  isWrite : Bool
  amo   : Bool
  copy  : Bool
  dom   : Option Nat
  deriving DecidableEq, Repr

/-- The outcome of a translation; a fault says whether the walk found it, or the leaf's permissions. -/
inductive Tr where
  | pa (a : Nat)
  | miss
  | err (cause : Nat) (walk : Bool)
  deriving DecidableEq, Repr

/-- A direct address (R196). -/
def isDirect (res : Bool) (va : W64) : Bool := res && bitsOf va.toNat 47 46 == 3

/-- The translation of an address whose bits [63:48] are zero: direct at resident privilege, else through the cache; the
answer `res` of a walk that ended in a fault stands for the address it walked (R196, R199, R201, R202). -/
def translate (l : List TlbEnt) (q : Acc) (answer : Option (Nat × Nat)) (va : W64) : Tr :=
  if isDirect q.res va then .pa (bitsOf va.toNat 45 0)
  else match tlbFind l q.part va.toNat with
    | some e =>
      if e.pte.toNat &&& q.need != q.need then .err 0x0A false
      else if bitsOf e.pte.toNat 10 8 = 3 ∧ !q.res then .err 0x0A false
      else .pa (e.pa va.toNat)
    | none =>
      match answer with
      | some (a, cause) => if a = va.toNat then .err cause true else .miss
      | none => .miss

/-! ## Checks of the target -/

/-- At node privilege the target's logical core must be owned by the requester's partition (R194). -/
def ownedBy (s : State) (k part : Nat) : Bool :=
  let c := s.chip (corePos k)
  match c.lcOf? (corePhys k) with
  | some n => (c.lc n).owned && (c.lc n).part == part
  | none => false

/-- The refusal of R194 and R73 for an access that reaches an offset of a core window, `owned` at node privilege by the
requester's partition or not. -/
def windowRefused (q : Acc) (off : Nat) (owned : Bool) : Bool :=
  match areaOf off with
  | .ctl => !q.res
  | .istore => (!q.res && !owned) || (q.isWrite && !(q.copy && q.res))
  | .pad | .acc | .vfile | .frame | .lIst | .lDat | .sIst | .sDat | .hole => !q.res && !owned

/-- The refusal of R194, R73 and R216 for an access that reaches a place. -/
def targetRefused (s : State) (q : Acc) (pl : Place) : Bool :=
  match pl with
  | .dram _ => false
  | .window k off => windowRefused q off (ownedBy s k q.part)
  | .held pos n off =>
    let e := (s.chip pos).lc n
    windowRefused q off (e.owned && e.part == q.part)
  | .chipCtl _ _ => !q.res || q.amo
  | .host _ => q.amo
  | .hole => false

/-- An L or T access, or the first byte of a copy, in the context's own scratchpad needs the bank (R289). -/
def bankRefused (s : State) (ck : Nat) (pl : Place) : Bool :=
  match pl with
  | .window k off =>
    k == ckCore ck && areaOf off == .pad &&
      (let b := sget Bank.reset (s.core k).banks (off / 0x20000)
       !(b.inuse && b.owner == some (ckCtx ck)))
  | .dram _ | .held _ _ _ | .chipCtl _ _ | .host _ | .hole => false

/-- A write of `n` bytes stays inside domain `d` (Table 13-9, R291). -/
def inDomain (s : State) (ck d n : Nat) (pl : Place) : Bool :=
  let c := s.ctx ck
  let k := ckCore ck
  match pl with
  | .window t off =>
    match d with
    | 0 =>
      t == k && (match areaOf off with
        | .pad => !bankRefused s ck pl
        | .frame => (off - 0x580000) / 0x10000 == ckCtx ck
        | .vfile => decide (c.vBase ≤ (off - 0x500000) / 128) && decide ((off + n - 1 - 0x500000) / 128 < c.vBase + c.vSize)
        | .acc | .istore | .lIst | .lDat | .sIst | .sDat | .ctl | .hole => false)
    | 1 => t == k
    | 2 => (consortOf s ck).any fun m => ckCore m == t
    | 3 => corePos t == ckPos ck
    | _ => true
  | .dram p | .held p _ _ => match d with
    | 0 | 1 | 2 => false
    | 3 => p == ckPos ck
    | _ => true
  | .host _ => false
  | .chipCtl _ _ => decide (4 ≤ d)
  | .hole => true

/-- An access is local (R195). -/
def isLocalPlace (ck : Nat) (pl : Place) : Bool :=
  match pl with
  | .window k off =>
    k == ckCore ck && (match areaOf off with
      | .pad => true
      | .acc => true
      | .frame => (off - 0x580000) / 0x10000 == ckCtx ck
      | .vfile | .istore | .lIst | .lDat | .sIst | .sDat | .ctl | .hole => false)
  | .dram _ | .held _ _ _ | .chipCtl _ _ | .host _ | .hole => false

/-! ## The outcome for one address -/

/-- The outcome of an address at issue: the physical address, an alias as it stands, and the place; a cache miss, or a fault with its
rank in R381 and whether TVAL holds the address. -/
inductive Aout where
  | ok (pa : Nat) (pl : Place)
  | miss
  | err (rank cause : Nat) (useVa : Bool)
  deriving DecidableEq, Repr

/-- The checks of R381 on one address: alignment, bits [63:48], translation, permission and ownership (with the bank of
R289 and the domain of R291), a hole. `bank` asks for the check of R289. -/
def addrOut (s : State) (l : List TlbEnt) (q : Acc) (answer : Option (Nat × Nat)) (bank : Bool) (align n : Nat)
    (va : W64) : Aout :=
  if va.toNat % align ≠ 0 then .err 1 0x08 true
  else if bitsOf va.toNat 63 48 ≠ 0 then .err 2 0x09 true
  else match translate l q answer va with
    | .miss => .miss
    | .err c w => .err (if w then 3 else 4) c true
    | .pa a =>
      let pl := placeOf s (ckPos q.ck) a
      if targetRefused s q pl then .err 4 0x0A true
      else if bank && bankRefused s q.ck pl then .err 4 0x11 false
      else match q.dom with
        | some d =>
          if !inDomain s q.ck d n pl then .err 4 0x14 false
          else if pl = .hole then .err 5 0x0F true else .ok a pl
        | none => if pl = .hole then .err 5 0x0F true else .ok a pl

/-- The fault of several addresses (R381): the lowest rank, then the first address. -/
def worst : List (W64 × Aout) → Option (Nat × Nat × Bool × W64)
  | [] => none
  | (va, .err r c u) :: rest =>
    match worst rest with
    | some (r2, c2, u2, v2) => if r2 < r then some (r2, c2, u2, v2) else some (r, c, u, va)
    | none => some (r, c, u, va)
  | (_, .ok _ _) :: rest => worst rest
  | (_, .miss) :: rest => worst rest

/-- The first address that misses the cache; none where an address has a fault that ranks before translation. -/
def firstMiss (l : List (W64 × Aout)) : Option W64 :=
  match worst l with
  | some (r, _, _, _) => if r ≤ 3 then none else (l.find? fun x => x.2 == .miss).map (·.1)
  | none => (l.find? fun x => x.2 == .miss).map (·.1)

/-- A translation that faults is held in no cache (R202): the entries of addresses whose permissions fail are dropped, so that a
replayed access walks again. -/
def dropTrans (s : State) (ck : Nat) (l : List (W64 × Aout)) : State :=
  l.foldl (fun s (va, o) =>
    match o with
    | .err _ 0x0A _ =>
      let p := (s.ctx ck).part
      let keep := fun e : TlbEnt => !(e.part == p && decide (e.va ≤ va.toNat) && decide (va.toNat < e.va + e.size))
      s.modCore (ckCore ck) fun k => { k with tlb := k.tlb.filter keep, ctlb := k.ctlb.filter keep }
    | _ => s) s

/-- The fault of several addresses, once no walk that could change it is to be made. -/
def decided (l : List (W64 × Aout)) : Option (Nat × Nat × Bool × W64) := if (firstMiss l).isSome then none else worst l

/-! ## The walker's answers -/

/-- The walker answers a miss of a context's L, T or C address (R199, R202, R203, R206): it fills the cache, or leaves the
fault for the bundle to take, or lets it wait on a migrating entry. -/
def answerWalk (s : State) (ck : Nat) (va : W64) (copy : Bool) (pick : Nat) : State :=
  let pos := ckPos ck
  let c := s.ctx ck
  let ready := fun (s : State) => s.modCtx ck fun c =>
    { c with walkVa := none, st := if c.st == .blocked then .ready else c.st }
  match walk s pos c.part va.toNat pick with
  | .leaf a sz e =>
    let t : TlbEnt := { part := c.part, va := a, size := sz, pte := e }
    ready (s.modCore (ckCore ck) fun k =>
      if copy then { k with ctlb := tlbAdd 64 k.ctlb t } else { k with tlb := tlbAdd 64 k.tlb t })
  | .fault f => ready (s.modCtx ck fun c => { c with walkRes := some (va.toNat, f) })
  | .migrating =>
    s.modCtx ck fun c =>
      { c with walkMig := match c.walkMig with
          | some m => some m
          | none => some (s.ctOf pos, s.ctOf pos) }
  | .bad x => ready ((s.noteRead x 8).modCtx ck fun c => { c with walkRes := some (va.toNat, 0x0F) })

end Sys2Proof.Machine
end

