-- ==== Sys2Proof/Machine/Objects.lean ====
section
/-!
DEFINITION. Barriers and rings: registration with the home core's synchronisation unit, the operations on them, their
evaluation and byte credits (R275 to R285).
-/
namespace Sys2Proof.Machine
open Sys2Proof

/-! ## The objects in memory -/

/-- The core whose window a physical address lies in. -/
def homeCore (pa : Nat) : Nat := coreKey (bitsOf pa 37 36) (bitsOf pa 35 24)

/-- The scratchpad bank of an address of a window (Table 10-2). -/
def bankOf (pa : Nat) : Nat := pa % 2 ^ 24 / 0x20000

/-- Word i of an object. -/
def objW (s : State) (a i : Nat) : Nat := s.readNat (a + 8 * i) 8

/-- The bytes that an object's fields take: a barrier 32, a ring's descriptor 64 (R275, R280). -/
def ObjKind.fieldBytes : ObjKind → Nat
  | .barrier => 32
  | .ring => 64

/-- A barrier's fields (Table 13-5). -/
def barPhase (s : State) (a : Nat) : Nat := bitsOf (objW s a 0) 47 32
def barArrived (s : State) (a : Nat) : Nat := bitsOf (objW s a 0) 31 16
def barExpect (s : State) (a : Nat) : Nat := bitsOf (objW s a 0) 15 0
def barMask (s : State) (a : Nat) : Nat := bitsOf (objW s a 1) 31 0
def barBytes (s : State) (a : Nat) : Nat := bitsOf (objW s a 2) 47 0

/-- A ring's fields (Table 13-7). -/
def ringState (s : State) (a : Nat) : Nat := bitsOf (objW s a 0) 63 62
def ringNst (s : State) (a : Nat) : Nat := bitsOf (objW s a 0) 61 58
def ringNprod (s : State) (a : Nat) : Nat := bitsOf (objW s a 0) 57 54
def ringSbytes (s : State) (a : Nat) : Nat := bitsOf (objW s a 0) 21 0
def ringStage (s : State) (a i : Nat) : Nat := bitsOf (objW s a 1) (4 * i + 3) (4 * i)
def ringEnded (s : State) (a : Nat) : Nat := bitsOf (objW s a 1) 39 32
def ringRcvd (s : State) (a : Nat) : Nat := bitsOf (objW s a 2) 47 0
def ringDecl (s : State) (a : Nat) : Nat := bitsOf (objW s a 3) 47 0
def ringFill (s : State) (a i : Nat) : Nat := s.readNat (a + 32 + 4 * i) 4

/-- An RW field is out of range (R276): EXPECT 0; NST or NPROD not 1 to 8; SBYTES not a multiple of 64 up to 2,097,152. -/
def fieldsBad (s : State) (kind : ObjKind) (a : Nat) : Bool :=
  match kind with
  | .barrier => barExpect s a == 0
  | .ring =>
    let n := ringNst s a
    let p := ringNprod s a
    let z := ringSbytes s a
    decide (n < 1) || decide (8 < n) || decide (p < 1) || decide (8 < p) || z % 64 != 0 || decide (z < 64)
      || decide (2097152 < z)

/-- The size of an object: a ring takes its stages with it (R280). -/
def objSize (s : State) (kind : ObjKind) (a : Nat) : Nat :=
  match kind with
  | .barrier => 32
  | .ring => 64 + ringNst s a * ringSbytes s a

/-- The registered object at an address. -/
def objAt (c : CoreSt) (a : Nat) : Option Obj := c.objs.find? fun o => o.addr == a

/-- Two byte ranges overlap. -/
def overlap (a n b m : Nat) : Bool := decide (a < b + m) && decide (b < a + n)

/-- The refusal of an operation of a kind that names an address (R276); an object that cannot be read is refused with the
abort's cause. -/
def objRefused (s : State) (kind : ObjKind) (a : Nat) : Option Nat :=
  let c := s.core (homeCore a)
  match objAt c a with
  | some o => if o.kind ≠ kind ∨ o.broken ∨ fieldsBad s kind a then some 0x01 else none
  | none =>
    if c.objs.any fun o => overlap a kind.fieldBytes o.addr o.size then some 0x01
    else if s.readBad a kind.fieldBytes then some 0x0F
    else if fieldsBad s kind a then some 0x01
    else if c.objs.any fun o => overlap a (objSize s kind a) o.addr o.size then some 0x01
    else none

/-- An operation must wait at the home core: the object is frozen, or no entry is free for it (R276, R324). -/
def objWaits (s : State) (a : Nat) : Bool :=
  let c := s.core (homeCore a)
  match objAt c a with
  | some o => o.frozen
  | none => decide (32 ≤ c.objs.length)

/-- Register an object that an operation names (R276). -/
def register (s : State) (kind : ObjKind) (a : Nat) : State :=
  let k := homeCore a
  if (objAt (s.core k) a).isSome then s
  else s.modCore k fun c =>
    { c with objs := c.objs ++ [{ kind := kind, addr := a, size := objSize s kind a, holders := [], landing := [],
                                  broken := false, frozen := false, upd := none, parties := [] }] }

/-- Change the entry of a registered object. -/
def modObj (s : State) (a : Nat) (f : Obj → Obj) : State :=
  s.modCore (homeCore a) fun c => { c with objs := c.objs.map fun o => if o.addr = a then f o else o }

/-- Write back one word of a registered object (R276); a refused write-back makes it unusable. -/
def putW (s : State) (a i v : Nat) : State :=
  if objW s a i = v % 2 ^ 64 then s
  else if s.writeBad (a + 8 * i) 8 then modObj (s.noteRefused (a + 8 * i) 8) a fun o => { o with broken := true }
  else s.writeMem (a + 8 * i) (leBytes 8 v)

/-! ## Barriers -/

/-- BARA at the home core (R277): an arrival at 65,535 is discarded. -/
def arrive (s : State) (a : Nat) : State :=
  if barArrived s a = 65535 then s else putW s a 0 (setBits (objW s a 0) 31 16 (barArrived s a + 1))

/-- Add to BYTES, signed 48 bits (R277). -/
def addBytes (s : State) (a : Nat) (d : Int) : State :=
  putW s a 2 (setBits (objW s a 2) 47 0 (ofSigned 48 (toSigned 48 (barBytes s a) + d)))

/-- One evaluation of a barrier, at common time `ct` (R278). -/
def evalBarrier (s : State) (a ct : Nat) : State :=
  if barExpect s a ≤ barArrived s a ∧ barBytes s a = 0 ∧ barExpect s a ≠ 0 then
    let w := setBits (setBits (objW s a 0) 47 32 (barPhase s a + 1)) 31 16 (barArrived s a - barExpect s a)
    putW (putW s a 0 w) a 3 ct
  else s

/-- The phase has passed `p` (R279). -/
def phasePassed (s : State) (a p : Nat) : Bool :=
  let d := (barPhase s a + 65536 - p % 65536) % 65536
  decide (1 ≤ d) && decide (d ≤ 32767)

/-! ## Rings -/

/-- Set the state of stage i. -/
def setStage (s : State) (a i v : Nat) : State := putW s a 1 (setBits (objW s a 1) (4 * i + 3) (4 * i) v)

/-- Set FILL of stage i. -/
def setFill (s : State) (a i v : Nat) : State :=
  let w := 4 + i / 2
  let lo := 32 * (i % 2)
  putW s a w (setBits (objW s a w) (lo + 31) lo v)

/-- A stage becomes full: RCVD grows by FILL (R282). -/
def stageFull (s : State) (a i : Nat) : State :=
  let s1 := setStage s a i 3
  putW s1 a 2 (setBits (objW s1 a 2) 47 0 (ringRcvd s1 a + ringFill s1 a i))

/-- One evaluation of a ring (R282, R283): landing stages that have their bytes become full; a ring whose producers have
all ended is ended, or overrun. -/
def evalRing (s : State) (o : Obj) : State :=
  let a := o.addr
  let s1 := (List.range 8).foldl (fun s i =>
    if ringStage s a i = 2 ∧ sget 0 o.landing i ≤ ringFill s a i then stageFull s a i else s) s
  let n := ringNprod s1 a
  if ringState s1 a = 0 ∧ ringEnded s1 a % 2 ^ n = 2 ^ n - 1 then
    if ringRcvd s1 a = ringDecl s1 a then putW s1 a 0 (setBits (objW s1 a 0) 63 62 1)
    else if ringDecl s1 a < ringRcvd s1 a then
      let (d, s2) := (putW s1 a 0 (setBits (objW s1 a 0) 63 62 3)).takeFree
      let (x, s3) := s2.takeFree
      logRec s3 (corePos (homeCore a)) { kind := 3, sub := 2, lcore := bitsOf x.toNat 13 7, ctx := bitsOf x.toNat 6 5,
                                         agent := bitsOf x.toNat 4 0, a := BitVec.ofNat 64 a, b := d }
    else s1
  else s1

/-- One evaluation of an object, after every update of its cycle (R278, R283): the phase advances at the CT of the last update. -/
def evalObj (s : State) (o : Obj) : State :=
  if o.broken || o.frozen then s
  else
    let s1 := match o.kind with
      | .barrier => evalBarrier s o.addr (o.upd.getD (s.ctOf (corePos (homeCore o.addr))))
      | .ring => evalRing s o
    if o.upd.isNone then s1 else modObj s1 o.addr fun o => { o with upd := none }

/-- An update of the object at an address arrives: one of an earlier count is evaluated first, in its own cycle (R278, R283). -/
def touchObj (s : State) (a : Nat) : State :=
  let ct := s.ctOf (corePos (homeCore a))
  let s1 := match objAt (s.core (homeCore a)) a with
    | some o => if o.upd.any fun t => decide (t < ct) then evalObj s o else s
    | none => s
  modObj s1 a fun o => { o with upd := some ct }

/-- A NODE has used a barrier, by an arrival, expected bytes or a copy (R320). -/
def addParty (s : State) (a node : Nat) : State :=
  modObj s a fun o => { o with parties := if o.parties.contains node then o.parties else o.parties ++ [node] }

/-- The stage can be acquired in a role, or the ring has ended or was reset (R281). -/
def stageReady (s : State) (a i : Nat) (prod : Bool) : Bool :=
  ringState s a != 0 || ringStage s a i == (if prod then 0 else 3)

/-- Acquire a stage (R281): on an ended or reset ring nothing is acquired. The acquirer's NODE goes into the descriptor at
the first acquire in the role, and is recorded with the stage of a producer (R320). -/
def acquireStage (s : State) (a i : Nat) (prod : Bool) (node : Nat) : State :=
  if ringState s a ≠ 0 then s
  else if prod then
    let s1 := setFill (setStage s a i 1) a i 0
    let s2 := if bitOf (objW s1 a 0) 52 then s1
      else putW s1 a 0 (setBits (setBits (objW s1 a 0) 52 52 1) 51 32 node)
    modObj s2 a fun o => { o with holders := sput o.holders i node }
  else
    let s1 := setStage s a i 4
    if bitOf (objW s1 a 0) 53 then s1
    else putW (putW s1 a 0 (setBits (objW s1 a 0) 53 53 1)) a 1 (setBits (objW s1 a 1) 59 40 node)

/-- Release a stage (R282); the cause of a refusal, if any. -/
def releaseStage (s : State) (a i n : Nat) (prod direct : Bool) : State × Option Nat :=
  if ringNst s a ≤ i then (s, some 0x01)
  else if prod then
    if ringStage s a i ≠ 1 ∨ ringSbytes s a < n then (s, some 0x01)
    else if direct then (stageFull (setFill s a i n) a i, none)
    else (modObj (setStage s a i 2) a fun o => { o with landing := sput o.landing i n }, none)
  else if ringStage s a i ≠ 4 then (s, some 0x01)
  else (setStage s a i 0, none)

/-- The end of a producer (R283). -/
def endProducer (s : State) (a p cnt : Nat) : State × Option Nat :=
  if ringNprod s a ≤ p ∨ bitOf (ringEnded s a) p then (s, some 0x01)
  else
    let s1 := putW s a 1 (setBits (objW s a 1) (32 + p) (32 + p) 1)
    (putW s1 a 3 (setBits (objW s1 a 3) 47 0 (ringDecl s1 a + cnt)), none)

/-- Reset a ring (R284). -/
def resetRing (s : State) (a : Nat) : State :=
  let s1 := putW s a 0 (setBits (objW s a 0) 63 62 2)
  let s2 := putW s1 a 1 (setBits (setBits (objW s1 a 1) 39 32 0) 31 0 0)
  let s3 := putW (putW s2 a 2 (setBits (objW s2 a 2) 47 0 0)) a 3 (setBits (objW s2 a 3) 47 0 0)
  let s4 := [4, 5, 6, 7].foldl (fun s i => putW s a i 0) s3
  modObj s4 a fun o => { o with holders := [], landing := [] }

/-! ## Operations at the home core -/

/-- What a request of another core waits for holds (R279, R281): the phase has passed, or the stage is ready. -/
def reqReady (s : State) (m : ObjMsg) : Bool :=
  if m.op = 4 then phasePassed s m.addr m.arg else stageReady s m.addr m.arg m.prod

/-- Answer a request (R259): the stage is acquired, and the answer goes back to the context. It says whether a stage was acquired,
and holds what a withdrawal must restore: the old FILL, and whether the acquire was the first in its role. -/
def answerReq (s : State) (m : ObjMsg) : State :=
  let acq := m.op = 5 ∧ ringState s m.addr = 0
  let old := ringFill s m.addr m.arg * 2 + bit01 (!bitOf (objW s m.addr 0) (if m.prod then 52 else 53))
  let s1 := if m.op = 5 then acquireStage s m.addr m.arg m.prod m.node else s
  { s1 with objMsgs := s1.objMsgs ++ [{ m with op := 7, after := [], direct := decide acq, cnt := old }] }

/-- Withdraw a request (R309): one not answered is forgotten, and a stage that was acquired for it returns to what it was. -/
def withdrawReq (s : State) (m : ObjMsg) : State :=
  let k := homeCore m.addr
  let here := fun x : ObjMsg => x.id == m.id && x.ck == m.ck
  if (s.core k).reqs.any here ∨ (s.core k).waitObjs.any here then
    s.modCore k fun c => { c with reqs := c.reqs.filter fun x => !here x, waitObjs := c.waitObjs.filter fun x => !here x }
  else if !m.direct ∨ (objAt (s.core k) m.addr).isNone ∨ ringStage s m.addr m.arg ≠ (if m.prod then 1 else 4) then s
  else
    let s1 := touchObj s m.addr
    let bit := if m.prod then 52 else 53
    let s2 := setStage s1 m.addr m.arg (if m.prod then 0 else 3)
    let s3 := if m.prod then modObj (setFill s2 m.addr m.arg (m.cnt / 2)) m.addr fun o => { o with holders := sdel o.holders m.arg }
      else s2
    if m.cnt % 2 = 0 then s3
    else if m.prod then putW s3 m.addr 0 (setBits (setBits (objW s3 m.addr 0) bit bit 0) 51 32 0)
    else putW (putW s3 m.addr 0 (setBits (objW s3 m.addr 0) bit bit 0)) m.addr 1 (setBits (objW s3 m.addr 1) 59 40 0)

/-- Carry out an operation on an object at its home core (R277, R279, R281 to R283), which the next evaluation takes in; the cause of
a refusal, if any (R276). -/
def performObj (s : State) (m : ObjMsg) : State × Option Nat :=
  match objRefused s m.kind m.addr with
  | some c => (s, some c)
  | none =>
    let s1 := touchObj (register s m.kind m.addr) m.addr
    match m.op with
    | 0 => (addParty (arrive s1 m.addr) m.addr m.node, none)
    | 1 => (addParty (addBytes s1 m.addr (m.cnt : Nat)) m.addr m.node, none)
    | 2 => releaseStage s1 m.addr m.arg m.cnt m.prod m.direct
    | 3 => endProducer s1 m.addr m.arg m.cnt
    | _ =>
      if m.op = 5 ∧ ringNst s m.addr ≤ m.arg then (s, some 0x01)
      else if reqReady s m then (answerReq (register s m.kind m.addr) m, none)
      else ((register s m.kind m.addr).modCore (homeCore m.addr) fun c => { c with reqs := c.reqs ++ [m] }, none)

/-- The evaluation of every object of a core, once per cycle, and of the requests that wait there (R278, R279, R281, R283). -/
def evalObjs (s : State) (k : Nat) : State :=
  let s1 := (s.core k).objs.foldl evalObj s
  (s1.core k).reqs.foldl (fun s m =>
    if objWaits s m.addr ∨ (objAt (s.core k) m.addr).isNone ∨ !reqReady s m then s
    else answerReq (s.modCore k fun c => { c with reqs := c.reqs.filter fun x => !(x.id == m.id && x.ck == m.ck) }) m) s1

/-- What a refusal would be if the operation were carried out now (R276): the synchronous trap of an object on the issuing
core. -/
def wouldRefuse (s : State) (m : ObjMsg) : Option Nat := (performObj s m).2

/-! ## Byte credits -/

/-- Bytes of [pa, pa + n) that lie in [a, a + m). -/
def bytesIn (pa n a m : Nat) : Nat := Nat.min (pa + n) (a + m) - Nat.max pa a

/-- Credit `n` copy bytes that have landed at `pa` in a scratchpad to the barriers and rings of the core (R277, R282); `node` is
the NODE of the copy. -/
def credit (s : State) (pa n node : Nat) : State :=
  let k := homeCore pa
  (s.core k).objs.foldl (fun s o =>
    if o.broken || o.frozen then s
    else match o.kind with
      | .barrier =>
        let m := barMask s o.addr
        let got := (setBitsOf 32 m).foldl (fun z b => z + bytesIn pa n (winBase k + b * 0x20000) 0x20000) 0
        if got = 0 then s else addParty (addBytes (touchObj s o.addr) o.addr (-(got : Int))) o.addr node
      | .ring =>
        let z := ringSbytes s o.addr
        (List.range (Nat.min 8 (ringNst s o.addr))).foldl (fun s i =>
          let got := bytesIn pa n (o.addr + 64 + i * z) z
          let s1 := if got = 0 then s else touchObj s o.addr
          if got ≠ 0 ∧ (ringStage s1 o.addr i = 1 ∨ ringStage s1 o.addr i = 2) then
            setFill s1 o.addr i (ringFill s1 o.addr i + got)
          else s1) s) s

/-! ## Stores into registered objects -/

/-- A store into a registered object leaves its fields unpredictable (R276): they take free values. -/
def spoilObjs (s : State) (pa n : Nat) : State :=
  if pa < 0x2000000000 then s
  else (s.core (homeCore pa)).objs.foldl (fun s o =>
    if overlap pa n o.addr o.kind.fieldBytes then
      let (bs, s1) := freeBytes o.kind.fieldBytes s
      { s1 with mem := s1.mem.writeBytes o.addr bs }
    else s) s

end Sys2Proof.Machine
end

