-- ==== Sys2Proof/Machine/Regs.lean ====
section
/-!
DEFINITION. The control registers that loads, stores and the host reach by address (R4, R36, Tables 3-1 and 10-2). Every
register is 8 bytes at an aligned offset; an access of other bytes reads and writes the parts of the registers that it
covers.
-/
namespace Sys2Proof.Machine
open Sys2Proof

/-! ## The quorum's view, which QSTAT shows -/

/-- Link-pair evidence between X and Y (R339). -/
def Evid.between (e : Evid) (x y : Nat) : Bool :=
  match e.pair with
  | some p => (e.accused == x && p == y) || (e.accused == y && p == x)
  | none => false

/-- Evidence against X from a third party to the pair X, Y (R339). -/
def Evid.third (e : Evid) (x y : Nat) : Bool := e.accused == x && e.reporter != x && e.reporter != y

/-- A voter that holds the evidence `l` counts chiplet `x` as failed (R339). -/
def countsFailed (l : List Evid) (x : Nat) : Bool :=
  (l.any fun e => e.accused == x && e.pair.isNone)
    || (List.range 4).any fun y =>
        y != x && l.any (fun e => e.between x y)
          && ((decide (y < x) && !l.any fun e => e.third y x) || l.any fun e => e.third x y)

/-- The healthy mask in a Bridge's view: the last decision's, and those tested for readmission, without those that it counts
as failed (R339, R341). -/
def viewOf (s : State) (pos : Nat) : Nat :=
  let b := (s.chip pos).br
  (setBitsOf 4 (b.dec ||| s.quorum.cand)).foldl (fun m x => if countsFailed b.evid x then m else m + 2 ^ x) 0

/-! ## Words and parts of words -/

/-- The mask of `n` bytes of a word from byte `o`. -/
def byteMask (o n : Nat) : Nat := (2 ^ (8 * n) - 1) * 2 ^ (8 * o)

/-- A word whose bits under mask `m` take those of `v`. -/
def mixBits (old v m : Nat) : Nat := (old - (old &&& m)) + (v &&& m)

/-- A word of fields, each given as a value and its lowest bit. -/
def packBits (l : List (Nat × Nat)) : Nat := l.foldl (fun z (v, lo) => z + v * 2 ^ lo) 0

/-- The other chiplet to which link j leads, in ascending package position (R296). -/
def linkPeer (pos j : Nat) : Nat := if j < pos then j else j + 1

/-! ## Reading -/

/-- HSTAT (Table 3-2). A link that retrains is not up (log entry 110). -/
def hstat (s : State) (pos : Nat) : Nat :=
  let c := s.chip pos
  let up := fun j => bit01 ((sget Link.reset c.links (linkPeer pos j)).st == 2)
  packBits [(bit01 (s.quorum.host && c.boot.joined), 7), (bit01 c.boot.fwRun, 6), (up 2, 5), (up 1, 4), (up 0, 3), (bit01 c.boot.dramOk, 2),
            (bit01 c.boot.romOk, 1), (bit01 c.boot.ctOk, 0)]

/-- QSTAT (Table 16-7). -/
def qstat (s : State) (pos : Nat) : Nat :=
  let b := (s.chip pos).br
  packBits [(b.carr, 52), (viewOf s pos, 48), (b.dec, 44), (b.level, 41), (bit01 b.spare.isSome, 40), (b.spare.getD 0, 38),
            (b.decCt.toNat, 0)]

/-- The proposal that awaits the host's vote (R50). -/
def hostProp (s : State) : Option Proposal :=
  match s.quorum.prop with
  | some p => if s.quorum.host && (sget? p.votes 4).isNone then some p else none
  | none => none

/-- PROP (Table 3-7). -/
def propWord (s : State) : Nat :=
  match hostProp s with
  | some p => packBits [(p.num, 48), (p.carr, 40), (p.mask, 36), (p.level, 33)]
  | none => 0

/-- Member cores of granted nodes of class 7 (Table 20-4). -/
def c7Of (s : State) (pos : Nat) : Nat :=
  (allNodes s pos).foldl (fun z (_, _, _, n) =>
    match n.place with
    | some q => if q.granted && n.cls == 7 then z + n.cores else z
    | none => z) 0

/-- PWRSTAT (Table 20-4). -/
def pwrstat (s : State) (pos : Nat) : Nat :=
  let c := s.chip pos
  packBits [(c.power.droops, 48), (c7Of s pos, 32), (heldAmps s pos fun _ => true, 16), (c.eng.quota / 2, 8),
            (bit01 c.power.thr, 2), (c.power.tstate, 0)]

/-- A host token port as page p shows it (Table 3-3). -/
def portWord (s : State) (pos p n : Nat) : Nat :=
  let e := s.eng pos
  let r := sget Port.reset e.ports (256 * p + n)
  packBits [(r.posts.toNat, 32), (r.rejects, 16), (bit01 (sget? e.portOwn n == some p), 4)]

/-- The Tablature registers (Table 17-5). -/
def tbReg (s : State) (pos off : Nat) : Nat :=
  let c := s.chip pos
  if off = 0x00 then c.tbCtl.toNat
  else if off = 0x08 then c.tbBase.toNat
  else if off = 0x10 then packBits [(c.tbLost.toNat, 32), (c.tbWr.toNat, 0)]
  else if off = 0x18 then c.tbRd.toNat
  else if off = 0x20 then
    packBits [(bit01 c.tbRend, 4), (bit01 c.tbDiv, 3), (bit01 c.tbTrunc, 2), (bit01 c.tbHold, 1),
              (bit01 (c.tbMode == 1 && c.tbPol == 0 && decide (c.tbFree ≤ 64)), 0)]
  else if off = 0x28 then c.tbDivx.toNat
  else if 0x40 ≤ off ∧ off < 0x60 then (c.tbDiv4.getD ((off - 0x40) / 8) 0).toNat
  else 0

/-- The health monitors (Table 20-4). -/
def powerReg (s : State) (pos off : Nat) : Nat :=
  let p := (s.chip pos).power
  if off < 0x80 then
    let (cur, mx, _) := sget (0, -32768, true) p.temps (off / 8)
    packBits [(ofSigned 16 mx, 16), (ofSigned 16 cur, 0)]
  else if off < 0xC0 then
    let (cur, mn, _) := sget (0, 0xFFFF, true) p.volts ((off - 0x80) / 8)
    packBits [(mn, 16), (cur, 0)]
  else if off < 0xE0 then (sget 0 p.procs ((off - 0xC0) / 8)).toNat
  else if off = 0x100 then p.thctl.toNat
  else if off = 0x108 then pwrstat s pos
  else 0

/-- The maps, the graph engine's registers and the watermarks (Tables 4-1, 15-5, 16-7, 17-1). -/
def engineReg (s : State) (pos off : Nat) : Nat :=
  let c := s.chip pos
  if off < 0x100 then
    let e := c.lc (off / 8)
    packBits [(e.part, 13), (bit01 e.owned, 12), (e.cstate, 10), (bit01 e.valid, 9), (e.pcore, 0)]
  else if off = 0x100 then c.lchip
  else if off = 0x108 then c.br.retired
  else if off = 0x2000 then c.eng.savepool.toNat
  else if off = 0x3000 then qstat s pos
  else if off = 0x3008 then c.eng.mirrorReg.toNat
  else if 0x4040 ≤ off ∧ off < 0x4100 then (sget 0 c.wmn ((off - 0x4000) / 8)).toNat
  else if 0x5000 ≤ off ∧ off < 0x5800 then
    let e := c.lc ((off - 0x5000) / 64)
    if e.valid then (sget 0 (s.core (coreKey pos e.pcore)).chwm (off / 8 % 8)).toNat else 0
  else if off = 0x7000 then c.ct
  else 0

/-- LKSTAT and LKCNT (Table 14-2). -/
def linkReg (s : State) (pos off : Nat) : Nat :=
  let l := sget Link.reset (s.chip pos).links (linkPeer pos (off / 0x100))
  if 0x300 ≤ off then 0
  else if off % 0x100 = 0 then
    packBits [(l.retrain, 24), (l.gaps, 16), (l.repaired, 8), (bit01 l.w32, 2), (l.st, 0)]
  else if off % 0x100 = 8 then packBits [(l.crce, 48), (l.e2ee, 32), (l.resend, 16), (l.dup, 0)]
  else 0

/-- The port registers, MSI-X, mailbox and quorum page; the port registers answer only to the port's own host (R37). -/
def portReg (s : State) (pos : Nat) (host : Bool) (off : Nat) : Nat :=
  let c := s.chip pos
  if off < 0x1000 then
    if !host then 0
    else if off = 0 then hstat s pos
    else if off = 8 then c.boot.apBase.toNat
    else if off = 0x10 then packBits [(c.wdiscCt.toNat, 32), (c.wdiscN.toNat, 0)]
    else 0
  else if 0x10000 ≤ off ∧ off < 0x10200 then
    let w := (sget 0 c.msixTab ((off - 0x10000) / 8)).toNat
    if off % 16 = 0 then w else setBits w 32 32 (bit01 (c.msixMask.getLsbD ((off - 0x10000) / 16)))
  else if off = 0x18000 then c.msixPend.toNat
  else if 0x20000 ≤ off ∧ off < 0x20040 then (c.mail.req.getD ((off - 0x20000) / 8) 0).toNat
  else if off = 0x20048 then
    packBits [(bit01 c.mail.busy, 63), (bit01 c.mail.ovr, 62), (c.mail.cmd, 8), (c.mail.code, 0)]
  else if 0x20080 ≤ off ∧ off < 0x200C0 then (c.mail.resp.getD ((off - 0x20080) / 8) 0).toNat
  else if off = 0x20200 then packBits [(c.br.evCount, 48), (c.br.qevt, 0)]
  else if off = 0x20208 then propWord s
  else if 0x20400 ≤ off ∧ off < 0x20500 then
    let (a, b) := sget (0, 0) c.br.evRing ((off - 0x20400) / 16)
    (if off % 16 = 0 then a else b).toNat
  else 0

/-- Error status and records (Tables 16-2, 16-3). -/
def errReg (s : State) (pos off : Nat) : Nat :=
  let c := s.chip pos
  if off = 0 then packBits [(c.errCorr, 48), (c.errUnc, 32), (c.errNext, 0)]
  else if 0x1000 ≤ off ∧ off < 0x1400 then
    let (a, b) := sget (0, 0) c.errRing ((off - 0x1000) / 16)
    (if off % 16 = 0 then a else b).toNat
  else 0

/-- The value of the register at an aligned offset of a chiplet control region. -/
def regValue (s : State) (pos : Nat) (host : Bool) (off : Nat) : Nat :=
  if off < 0x100000 then portReg s pos host off
  else if off < 0x180000 then portWord s pos ((off - 0x100000) / 0x10000) (off % 0x10000 / 8)
  else if off < 0x1800000 then 0
  else if off < 0x1C00000 then engineReg s pos (off - 0x1800000)
  else if off < 0x2000000 then linkReg s pos (off - 0x1C00000)
  else if off < 0x3000000 then errReg s pos (off - 0x2000000)
  else if off < 0x4000000 then tbReg s pos (off - 0x3000000)
  else if off < 0x5000000 then powerReg s pos (off - 0x4000000)
  else 0

/-- `v` with the field cleared whose lowest bit and width are given, where the mask touches it. -/
def rcField (m lo w v : Nat) : Nat := if m &&& (2 ^ w - 1) * 2 ^ lo = 0 then v else 0

/-- A read of the bits under mask `m` clears the RC fields that it touches (R4). -/
def regClear (s : State) (pos : Nat) (host : Bool) (off m : Nat) : State :=
  s.modChip pos fun c =>
    if off = 0x10 ∧ host then { c with wdiscN := BitVec.ofNat 32 (rcField m 0 32 c.wdiscN.toNat) }
    else if off = 0x2000000 then { c with errCorr := rcField m 48 16 c.errCorr, errUnc := rcField m 32 16 c.errUnc }
    else if 0x1C00000 ≤ off ∧ off < 0x1C00300 ∧ off % 0x100 = 8 then
      let p := linkPeer pos ((off - 0x1C00000) / 0x100)
      let l := sget Link.reset c.links p
      { c with links := sput c.links p
                 { l with crce := rcField m 48 16 l.crce, e2ee := rcField m 32 16 l.e2ee,
                          resend := rcField m 16 16 l.resend, dup := rcField m 0 16 l.dup } }
    else if off = 0x3000010 then { c with tbLost := BitVec.ofNat 32 (rcField m 32 32 c.tbLost.toNat) }
    else if 0x4000000 ≤ off ∧ off < 0x4000080 ∧ m &&& 0xFFFF0000 ≠ 0 then
      let n := (off - 0x4000000) / 8
      let (cur, _) := sget (0, -32768, true) c.power.temps n
      let p := c.power
      { c with power := { p with temps := sput p.temps n (cur, 0, true) } }
    else if 0x4000080 ≤ off ∧ off < 0x40000C0 ∧ m &&& 0xFFFF0000 ≠ 0 then
      let n := (off - 0x4000080) / 8
      let (cur, _) := sget (0, 0xFFFF, true) c.power.volts n
      let p := c.power
      { c with power := { p with volts := sput p.volts n (cur, 0, true) } }
    else if off = 0x4000108 then
      let p := c.power
      { c with power := { p with droops := rcField m 48 16 p.droops } }
    else c

/-! ## Watermarks toward the host (R350, R351) -/

/-- The watermark registers of a chiplet that count channel `ch` of core `k` (R350, R351): one whose target is met fires its
vector and is disarmed. -/
def checkWmn (s : State) (k ch : Nat) : State :=
  let pos := corePos k
  (List.range 24).foldl (fun s i =>
    let v := i + 8
    let c := s.chip pos
    let w := (sget 0 c.wmn v).toNat
    let wm := (sget 0 (s.core k).chwm ch).toNat % 2 ^ 32
    if bitOf w 63 ∧ bitsOf w 42 40 = ch ∧ (c.lc (bitsOf w 47 43)).pcore = corePhys k
        ∧ (wm + 2 ^ 32 - w % 2 ^ 32) % 2 ^ 32 < 2 ^ 31 then
      fireVector (s.setChip pos { c with wmn := sput c.wmn v (BitVec.ofNat 64 (w % 2 ^ 63)) }) pos v
    else s) s

/-! ## Writing -/

/-- A write of TBCTL (R357): a MODE of 3 is ignored; MODE written resets SEQ and clears HOLD, ends a truncation (R359), and
begins a replay at its own CT (R360). -/
def writeTbctl (s : State) (pos v m : Nat) : State :=
  let c := s.chip pos
  let old := c.tbCtl.toNat
  let keep := mixBits old v (m &&& 0xFF02FFFF)
  let mode := bitsOf (mixBits old v m) 19 18
  if m &&& 0xC0000 = 0 ∨ mode = 3 then s.setChip pos { c with tbCtl := BitVec.ofNat 64 keep }
  else
    let e := { c.eng with repCt := c.ct, repFirst := s.readNat (c.recAddr c.tbRd.toNat) 8, repDone := [] }
    checkEnd (s.setChip pos
      { c with tbCtl := BitVec.ofNat 64 (setBits keep 19 18 mode), tbSeq := 0, tbHold := false, tbHeld := false,
               tbStop := false, tbOver := false, eng := e }) pos

/-- RD or WR has changed: vector 7 where WR − RD has risen to THRESH (R357). -/
def rising (s0 s : State) (pos : Nat) : State :=
  let th := bitsOf (s.chip pos).tbCtl.toNat 15 0
  if th ≠ 0 ∧ (s0.chip pos).tbUsed < th ∧ th ≤ (s.chip pos).tbUsed then fireVector s pos 7 else s

/-- Writes of the Tablature registers (Table 17-5). -/
def writeTb (s : State) (pos off v m : Nat) : State :=
  let c := s.chip pos
  if off = 0x00 then writeTbctl s pos v m
  else if off = 0x08 then
    s.setChip pos { c with tbBase := BitVec.ofNat 64 (mixBits c.tbBase.toNat v (m &&& 0xFFFFFFFFFFFFF000)) }
  else if off = 0x10 then
    if c.tbMode ≠ 0 then s
    else rising s (s.setChip pos { c with tbWr := BitVec.ofNat 32 (mixBits c.tbWr.toNat v (m &&& 0xFFFFFFFF)) }) pos
  else if off = 0x18 then
    let rd : W32 := BitVec.ofNat 32 (mixBits c.tbRd.toNat v (m &&& 0xFFFFFFFF))
    if c.tbCap < (c.tbWr - rd).toNat then s else checkEnd (rising s (s.setChip pos { c with tbRd := rd }) pos) pos
  else if off = 0x20 then
    s.setChip pos { c with tbRend := c.tbRend && !bitOf (v &&& m) 4, tbDiv := c.tbDiv && !bitOf (v &&& m) 3,
                           tbTrunc := c.tbTrunc && !bitOf (v &&& m) 2 }
  else s

/-- A write of an MSI-X table entry: a pending vector that is unmasked fires (R40). -/
def writeMsix (s : State) (pos i v m : Nat) : State :=
  let c := s.chip pos
  let w := mixBits (sget 0 c.msixTab i).toNat v m
  let s1 := s.setChip pos { c with msixTab := sput c.msixTab i (BitVec.ofNat 64 w) }
  if i % 2 = 0 ∨ m &&& 2 ^ 32 = 0 then s1
  else
    let b : W32 := BitVec.ofNat 32 (2 ^ (i / 2))
    let c1 := s1.chip pos
    if bitOf w 32 then s1.setChip pos { c1 with msixMask := c1.msixMask ||| b }
    else
      let s2 := s1.setChip pos { c1 with msixMask := c1.msixMask &&& ~~~b }
      if c1.msixPend.getLsbD (i / 2) then
        fireVector (s2.modChip pos fun c => { c with msixPend := c.msixPend &&& ~~~b }) pos (i / 2)
      else s2

/-- A write of the doorbell submits the request; while BUSY it is discarded and sets OVR (R49). -/
def ringDoorbell (s : State) (pos : Nat) : State :=
  s.modChip pos fun c =>
    let ml := c.mail
    if ml.busy then { c with mail := { ml with ovr := true } }
    else
      let cmd := bitsOf (wAt ml.req 0) 7 0
      { c with mail := { ml with busy := true, ovr := false, cmd := cmd, job := some cmd } }

/-- A write that another unit takes up (R42, R50, R67), with its CT (R9). -/
def postCtl (s : State) (pos off n v : Nat) : State :=
  s.modChip pos fun c => { c with ctlQ := c.ctlQ ++ [{ off := off, n := n, v := v, ct := c.ct }] }

/-- A write of WMNv: one that already meets its condition fires at once (R351). -/
def writeWmn (s : State) (pos i v m : Nat) : State :=
  let c := s.chip pos
  let w := mixBits (sget 0 c.wmn i).toNat v (m &&& 0x8000FF00FFFFFFFF)
  checkWmn (s.setChip pos { c with wmn := sput c.wmn i (BitVec.ofNat 64 w) }) (coreKey pos (c.lc (bitsOf w 47 43)).pcore)
    (bitsOf w 42 40)

/-- A write of the bits under mask `m` of the register at an aligned offset. -/
def regWrite (s : State) (pos : Nat) (host : Bool) (off v m : Nat) : State :=
  let c := s.chip pos
  if off = 8 then
    if host then
      let b := c.boot
      s.setChip pos { c with boot := { b with apBase := BitVec.ofNat 64 (mixBits b.apBase.toNat v (m &&& 0x3FF800000000)) } }
    else s
  else if 0x10000 ≤ off ∧ off < 0x10200 then writeMsix s pos ((off - 0x10000) / 8) v m
  else if 0x20000 ≤ off ∧ off < 0x20040 then
    let i := (off - 0x20000) / 8
    let ml := c.mail
    s.setChip pos { c with mail := { ml with req := lset ml.req i (BitVec.ofNat 64 (mixBits (wAt ml.req i) v m)) } }
  else if off = 0x20040 then ringDoorbell s pos
  else if off = 0x20200 then modBr s pos fun b => { b with qevt := b.qevt - (b.qevt &&& (v &&& m &&& 0x1D)) }
  else if off = 0x20210 then if m = 2 ^ 64 - 1 then postCtl s pos off 8 v else s
  else if off = 0x1801000 then if v &&& m &&& 0xFF = 0 then s else postCtl s pos off 8 (v &&& m &&& 0xFF)
  else if 0x1804040 ≤ off ∧ off < 0x1804100 then writeWmn s pos ((off - 0x1804000) / 8) v m
  else if 0x3000000 ≤ off ∧ off < 0x4000000 then writeTb s pos (off - 0x3000000) v m
  else s

/-! ## Accesses -/

/-- The words that `n` bytes at an offset touch, each with the first byte in it, the number of bytes, and the place of those
bytes in the access. -/
def wordParts (off n : Nat) : List (Nat × Nat × Nat × Nat) :=
  (List.range ((off % 8 + n + 7) / 8)).map fun i =>
    let w := off - off % 8 + 8 * i
    let lo := Nat.max off w
    let hi := Nat.min (off + n) (w + 8)
    (w, lo - w, hi - lo, lo - off)

/-- The offset lies in a token page (Table 3-1). -/
def tokenPage (off : Nat) : Bool := decide (0x100000 ≤ off) && decide (off < 0x180000)

/-- A token port does not answer to this access: it answers only to 8-byte ones (R42). -/
def deafPort (w off n : Nat) : Bool := tokenPage w && (n != 8 || off % 8 != 0 || decide (0x800 ≤ w % 0x10000))

/-- The port of a closed chiplet answers only port registers and the mailbox (R336). -/
def mute (s : State) (pos : Nat) (host : Bool) (off : Nat) : Bool :=
  host && (s.chip pos).br.held && !(decide (off < 0x1000) || (decide (0x20000 ≤ off) && decide (off < 0x20100)))

/-- A read of `n` bytes of a chiplet control region; `host` says that the port's own host reads. -/
def ctlReadBy (s : State) (pos : Nat) (host : Bool) (off n : Nat) : Nat × State :=
  if mute s pos host off then (0, s) else
  (wordParts off n).foldl (fun (acc : Nat × State) (w, b, k, at_) =>
    let v := if deafPort w off n then 0 else bitsOf (regValue acc.2 pos host w) (8 * (b + k) - 1) (8 * b)
    (acc.1 + v * 2 ^ (8 * at_), regClear acc.2 pos host w (byteMask b k))) (0, s)

/-- A write of `n` bytes of a chiplet control region. -/
def ctlWriteBy (s : State) (pos : Nat) (host : Bool) (off n v : Nat) : State :=
  if mute s pos host off then s else
  (wordParts off n).foldl (fun s (w, b, k, at_) =>
    let x := bitsOf v (8 * (at_ + k) - 1) (8 * at_) * 2 ^ (8 * b)
    if tokenPage w then if deafPort w off n then s else postCtl s pos w 8 x
    else regWrite s pos host w x (byteMask b k)) s

/-- A read of `n` bytes of a chiplet control region by an agent of the package. -/
def ctlRead (s : State) (pos off n : Nat) : Nat × State := ctlReadBy s pos false off n
/-- A write of `n` bytes of a chiplet control region by an agent of the package. -/
def ctlWrite (s : State) (pos off n v : Nat) : State := ctlWriteBy s pos false off n v

/-! ## A core's control range (R325, Table 15-7) -/

/-- DBGCTL. -/
def Ctx.dbgctl (c : Ctx) : Nat := packBits [(bit01 c.dbgStepped, 2), (bit01 c.dbgDrain, 1), (bit01 c.dbgStep, 0)]

/-- The context whose DBGCTL lies at an offset of the window. -/
def dbgCtx (w : Nat) : Option Nat := if 0x700100 ≤ w ∧ w < 0x700120 then some ((w - 0x700100) / 8) else none

/-- A read of a core's control range. -/
def coreCtlRead (s : State) (k off n : Nat) : Nat × State :=
  (wordParts off n).foldl (fun (acc : Nat × State) (w, b, z, at_) =>
    match dbgCtx w with
    | some x =>
      let v := bitsOf (acc.2.ctx (k * 4 + x)).dbgctl (8 * (b + z) - 1) (8 * b)
      (acc.1 + v * 2 ^ (8 * at_),
       if b = 0 then acc.2.modCtx (k * 4 + x) fun c => { c with dbgStepped := false } else acc.2)
    | none => acc) (0, s)

/-- A write of a core's control range. -/
def coreCtlWrite (s : State) (k off n v : Nat) : State :=
  (wordParts off n).foldl (fun s (w, b, _, at_) =>
    match dbgCtx w with
    | some x =>
      if b = 0 then
        s.modCtx (k * 4 + x) fun c => { c with dbgStep := bitOf v (8 * at_), dbgDrain := bitOf v (8 * at_ + 1) }
      else s
    | none => s) s

end Sys2Proof.Machine
end

