-- ==== Sys2Proof/Machine/Access.lean ====
section
/-!
DEFINITION. How an L or T access performs: memory at a place, messages to other chiplets, the orders of R268 to R272,
atomics, aborts, and the value that reaches the register (R192, R209 to R216, R267 to R274, R299, R327, R328).
-/
namespace Sys2Proof.Machine
open Sys2Proof

/-! ## Memory at a place -/

/-- The bytes lie in a sealed image (R45, R47). -/
def sealedAt (s : State) (a n : Nat) : Bool :=
  s.images.any fun i => i.kind != 1 && overlap a n i.base i.len

/-- The number that bytes make. -/
def leValue (bs : List Byte) : Nat := bs.foldr (fun b a => b.toNat + 256 * a) 0

/-- The chiplet whose port carries host-bound requests of chiplet `pos` (R39). -/
def hostPort (s : State) (pos : Nat) : Option Nat :=
  if (s.chip pos).pcie then some pos else (List.range 4).find? fun p => (s.chip p).pcie

/-- Store bytes at a place, for a requester of chiplet `pos`; false where the write is refused with an abort completion (R192, R328). Node-privilege stores
into a sealed region are discarded (R47). -/
def memStore (s : State) (pos : Nat) (pl : Place) (pa : Nat) (bs : List Byte) (node : Bool) : State × Bool :=
  match pl with
  | .dram _ =>
    if node && sealedAt s pa bs.length then (s, true)
    else if s.writeBad pa bs.length then (s.noteRefused pa bs.length, false)
    else (s.writeMem pa bs, true)
  | .window k off =>
    if areaOf off = .ctl then (coreCtlWrite s k off bs.length (leValue bs), true)
    else if s.writeBad pa bs.length then (s.noteRefused pa bs.length, false)
    else (spoilObjs (s.writeMem pa bs) pa bs.length, true)
  | .chipCtl p off => (ctlWrite s p off bs.length (leValue bs), true)
  | .host h => ({ s with hostWrites := s.hostWrites ++ [(h, bs, s.ctOf pos)] }, true)
  | .held _ _ _ | .hole => (s, false)

/-- Load bytes from a place; none where the read is answered with an abort completion (R192, R327). Host memory returns
what the host holds, which the manual does not know: free bytes. -/
def memLoad (s : State) (pl : Place) (pa n : Nat) : Option (List Byte) × State :=
  match pl with
  | .dram _ => if s.readBad pa n then (none, s.noteRead pa n) else (some (s.mem.readBytes pa n), s.noteRead pa n)
  | .window k off =>
    if areaOf off = .ctl then
      let (v, s1) := coreCtlRead s k off n
      (some (leBytes n v), s1)
    else if s.readBad pa n then (none, s.noteRead pa n)
    else (some (s.mem.readBytes pa n), s.noteRead pa n)
  | .chipCtl p off =>
    let (v, s1) := ctlRead s p off n
    (some (leBytes n v), s1)
  | .host _ =>
    let (bs, s1) := freeBytes n s
    (some bs, s1)
  | .held _ _ _ | .hole => (none, s)

/-! ## Atomics -/

/-- The new value of an atomic of width w (Table 11-4): M the old value, `x` the operand, `e` the expected value; with the
flags of AMOFADD. -/
def amoNew (op w m x e : Nat) : Nat × BitVec 7 :=
  let sg := toSigned w
  match op with
  | 0 => ((m + x) % 2 ^ w, 0)
  | 1 => (if sg m ≤ sg x then m else x, 0)
  | 2 => (if sg x ≤ sg m then m else x, 0)
  | 3 => (Nat.min m x, 0)
  | 4 => (Nat.max m x, 0)
  | 5 => (m &&& x, 0)
  | 6 => (m ||| x, 0)
  | 7 => (m ^^^ x, 0)
  | 8 => (x, 0)
  | 9 => (if m = e then x else m, 0)
  | _ => FOp.add.el f32 { rm := 0, fi := false, fo := false, sat := false } m x 0

/-- One indivisible read-modify-write of `n` bytes (R216): the old value, or none where it aborts. The write covers the
word alone, so an uncorrectable sector refuses it. -/
def memAmo (s : State) (pos : Nat) (pl : Place) (pa op n : Nat) (x e : W64) (node : Bool) : Option Nat × State :=
  match memLoad s pl pa n with
  | (none, s1) => (none, s1)
  | (some bs, s1) =>
    let m := leValue bs
    let (v, _) := amoNew op (8 * n) m (x.toNat % 2 ^ (8 * n)) (e.toNat % 2 ^ (8 * n))
    let (s2, ok) := memStore s1 pos pl pa (leBytes n v) node
    if ok then (some m, s2) else (none, s2)

/-! ## Messages -/

/-- Send a message (R299): numbered, stamped with the CT (R9, R297), held until acknowledged, and put on the wire in order. -/
def sendMsg (s : State) (pos dst cls : Nat) (op : ZOp) (tag : Tag) : State :=
  s.modChip pos fun c =>
    let t := sget TxStream.reset c.tx (dst * 8 + cls)
    let m : TxMsg := { seq := t.next, op := op, tag := tag, resends := 0, sent := c.ct, cts := c.ct }
    let t1 : TxStream :=
      { t with next := (t.next + 1) % 65536, unacked := t.unacked ++ [m], wire := t.wire ++ [{ seq := t.next, op := op, cts := c.ct }] }
    { c with tx := sput c.tx (dst * 8 + cls) t1 }

/-- Send a message that no issue rule holds back: with 64 unacknowledged it waits its turn (R299). -/
def queueMsg (s : State) (pos dst cls : Nat) (op : ZOp) (tag : Tag) : State :=
  if canSend s pos dst cls ∧ (s.txOf pos dst cls).wait = [] then sendMsg s pos dst cls op tag
  else s.modChip pos fun c =>
    let t := sget TxStream.reset c.tx (dst * 8 + cls)
    { c with tx := sput c.tx (dst * 8 + cls) { t with wait := t.wait ++ [(op, tag)] } }

/-! ## Orders of one context -/

/-- An access reads, writes memory (an atomic does both). -/
def AccKind.reads : AccKind → Bool
  | .load _ _ => true | .bcast _ => true | .loadV => true | .amo _ _ => true | .qpop _ => true
  | .store => false | .qpush _ => false
def AccKind.writes : AccKind → Bool
  | .store => true | .amo _ _ => true | .qpush _ => true
  | .load _ _ => false | .bcast _ => false | .loadV => false | .qpop _ => false

/-- The address behind the aliases as the maps route it now (R55). -/
def realPa (s : State) (pos pa : Nat) : Nat := (placeOf s pos pa).addr pa

/-- A piece of an access touches the `n` bytes at the address `pa` behind the aliases. -/
def touches (s : State) (pos : Nat) (a : Access) (pa n : Nat) : Bool :=
  a.pieces.any fun p => overlap (realPa s pos p.pa) p.len pa n

/-- Two accesses of contexts of chiplet `pos` touch a common byte. -/
def sameAddr (s : State) (pos : Nat) (a b : Access) : Bool := b.pieces.any fun q => touches s pos a (realPa s pos q.pa) q.len

/-! ## Scopes (Table 13-3) -/

/-- The agents of core `k` are in scope `x` of context `ck` (R267). -/
def inScope (s : State) (x ck k : Nat) : Bool :=
  match x with
  | 0 => k == ckCore ck
  | 1 => (consortOf s ck).any fun m => ckCore m == k
  | 2 => corePos k == ckPos ck
  | _ => true

/-- The narrowest scope of context `ck` whose own memory holds a place: 4 for the host, which only system scope takes in. -/
def scopeOf (s : State) (ck : Nat) (pl : Place) : Nat :=
  let pos := ckPos ck
  match pl with
  | .window k _ => if k = ckCore ck then 0 else if inScope s 1 ck k then 1 else if corePos k = pos then 2 else 3
  | .dram p | .held p _ _ | .chipCtl p _ => if p = pos then 2 else 3
  | .host _ => 4
  | .hole => 0

/-- A store has performed at scope `x` although it has not performed everywhere (R268): it goes outside the memory of the scope, so that
it is enough for the agents of the scope to wait for it before they read (`Access.seen`). -/
def performedAt (s : State) (ck : Nat) (b : Access) (x : Nat) : Bool :=
  b.kind == .store && b.pieces.any fun p => decide (x < scopeOf s ck (placeOf s (ckPos ck) p.pa))

/-- The accesses of a context's L and T operations that have not performed. -/
def Ctx.unperformed (c : Ctx) : List Access := c.outst ++ c.lq ++ c.tq

/-- The accesses of a context that have not performed at scope `x`. -/
def unperformedAt (s : State) (ck x : Nat) : List Access :=
  (s.ctx ck).unperformed.filter fun b => !performedAt s ck b x

/-- The stores `q` of a context count as performed at scope `x` from now on. -/
def markSeen (s : State) (ck x : Nat) (q : Access → Bool) : State :=
  let up := fun b : Access => if b.kind == .store && q b then { b with seen := Nat.max b.seen (x + 1) } else b
  s.modCtx ck fun c => { c with outst := c.outst.map up, lq := c.lq.map up, tq := c.tq.map up }

/-- A release, a post or a DRAIN at scope `x` passes the stores of bundles before `bundle` that have performed at the scope. -/
def passStores (s : State) (ck bundle x : Nat) : State := markSeen s ck x fun b => decide (b.bundle < bundle) && performedAt s ck b x

/-- An access by an agent of core `k` to the `n` bytes at `pa`, behind the aliases, waits for a store that has performed at a scope of
the agent and not yet in memory (R268). The agent is the context `own` in bundle `bundle`, whose own later stores it does not wait
for. -/
def seenHolds (s : State) (k : Nat) (own : Option (Nat × Nat)) (pa n : Nat) : Bool :=
  s.ctxs.any fun (ck, c) => c.unperformed.any fun b =>
    b.seen != 0 && inScope s (b.seen - 1) ck k && touches s (ckPos ck) b pa n
      && !own.any fun o => o.1 == ck && decide (o.2 ≤ b.bundle)

/-- A fence of the kind orders `b` before `a` (R272). -/
def fenceOrders (kind : Nat) (b a : Access) : Bool :=
  match kind with
  | 0 => b.kind.reads || (b.kind.writes && a.kind.writes)
  | 1 => b.kind.writes && a.kind.writes
  | _ => b.kind.reads

/-- The scopes at which `b` must have performed before `a` does: of a release, and of the fences between them (R270, R272). -/
def orderScopes (c : Ctx) (b a : Access) : List Nat :=
  (if a.rel then [a.scope] else [])
    ++ (c.fences.filter fun f => decide (b.bundle < f.bundle) && decide (f.bundle < a.bundle) && fenceOrders f.kind b a).map (·.scope)

/-- `b` must perform before `a` (R268 to R272): acquire, release and fences at their scopes, local order, one address at one scope, and
a load of the same bundle before a store. -/
def mustPrecede (s : State) (ck : Nat) (b a : Access) : Bool :=
  let older := decide (b.bundle < a.bundle)
  let inBundle := b.bundle == a.bundle && b.kind.reads && !b.kind.writes && a.kind.writes
  (older && (b.acq || (b.isLocal && a.isLocal) || (b.scope == a.scope && sameAddr s (ckPos ck) b a)
    || (orderScopes (s.ctx ck) b a).any fun x => !performedAt s ck b x))
    || inBundle

/-- No access that must perform first is outstanding. -/
def mayPerform (s : State) (ck : Nat) (a : Access) : Bool :=
  !(s.ctx ck).unperformed.any fun b => b.id != a.id && mustPrecede s ck b a

/-- An access performs: the stores that its order let it pass have performed at its scopes (R268, R270, R272). -/
def markPassed (s : State) (ck : Nat) (a : Access) : State :=
  let c := s.ctx ck
  c.unperformed.foldl (fun s b =>
    if b.bundle < a.bundle then (orderScopes c b a).foldl (fun s x => markSeen s ck x fun y => y.id == b.id) s else s) s

/-! ## Values and completion of an access -/

/-- The bytes of a register with `bs` placed at byte `off`. -/
def placeBytes (v : VReg) (off : Nat) (bs : List Byte) : VReg :=
  let n := 8 * bs.length
  BitVec.ofNat 1024 (setBits v.toNat (8 * off + n - 1) (8 * off) (leValue bs))

/-- A value of `n` bytes repeated over the register (R210). -/
def broadcast (n v : Nat) : VReg :=
  BitVec.ofNat 1024 ((List.range (128 / n)).foldr (fun _ a => v % 2 ^ (8 * n) + 2 ^ (8 * n) * a) 0)

/-- What a completed access writes to its register (R209, R210, R216). -/
def Access.value (a : Access) : VReg :=
  let n := a.data.toNat
  match a.kind with
  | .load true b => BitVec.ofNat 1024 (ofSigned 64 (toSigned (8 * b) n))
  | .load false b => BitVec.ofNat 1024 (n % 2 ^ (8 * b))
  | .bcast b => broadcast b n
  | .amo _ b => BitVec.ofNat 1024 (ofSigned 64 (toSigned (8 * b) n))
  | .loadV | .qpop _ => a.data
  | .store | .qpush _ => 0

/-- The value of a register write arrives (R109); a write captured at a trap entry takes it in the buffer. -/
def setReady (s : State) (ck id : Nat) (v : VReg) (fl : BitVec 7) : State :=
  let up := fun w : Write => if w.id = id then { w with val := v, ready := true, fl := w.fl ||| fl } else w
  s.modCtx ck fun c =>
    { c with inflight := c.inflight.map up, late := c.late.map fun l => { l with w := up l.w } }

/-- Remove an access from those outstanding. -/
def dropAccess (s : State) (ck id : Nat) : State :=
  s.modCtx ck fun c => { c with outst := c.outst.filter fun a => a.id != id }

/-- Every piece has performed: the register takes its value, and the token of a token-tracked load fires once the value has
landed (R109, R214, R261). -/
def finishAccess (s : State) (ck : Nat) (a : Access) (fl : BitVec 7) : State :=
  let s1 := dropAccess s ck a.id
  let s2 := match a.dest with
    | some _ => setReady s1 ck a.id a.value fl
    | none => setFlags s1 ck fl
  if a.tok = 0 then s2 else fireToken (landId s2 ck a.id (BitVec.allOnes 32)) ck a.tok

/-- Note the outcome of piece `j` of access `a`: its bytes, or an abort of the cause given. -/
def pieceDone (s : State) (ck id j : Nat) (r : Option (List Byte)) (fl : BitVec 7) (cause : Nat) : State :=
  match (s.ctx ck).outst.find? fun a => a.id == id with
  | none => s
  | some a =>
    let off := match a.pieces[j]? with
      | some p => p.off
      | none => 0
    let a1 := { a with
      sent := a.sent.filter (· ≠ j)
      done := if r.isSome && !a.done.contains j then j :: a.done else a.done
      data := match r with
        | some bs => if bs = [] then a.data else placeBytes a.data off bs
        | none => a.data
      aborted := if r.isNone ∧ a.aborted = 0 then cause else a.aborted }
    let s1 := s.modCtx ck fun c => { c with outst := c.outst.map fun x => if x.id = id then a1 else x }
    if a1.aborted = 0 ∧ a1.done.length = a1.pieces.length then finishAccess s1 ck a1 fl else s1

/-- The bytes of a piece that a store writes. -/
def pieceBytes (a : Access) (p : Piece) : List Byte := leBytes p.len (bitsOf a.data.toNat (8 * (p.off + p.len) - 1) (8 * p.off))

/-- A piece performs in memory of this chiplet (or toward the host). -/
def performHere (s : State) (ck : Nat) (a : Access) (j : Nat) (p : Piece) (pl : Place) : State :=
  match a.kind with
  | .store =>
    let (s1, ok) := memStore s (ckPos ck) pl p.pa (pieceBytes a p) (!a.res)
    pieceDone s1 ck a.id j (if ok then some [] else none) 0 0x0F
  | .amo op n =>
    let (m, s1) := memAmo s (ckPos ck) pl p.pa op n a.opnd a.expect (!a.res)
    match m with
    | some v => pieceDone s1 ck a.id j (some (leBytes n v)) (amoNew op (8 * n) v (a.opnd.toNat % 2 ^ (8 * n)) 0).2 0
    | none => pieceDone s1 ck a.id j none 0 0x0F
  | .load _ _ | .bcast _ | .loadV | .qpop _ | .qpush _ =>
    let (r, s1) := memLoad s pl p.pa p.len
    pieceDone s1 ck a.id j r 0 0x0F

/-- The message that carries a piece to another chiplet, with its class (Table 14-4). -/
def pieceMsg (ck : Nat) (a : Access) (j : Nat) (p : Piece) : Nat × ZOp :=
  (a.kind.cls, match a.kind with
    | .store => .write p.pa (pieceBytes a p) (!a.res) false
    | .amo op n => .amo p.pa op n a.opnd a.expect (!a.res)
    | .load _ _ | .bcast _ | .loadV | .qpop _ | .qpush _ => .read p.pa p.len (.acc ck a.id j))

/-- A piece performs, or leaves for the chiplet that holds its address (R299): to a closed region it aborts (R336), and a
link that is down fails the message (R300). A full window of unacknowledged messages lets it wait. -/
def performPiece (s : State) (ck : Nat) (a : Access) (j : Nat) (p : Piece) : State :=
  let pos := ckPos ck
  let pl := placeOf s pos p.pa
  let p := { p with pa := pl.addr p.pa }
  let dst := placePos pos pl
  if dst = pos then
    match pl with
    | .host _ =>
      if (hostPort s pos).isNone then pieceDone s ck a.id j none 0 0x15 else performHere (markPassed s ck a) ck a j p pl
    | .held _ _ _ => s
    | .dram _ | .window _ _ | .chipCtl _ _ | .hole => performHere (markPassed s ck a) ck a j p pl
  else
    let l := s.link pos dst
    if l.st = 3 then pieceDone s ck a.id j none 0 0x0F
    else if l.st = 0 then pieceDone s ck a.id j none 0 0x15
    else
      let (cls, op) := pieceMsg ck a j p
      if canSend s pos dst cls then
        (sendMsg (markPassed s ck a) pos dst cls op (.acc ck a.id j)).modCtx ck fun c =>
          { c with outst := c.outst.map fun x => if x.id = a.id then { x with sent := j :: x.sent } else x }
      else s

/-- Replace the entries of a queue of the core. -/
def setQueue (s : State) (k q : Nat) (l : List W64) : State := s.modCore k fun c => { c with queues := sput c.queues q l }
def State.queue (s : State) (k q : Nat) : List W64 := sget [] (s.core k).queues q

/-- A queue operation performs (R215, R274). -/
def performQueue (s : State) (ck : Nat) (a : Access) : State :=
  let k := ckCore ck
  match a.kind with
  | .qpop q =>
    match s.queue k q with
    | [] => s
    | w :: r => finishAccess (setQueue (markPassed s ck a) k q r) ck { a with data := w.setWidth 1024 } 0
  | .qpush q =>
    if 16 ≤ (s.queue k q).length then s
    else finishAccess (setQueue (markPassed s ck a) k q (s.queue k q ++ [a.data.setWidth 64])) ck a 0
  | .load _ _ | .bcast _ | .loadV | .store | .amo _ _ => s

/-- Of the elements of a scatter that name one address, the one with the highest index is left (R210): piece `j` waits for the earlier
ones at its address. -/
def pieceWaits (a : Access) (j : Nat) (p : Piece) : Bool :=
  a.kind == .store && (List.range j).any fun i => !a.done.contains i && match a.pieces[i]? with
    | some q => overlap q.pa q.len p.pa p.len
    | none => false

/-- An accepted access performs what it can of piece `j`: nothing while an access that must precede it is outstanding, a
piece is under way or done, an abort has been seen, it must wait for a store that its scope has seen, or its alias is held
(R56, R268). -/
def performAccess (s : State) (ck id j : Nat) : State :=
  match (s.ctx ck).outst.find? fun a => a.id == id with
  | none => s
  | some a =>
    if a.aborted ≠ 0 ∨ !mayPerform s ck a then s
    else match a.kind with
      | .qpop _ | .qpush _ => performQueue s ck a
      | .load _ _ | .bcast _ | .loadV | .store | .amo _ _ =>
        if a.sent.contains j ∨ a.done.contains j then s
        else match a.pieces[j]? with
          | some p =>
            if pieceWaits a j p ∨ seenHolds s (ckCore ck) (some (ck, a.bundle)) (realPa s (ckPos ck) p.pa) p.len then s
            else performPiece s ck a j p
          | none => s

/-- Every piece of an access, in order. -/
def performAll (s : State) (ck : Nat) (a : Access) : State :=
  (List.range (Nat.max 1 a.pieces.length)).foldl (fun s j => performAccess s ck a.id j) s

/-- The unit accepts an access, from which its bound counts (R111): a local one performs at once where no order forbids it, every
other waits for its turn. -/
def acceptAccess (s : State) (ck : Nat) (a : Access) : State :=
  let a := { a with acc := some (s.now ck) }
  let s1 := (acceptWrites s ck [a.id]).modCtx ck fun c => { c with outst := c.outst ++ [a] }
  if a.isLocal then performAll s1 ck a else s1

/-- An L or T operation issues (R111): it is accepted, or enters its slot queue. -/
def issueAccess (s : State) (ck u : Nat) (refused : Bool) (a : Access) : State :=
  if refused then s.modCtx ck fun c => if u = 1 then { c with lq := c.lq ++ [a] } else { c with tq := c.tq ++ [a] }
  else acceptAccess s ck a

/-- The first in issue order of some accesses. -/
def firstIssued : List Access → Option Access
  | [] => none
  | a :: r => match firstIssued r with
    | some b => if b.id < a.id then some b else some a
    | none => some a

/-- The first access in issue order whose abort has been seen (R212). -/
def Ctx.oldestAbort (c : Ctx) : Option Access := firstIssued (c.outst.filter fun a => a.aborted != 0)

/-- The abort completion of an access arrives (R212, R300): its destination keeps its value, its token loses PEND, and the
cause is queued for the context, in issue order. -/
def abortAccess (s : State) (ck id : Nat) : State :=
  match (s.ctx ck).outst.find? fun a => a.id == id with
  | none => s
  | some a =>
    if a.aborted = 0 then s
    else
      let s1 := dropAccess s ck id
      let s2 := s1.modCtx ck fun c =>
        { c with inflight := c.inflight.filter fun w => w.id != id, late := c.late.filter fun l => l.w.id != id }
      let s3 := clearPend s2 ck a.tok
      pushAsync s3 ck { cause := a.aborted, own := 0, tok := a.tok
                        slots := if a.kind.writes then 0x20 else 0x10, value := a.va, rp := none, id := a.id
                        bundle := some a.bundle, cy := 0 }

/-- Identities of the L and T accesses that have not performed (R264, R270, R271). -/
def Ctx.pendingIds (c : Ctx) : List Nat := c.unperformed.map (·.id)

/-- None of these accesses is still to perform. -/
def Ctx.allDone (c : Ctx) (ids : List Nat) : Bool := ids.all fun i => !c.pendingIds.contains i

end Sys2Proof.Machine
end

