-- ==== Sys2Proof/Machine/CopyEng.lean ====
section
/-!
DEFINITION. The copy engine: acceptance, start, chunks, chain records, completion and stopping (R202, R206, R217 to R232,
R300, R303 to R306, R316).
-/
namespace Sys2Proof.Machine
open Sys2Proof

/-! ## Shapes -/

/-- COUNT of a level: 0 is taken as 1 above level 0 (Table 11-5). -/
def Shape.cnt (h : Shape) (l : Nat) : Nat :=
  let n := h.count.getD l 0
  if l = 0 then n else Nat.max 1 n

/-- The index tuples of levels `lo` to 5 (R220). -/
def Shape.runsFrom (h : Shape) (lo : Nat) : Nat :=
  ([1, 2, 3, 4, 5].filter (lo ≤ ·)).foldl (fun n l => n * h.cnt l) 1

/-- Number of level-0 runs. -/
def Shape.runs (h : Shape) : Nat := h.runsFrom 1

/-- The index of level `l` in run `r`; level 1 changes fastest. -/
def Shape.idx (h : Shape) (r l : Nat) : Nat :=
  r / ([1, 2, 3, 4, 5].filter (· < l)).foldl (fun n j => n * h.cnt j) 1 % h.cnt l

/-- The step of run `r` over levels `lo` to 5. -/
def Shape.off (h : Shape) (str : List Int) (lo r : Nat) : Int :=
  ([1, 2, 3, 4, 5].filter (lo ≤ ·)).foldl (fun z l => z + (h.idx r l : Int) * str.getD l 0) 0

/-- FMT.EF and FMT.PAD (Table 11-5). -/
def Shape.ef (h : Shape) : Nat := bitsOf h.fmt.toNat 12 8
def Shape.pad (h : Shape) : Byte := h.fmt.setWidth 8

/-- The copy that an operation makes now: source, destination and shape; for a chain, those of its record (R225). -/
def CopyOp.cur (o : CopyOp) : W64 × W64 × Shape :=
  match o.rec? with
  | some (_, s, d, n) => (BitVec.ofNat 64 s, BitVec.ofNat 64 d, sget Shape.reset o.shapes n)
  | none => (o.src, o.dst, o.shape)

/-- Add an integer to an address, modulo 2^64. -/
def addVa (v : W64) (i : Int) : W64 := BitVec.ofInt 64 ((v.toNat : Int) + i)

/-- Row r of a ragged copy: its first byte and its length (R222). -/
def CopyOp.row (o : CopyOp) (r : Nat) : Nat × Nat :=
  let i := o.shape.idx r 1
  let o0 := o.rows.getD i 0
  let o1 := o.rows.getD (i + 1) 0
  (o0, if o0 ≤ o1 then Nat.min (o.shape.cnt 0) (o1 - o0) else 0)

/-- The number of runs of the copy being made. -/
def CopyOp.runs (o : CopyOp) : Nat :=
  match o.kind with
  | .cpyw => 1
  | .xamo | .cabort => 0
  | .chain => if o.rec?.isSome then o.cur.2.2.runs else 0
  | .cpy | .cpym | .cpyr | .lxfer | .lxred => o.shape.runs

/-- Bytes of run `r` that come from the source. -/
def CopyOp.dataLen (o : CopyOp) (r : Nat) : Nat :=
  match o.kind with
  | .cpyw => 8
  | .cpyr => (o.row r).2
  | .cpy | .cpym | .chain | .lxfer | .lxred | .xamo | .cabort => o.cur.2.2.cnt 0

/-- Bytes of run `r` that are written: those of the source, and the padding of a ragged row under RG (R222). -/
def CopyOp.runLen (o : CopyOp) (r : Nat) : Nat :=
  match o.kind with
  | .cpyr => if o.rg then o.shape.cnt 0 else o.dataLen r
  | .cpy | .cpym | .chain | .cpyw | .lxfer | .lxred | .xamo | .cabort => o.dataLen r

/-- The source address of byte `j` of run `r` (R220, R222). -/
def CopyOp.srcVa (o : CopyOp) (r j : Nat) : W64 :=
  let (s, _, h) := o.cur
  match o.kind with
  | .cpyr => addVa s (h.off h.sstr 2 r + ((o.row r).1 + j : Nat))
  | .cpy | .cpym | .chain | .cpyw | .lxfer | .lxred | .xamo | .cabort => addVa s (h.off h.sstr 1 r + (j : Nat))

/-- The destination of byte `j` of run `r`: a virtual address, or for a multicast the offset in the scratchpad (R220,
R223). -/
def CopyOp.dstVa (o : CopyOp) (r j : Nat) : W64 :=
  let (_, d, h) := o.cur
  match o.kind with
  | .cpyw => addVa d (j : Nat)
  | .cpym => addVa (d &&& 0x3FFFFF) (h.off h.dstr 1 r + (j : Nat))
  | .cpy | .cpyr | .chain | .lxfer | .lxred | .xamo | .cabort => addVa d (h.off h.dstr 1 r + (j : Nat))

/-- Targets of a copy: the cores of a multicast, one destination otherwise. -/
def CopyOp.nTgt (o : CopyOp) : Nat := if o.kind = .cpym then o.targets.length else 1

/-- Bytes that the copy being made moves (R220 to R223). -/
def CopyOp.total (o : CopyOp) : Nat :=
  match o.kind with
  | .cpyr => o.shape.runsFrom 2 * (List.range (o.shape.cnt 1)).foldl (fun n r => n + o.runLen r) 0
  | .cpy | .cpym | .chain | .cpyw | .lxfer | .lxred | .xamo | .cabort => o.runs * o.runLen 0 * o.nTgt

/-- Bytes whose chunks have performed. -/
def CopyOp.performed (o : CopyOp) : Nat := o.chunks.foldl (fun n c => if c.stage = 2 then n + c.len else n) 0

/-- The bytes that the chunks have written. -/
def CopyOp.landedSpans (o : CopyOp) : List (Nat × Nat) :=
  (o.chunks.filter fun c => c.stage == 2 && c.len != 0 && c.dpa != 0).map fun c => (c.dpa, c.len)

/-- A chunk is under way. -/
def CopyOp.inFlight (o : CopyOp) : Bool := o.chunks.any fun c => c.stage != 2 && c.stage != 6

/-! ## The engine's list -/

/-- The operation with an identity. -/
def CoreSt.copy? (c : CoreSt) (id : Nat) : Option CopyOp := c.copies.find? fun o => o.id == id

/-- Change an operation. -/
def modCopy (s : State) (k id : Nat) (f : CopyOp → CopyOp) : State :=
  s.modCore k fun c => { c with copies := lmap (fun o => o.id == id) f c.copies }

/-- The context for which an operation runs. -/
def CopyOp.ck (o : CopyOp) (k : Nat) : Nat := k * 4 + o.ctx

/-- The rights of an operation's access (Table 10-5, R230, R232). -/
def CopyOp.acc (o : CopyOp) (k need : Nat) (isWrite amo : Bool) : Acc :=
  { ck := o.ck k, part := o.part, res := o.res, need := need, isWrite := isWrite, amo := amo, copy := true
    dom := if isWrite then o.dom else none }

/-- What an engine finds for an address: the physical address behind the aliases and its place, a wait on a migrating page, or on an
alias whose remap is under way, or a fault with its own cause (R56, R202, R206). -/
inductive Etr where
  | ok (pa : Nat) (pl : Place)
  | stall
  | hold
  | fault (own : Nat)
  deriving DecidableEq, Repr

/-- What an engine finds at a place. -/
def engPlace (a : Nat) (pl : Place) : Etr :=
  match pl with
  | .hole => .fault 0x0F
  | .held _ _ _ => .hold
  | .dram _ | .window _ _ | .chipCtl _ _ | .host _ => .ok (pl.addr a) pl

/-- The checks of the target of a translated address: permission and ownership, the domain, a hole (R194, R202, R291). -/
def engTarget (s : State) (q : Acc) (n a : Nat) : Etr :=
  let pl := placeOf s (ckPos q.ck) a
  if targetRefused s q pl then .fault 0x0A
  else match q.dom with
    | some d =>
      if !inDomain s q.ck d n pl then .fault 0x14 else engPlace a pl
    | none => engPlace a pl

/-- A leaf's bits suffice. -/
def pteOk (q : Acc) (pte : W64) : Bool :=
  (pte.toNat &&& q.need) == q.need && (q.res || bitsOf pte.toNat 10 8 != 3)

/-- An engine translates an address when a chunk or a pipe read starts (R202 to R206): from the cache `tlb` of `cap` entries, or, where
it is absent or `drop` says that the cache has let it go, by a walk. The answer holds the cache afterwards, which keeps no translation
that faults, and the state with the record of an uncorrectable table sector. -/
def engAddr (s : State) (cap : Nat) (tlb : List TlbEnt) (q : Acc) (drop : Bool) (pick n : Nat) (va : W64) :
    Etr × List TlbEnt × State :=
  let tlb := if drop then tlb.filter fun e => !(e.part == q.part && decide (e.va ≤ va.toNat) && decide (va.toNat < e.va + e.size))
    else tlb
  if bitsOf va.toNat 63 48 ≠ 0 then (.fault 0x09, tlb, s)
  else if isDirect q.res va then (engTarget s q n (bitsOf va.toNat 45 0), tlb, s)
  else match tlbFind tlb q.part va.toNat with
    | some e =>
      if pteOk q e.pte then (engTarget s q n (e.pa va.toNat), tlb, s) else (.fault 0x0A, tlb.filter (· != e), s)
    | none =>
      match walk s (ckPos q.ck) q.part va.toNat pick with
      | .leaf a sz pte =>
        let e : TlbEnt := { part := q.part, va := a, size := sz, pte := pte }
        if pteOk q pte then (engTarget s q n (e.pa va.toNat), tlbAdd cap tlb e, s) else (.fault 0x0A, tlb, s)
      | .fault c => (.fault c, tlb, s)
      | .migrating => (.stall, tlb, s)
      | .bad x => (.fault 0x0F, tlb, s.noteRead x 8)

/-- Translate for a copy, in the core's copy cache of 64 entries (R203). -/
def copyAddr (s : State) (k : Nat) (q : Acc) (drop : Bool) (pick n : Nat) (va : W64) : Etr × State :=
  let (r, l, s1) := engAddr s 64 (s.core k).ctlb q drop pick n va
  (r, s1.modCore k fun c => { c with ctlb := l })

/-! ## Stopping and completing -/

/-- Hold the context's M operations that are younger than a stopped operation and have not started (R316). -/
def holdYounger (s : State) (ck bundle : Nat) : State :=
  s.modCtx ck fun c =>
    { c with heldM := match c.heldM with
        | some (b, l) => some (Nat.min b bundle, l)
        | none => some (bundle, 0) }

/-- The NODE value of the owner's node, as its ring stages record it (R320). -/
def ownerNode (s : State) (k : Nat) : Nat :=
  match (s.core k).owner with
  | some x => (s.ctx (k * 4 + x)).node.toNat
  | none => 0

/-- The NODE value of the node for which a copy runs. -/
def CopyOp.nodeOf (o : CopyOp) (s : State) (k : Nat) : Nat :=
  if o.hart.isSome then ownerNode s k else (s.ctx (o.ck k)).node.toNat

/-- The credits of a multicast under MC fall due at the first CT that is a multiple of 32, now that its last byte has landed or it
has been stopped (R224). -/
def dueCredits (s : State) (k : Nat) (o : CopyOp) : State :=
  if o.credits = [] then s
  else
    let t := (s.ctOf (corePos k) + 31) / 32 * 32
    (modCopy s k o.id fun o => { o with credits := [] }).modCore k fun c => { c with credQ := c.credQ ++ [(t, o.nodeOf s k, o.credits)] }

/-- A copy stops after the chunks already performed (R202, R300, R316): it leaves its channel without completing; its context
takes cause 0x17 with the fault's own cause, its KO token loses PEND, or the node of its hart fails (R230). -/
def stopCopy (s : State) (k : Nat) (o : CopyOp) (own : Nat) (va : W64) : State :=
  let s1 := releaseHolds ((dueCredits s k o).modCore k fun c => { c with copies := c.copies.filter fun x => x.id != o.id }) o
  let ck := o.ck k
  match o.hart with
  | some _ => failCtx s1 ck 0x17 (s1.ctx ck).rowprog
  | none =>
    pushAsync (holdYounger (clearPend s1 ck o.ko) ck o.bundle) ck
      { cause := 0x17, own := own, tok := o.ko, slots := 0x40, value := va, rp := none, id := o.id, bundle := some o.bundle, cy := 0 }

/-- A chunk meets a fault: the copy stops when nothing of it is under way (R202, R220). -/
def faultCopy (s : State) (k id own : Nat) (va : W64) : State :=
  match (s.core k).copy? id with
  | none => s
  | some o =>
    let f := o.stop?.getD (own, va.toNat)
    if o.inFlight then modCopy s k id fun o => { o with stop? := some f }
    else stopCopy s k o f.1 (BitVec.ofNat 64 f.2)

/-- Nothing is under way any more: a stop that was noted takes place. -/
def settleStop (s : State) (k id : Nat) : State :=
  match (s.core k).copy? id with
  | none => s
  | some o => match o.stop? with
    | some (c, v) => if o.inFlight then s else stopCopy s k o c (BitVec.ofNat 64 v)
    | none => s

/-- CHWM of a channel increases by 1 (R220, R221). -/
def bumpChwm (s : State) (k ch : Nat) : State :=
  checkWmn (s.modCore k fun c => { c with chwm := sput c.chwm ch (sget 0 c.chwm ch + 1) }) k ch

/-- What a hart's shape block asks for at completion (R232, R285): a token post, and the release of a ring stage in the
hart's role, as DIRECT with the bytes copied for the loader; a refused release fails the node with FCAUSE 0x01. -/
def hartCompletion (s : State) (k : Nat) (o : CopyOp) (h : Nat) : State :=
  let s1 := match o.post with
    | some (x, t) => if (s.ctx (k * 4 + x)).st = .idle then s else fireUp s (k * 4 + x) t
    | none => s
  match o.rrel with
  | none => s1
  | some (off, st) =>
    let a := winBase k + off
    let prod := h = 0
    let held := !prod || (match objAt (s1.core k) a with
      | some r => sget 0 r.holders st == ownerNode s1 k
      | none => false)
    let m : ObjMsg := { id := o.id, ck := o.ck k, kind := .ring, op := 2, addr := a, va := BitVec.ofNat 64 off, arg := st
                        cnt := if prod then o.performed else 0, prod := prod, direct := true, after := []
                        node := ownerNode s1 k, scope := 2, bundle := 0 }
    let (s2, r) := if held ∧ off % 64 = 0 then performObj s1 m else (s1, some 0x01)
    if r.isSome then failCtx s2 (o.ck k) 0x01 (s2.ctx (o.ck k)).rowprog else s2

/-- A copy completes (R220): CHWM advances, KO fires, flags are set (R139), and with UN the channel's bit of PEND is set. Until a token
orders it before later copies, the bytes it wrote are noted (R221). -/
def completeCopy (s : State) (k : Nat) (o : CopyOp) : State :=
  let ck := o.ck k
  let spans := o.wrote ++ o.landedSpans
  let (px, pt) := match o.hart, o.post with
    | some _, some p => p
    | some _, none => (o.ctx, 0)
    | none, _ => (o.ctx, o.ko)
  let past := fun l : List PastCopy => if spans = [] ∧ pt = 0 then l else l ++ [{ ch := o.ch, ctx := px, ko := pt, spans := spans }]
  let s1 := releaseHolds ((dueCredits s k o).modCore k fun c =>
    { c with copies := c.copies.filter fun x => x.id != o.id, past := past c.past }) o
  let s2 := bumpChwm s1 k o.ch
  match o.hart with
  | some h => hartCompletion s2 k o h
  | none =>
    let s3 := fireToken (setFlags s2 ck o.fl) ck o.ko
    if o.un then s3.modCtx ck fun c => { c with ui := { c.ui with pend := c.ui.pend ||| 2 ^ o.ch } } else s3

/-! ## Acceptance and start -/

/-- The engine accepts an operation (R111, R221). CABORT stops the older operations of its context on the channel that no
earlier CABORT has stopped (R227). -/
def acceptCopy (s : State) (ck : Nat) (o : CopyOp) : State :=
  s.modCore (ckCore ck) fun c =>
    let old := if o.kind = .cabort then
        lmap (fun x => x.ch == o.ch && x.ctx == o.ctx && x.hart.isNone) (fun x => { x with aborted := true }) c.copies
      else c.copies
    { c with copies := old ++ [o] }

/-- The operations accepted before this one on its channel. -/
def olderOnChannel (c : CoreSt) (o : CopyOp) : List CopyOp :=
  (c.copies.takeWhile fun x => x.id != o.id).filter fun x => x.ch == o.ch

/-- The operations accepted after this one on its channel. -/
def youngerOnChannel (c : CoreSt) (o : CopyOp) : List CopyOp :=
  ((c.copies.dropWhile fun x => x.id != o.id).drop 1).filter fun x => x.ch == o.ch

/-- A counting operation (R247). -/
def EngOp.isCount (o : EngOp) : Bool := o.op == 0x10 || o.op == 0x11
/-- A fret operation (R247). -/
def EngOp.isFret (o : EngOp) : Bool := decide (0x10 ≤ o.op ∧ o.op ≤ 0x16)
/-- A bank operation that names one (R251). -/
def EngOp.isBank (o : EngOp) : Bool := o.op == 0x12 || o.op == 0x13 || o.op == 0x14
def EngOp.kblk (o : EngOp) : Bool := descKblk o.desc

/-- What the operation shares with others of its context (R240): tiles, and F as 4096. -/
def EngOp.uses (o : EngOp) : List Nat :=
  let tiles :=
    if o.isBank || (o.op == 0x1E && o.f.mf.getLsbD 0) then (List.range 16).map (o.tile + ·)
    else if (o.isCount && !o.kblk) || o.op == 0x16 then []
    else [o.tile]
  if o.isFret then 4096 :: tiles else tiles

/-- The tokens that an M operation consumes. -/
def EngOp.kis (o : EngOp) : List Nat := [o.f.ki1.toNat, o.f.ki2.toNat, o.f.ki3.toNat]

/-- The operations of the same context accepted before this one. -/
def olderEng (c : CoreSt) (o : EngOp) : List EngOp :=
  (c.engine.takeWhile fun x => x.id != o.id).filter fun x => x.ctx == o.ctx

/-- An M operation held behind a stopped one (R244, R316). -/
def heldBack (c : Ctx) (o : EngOp) : Bool :=
  match c.heldM with
  | some (b, _) => decide (b < o.bundle)
  | none => false

/-- Nothing but its tokens keeps an M operation from starting (R240, R244, R247, R254). -/
def engReady (s : State) (k : Nat) (o : EngOp) : Bool :=
  let c := s.core k
  let older := olderEng c o
  !o.started && !heldBack (s.ctx (k * 4 + o.ctx)) o
    && (if o.op = 0x1E then older.isEmpty else older.all fun x => x.uses.all fun t => !o.uses.contains t)
    && (!o.isFret || c.fOwner == none || c.fOwner == some o.ctx)

/-- Nothing but its tokens keeps a copy from starting: what its kind waits for on the channel has happened (R226, R228). -/
def copyReady (s : State) (k : Nat) (o : CopyOp) : Bool :=
  let c := s.core k
  !o.started && !o.aborted && o.kind != .cabort
    && (match o.kind with
      | .cpyw => (olderOnChannel c o).isEmpty
      | .xamo => (olderOnChannel c o).all fun x => x.started || x.aborted || x.kind == .cabort
      | .cpy | .cpym | .cpyr | .chain | .lxfer | .lxred | .cabort => true)

/-- An older waiting operation of the context could consume the same firing now (R262): an M operation of the same or an
earlier bundle, or a copy of an earlier one. -/
def olderWants (s : State) (ck bundle : Nat) (isM : Bool) (kis : List Nat) : Bool :=
  let k := s.core (ckCore ck)
  let c := s.ctx ck
  let x := ckCtx ck
  let shares := fun l : List Nat => c.fired l && l.any fun t => t != 0 && kis.contains t
  (k.engine.any fun o => o.ctx == x && decide (if isM then o.bundle < bundle else o.bundle ≤ bundle) && engReady s (ckCore ck) o
      && shares o.kis)
    || (k.copies.any fun o => o.ctx == x && o.hart.isNone && decide (o.bundle < bundle) && copyReady s (ckCore ck) o && shares o.kis)

/-- The operation may start: its tokens have fired, and no older operation could consume them (R262). -/
def canStart (s : State) (k : Nat) (o : CopyOp) : Bool :=
  copyReady s k o && (o.hart.isSome || ((s.ctx (o.ck k)).fired o.kis && !olderWants s (o.ck k) o.bundle false o.kis))

/-- The operation starts and consumes its tokens. -/
def markStarted (s : State) (k : Nat) (o : CopyOp) : State :=
  let s1 := modCopy s k o.id fun o => { o with started := true }
  if o.hart.isSome then s1 else consume s1 (o.ck k) o.kis

/-- A walk is due (R206): at once, or a multiple of 1,500 counts after the first finding of a migrating entry. After 1,500,000 counts
the operation faults with 0x09. -/
def migDue (ct : Nat) (m : Option Nat) : Bool :=
  match m with
  | none => true
  | some t => (ct - t) % 1500 == 0 || decide (1500000 ≤ ct - t)

/-- The clock of a chunk's read or write: target, run and offset (R206). -/
def CopyOp.migAt (o : CopyOp) (x : Nat × Nat × Nat) : Option Nat :=
  (o.migs.find? fun m => m.1 == x.1 && m.2.1 == x.2.1 && m.2.2.1 == x.2.2).map fun m => m.2.2.2

/-- A chunk's read or write waits no longer. -/
def migClear (s : State) (k id : Nat) (x : Nat × Nat × Nat) : State :=
  modCopy s k id fun o =>
    if o.migs = [] then o else { o with migs := o.migs.filter fun m => !(m.1 == x.1 && m.2.1 == x.2.1 && m.2.2.1 == x.2.2) }

def migStall (s : State) (k : Nat) (o : CopyOp) (x : Nat × Nat × Nat) (va : W64) : State :=
  let ct := s.ctOf (corePos k)
  match o.migAt x with
  | none => modCopy s k o.id fun o => { o with migs := o.migs ++ [(x.1, x.2.1, x.2.2, ct)] }
  | some t => if 1500000 ≤ ct - t then faultCopy (migClear s k o.id x) k o.id 0x09 va else s

/-- The clocks of an operation's other reads and writes: the operand block and the target of an XAMO, a record, row offsets. -/
def metaKey (n : Nat) (va : W64) : Nat × Nat × Nat := (2 ^ 32 + n, 0, va.toNat)

/-! ## XAMO -/

/-- The width of an XAMO in bytes (R228). -/
def CopyOp.width (o : CopyOp) : Nat := if o.w32 then 4 else 8

/-- The flags that an XAMO.FADD sets (R139, R216). -/
def CopyOp.amoFlags (o : CopyOp) (old : Nat) : BitVec 7 :=
  (amoNew o.aop (8 * o.width) old (o.opnd.toNat % 2 ^ (8 * o.width)) 0).2

/-- The old value returns: it goes into bytes 8 to 15 of the block, sign-extended from 32 bits (R228). -/
def xamoDone (s : State) (k id : Nat) (old : Nat) : State :=
  match (s.core k).copy? id with
  | none => s
  | some o =>
    let pa := match o.chunks.head? with
      | some c => c.spa + 8
      | none => 0
    let v := ofSigned 64 (toSigned (8 * o.width) old)
    let (s1, ok) := memStore s (corePos k) (placeOf s (corePos k) pa) pa (leBytes 8 v) (!o.res)
    if ok then modCopy s1 k id fun o =>
      { o with chunks := lmap (fun _ => true) (fun c => { c with stage := 2 }) o.chunks,
               fl := o.fl ||| o.amoFlags (old % 2 ^ (8 * o.width)) }
    else faultCopy (modCopy s1 k id fun o => { o with chunks := [] }) k id 0x0F o.src

/-- A read by a copy of the `n` bytes at `pa` waits for a store that its scope has seen and that has not performed in memory
(R268). -/
def CopyOp.readHeld (o : CopyOp) (s : State) (k pa n : Nat) : Bool :=
  seenHolds s k (if o.hart.isSome then none else some (o.ck k, o.bundle)) pa n

/-- XAMO starts (R228): the block is read, and the atomic performs here or is sent to the chiplet that holds the word. -/
def startXamo (s : State) (k : Nat) (o : CopyOp) (drop : Bool) (pick : Nat) : State :=
  let pos := corePos k
  let kb := metaKey 0 o.src
  let kt := metaKey 1 o.dst
  if !migDue (s.ctOf pos) (o.migAt kb) ∨ !migDue (s.ctOf pos) (o.migAt kt) then s
  else
    let (b, s1) := copyAddr s k (o.acc k (pteER + pteEW) true false) drop pick 16 o.src
    let (t, s2) := copyAddr s1 k (o.acc k (pteER + pteEW) true true) drop pick o.width o.dst
    match b, t with
    | .stall, _ => migStall s k o kb o.src
    | _, .stall => migStall s k o kt o.dst
    | .hold, _ => s
    | _, .hold => s
    | .fault c, _ => faultCopy (markStarted s2 k o) k o.id c o.src
    | _, .fault c => faultCopy (markStarted s2 k o) k o.id c o.dst
    | .ok bpa bpl, .ok tpa tpl =>
      let dst := placePos pos tpl
      let l := s2.link pos dst
      if (dst ≠ pos ∧ l.st ≠ 0 ∧ l.st ≠ 3 ∧ !canSend s2 pos dst 3) ∨ o.readHeld s2 k bpa 16 ∨ (dst = pos ∧ o.readHeld s2 k tpa o.width) then s
      else
        let s3 := markStarted s2 k o
        match memLoad s3 bpl bpa 16 with
        | (none, s4) => faultCopy s4 k o.id 0x0F o.src
        | (some bs, s4) =>
          let x := BitVec.ofNat 64 (leValue (bs.take 8))
          let e := BitVec.ofNat 64 (leValue (bs.drop 8))
          let ch : Chunk := { run := 0, off := 0, len := 0, tgt := 0, spa := bpa, dpa := tpa, stage := 1 }
          let s5 := modCopy s4 k o.id fun o => { o with opnd := x, expect := e, chunks := [ch] }
          if dst = pos then
            match memAmo s5 pos tpl tpa o.aop o.width x e (!o.res) with
            | (some m, s6) => xamoDone s6 k o.id m
            | (none, s6) => faultCopy (modCopy s6 k o.id fun o => { o with chunks := [] }) k o.id 0x0F o.dst
          else if l.st = 3 then faultCopy (modCopy s5 k o.id fun o => { o with chunks := [] }) k o.id 0x0F o.dst
          else if l.st = 0 then faultCopy (modCopy s5 k o.id fun o => { o with chunks := [] }) k o.id 0x15 o.dst
          else sendMsg s5 pos dst 3 (.amo tpa o.aop o.width x e (!o.res)) (.copy k o.id 0)

/-- COPY_START (R220): an accepted operation starts. -/
def startCopy (s : State) (k : Nat) (o : CopyOp) (drop : Bool) (pick : Nat) : State :=
  if !canStart s k o then s
  else if o.kind = .xamo then startXamo s k o drop pick
  else markStarted s k o

/-! ## Chunks -/

/-- Where a chunk may begin in a run: at its first byte, at a 4 KiB boundary of its source or destination, or after a chunk
already taken (R204, R220). -/
def CopyOp.chunkStart (o : CopyOp) (tgt run off : Nat) : Bool :=
  off == 0 || (o.srcVa run off).toNat % 4096 == 0 || (o.dstVa run off).toNat % 4096 == 0 || off == o.dataLen run
    || o.chunks.any fun c => c.tgt == tgt && c.run == run && c.off + c.len == off

/-- The longest chunk at a place of a run: inside one source page and one destination page, up to the next chunk already taken, packed
into a message (R303, R307; log entry 120); 0 where none can begin there. -/
def CopyOp.chunkLen (o : CopyOp) (tgt run off : Nat) : Nat :=
  let mine := o.chunks.filter fun c => c.tgt == tgt && c.run == run
  if o.runs ≤ run ∨ o.nTgt ≤ tgt ∨ !o.chunkStart tgt run off
      ∨ mine.any (fun c => decide (c.off ≤ off) && decide (off < c.off + c.len)) then 0
  else
    let end_ := if off < o.dataLen run then o.dataLen run else o.runLen run
    let end2 := mine.foldl (fun z c => if off < c.off then Nat.min z c.off else z) end_
    let n := Nat.min (Nat.min (end2 - off) (if o.wl then 3840 else 4096)) (4096 - (o.dstVa run off).toNat % 4096)
    if off < o.dataLen run ∧ o.kind ≠ .cpyw then Nat.min n (4096 - (o.srcVa run off).toNat % 4096) else n

/-- Bytes that a list of chunks has written or is writing. -/
def wroteAt (l : List Chunk) (pa : Nat) : Bool :=
  l.any fun c => c.stage != 0 && decide (c.dpa ≤ pa) && decide (pa < c.dpa + c.len)

/-- A byte lies in one of some spans. -/
def inSpans (l : List (Nat × Nat)) (pa : Nat) : Bool := l.any fun r => decide (r.1 ≤ pa) && decide (pa < r.1 + r.2)

/-- A younger copy of the channel has written the byte: its value is the one left (R221). -/
def overtaken (c : CoreSt) (o : CopyOp) (pa : Nat) : Bool :=
  (youngerOnChannel c o).any fun x => wroteAt x.chunks pa || inSpans x.wrote pa

/-- The first of `n` bytes at `pa` that have one standing: how many share the first byte's. -/
def sameRun (f : Nat → Bool) (pa : Nat) : Nat → Nat
  | 0 => 0
  | n + 1 =>
    let m := sameRun f pa n
    if m = n ∧ f (pa + n) = f pa then n + 1 else m

/-- The address behind the aliases of a virtual address as a translation finds it now, with the cache `tlb`. -/
def peekPa (s : State) (k : Nat) (tlb : List TlbEnt) (q : Acc) (va : W64) : Option Nat :=
  let real := fun a : Nat => realPa s (corePos k) a
  if isDirect q.res va then some (real (bitsOf va.toNat 45 0))
  else match tlbFind tlb q.part va.toNat with
    | some e => some (real (e.pa va.toNat))
    | none => match walk s (corePos k) q.part va.toNat 0 with
      | .leaf a sz pte => some (real (({ part := q.part, va := a, size := sz, pte := pte } : TlbEnt).pa va.toNat))
      | .fault _ | .migrating | .bad _ => none

/-- The bytes of `n` bytes at a virtual address, by address and length, a page at a time. -/
def pageSpans (s : State) (k : Nat) (tlb : List TlbEnt) (q : Acc) (va : W64) (n : Nat) : List (Nat × Nat) :=
  let lo := va.toNat % 4096
  (List.range ((lo + n + 4095) / 4096)).filterMap fun i =>
    let j := 4096 * i - lo
    (peekPa s k tlb q (addVa va (j : Nat))).map fun a => (a, Nat.min (n - j) (4096 * (i + 1) - lo - j))

/-- The bytes that an operation of the engine names at a virtual address. -/
def CopyOp.spansAt (o : CopyOp) (s : State) (k : Nat) (va : W64) (n : Nat) : List (Nat × Nat) :=
  pageSpans s k (s.core k).ctlb (o.acc k 0 false false) va n

/-- The bytes that a copy's runs read (R220). -/
def CopyOp.readSpans (o : CopyOp) (s : State) (k : Nat) : List (Nat × Nat) :=
  (List.range o.runs).flatMap fun r => o.spansAt s k (o.srcVa r 0) (o.dataLen r)

/-- Those of a copy whose source bytes its own writes may spoil (R220). -/
def CopyOp.srcSpans (o : CopyOp) (s : State) (k : Nat) : List (Nat × Nat) :=
  if o.kind = .cpyw ∨ o.kind = .lxred then [] else o.readSpans s k

/-- The byte's value is unpredictable (R220, R221): a copy of another channel writes it too, or has written it and no token orders it
before this one, the copy writes it twice, or it belongs to the copy's own source, which reads `src`. `pa` is its address, `va` its
virtual address in run `run`. The adds of an LXRED are never lost (R305). -/
def CopyOp.spoiled (o : CopyOp) (c : CoreSt) (src : List (Nat × Nat)) (j run : Nat) (va : W64) (pa : Nat) : Bool :=
  o.kind != .lxred &&
  (inSpans o.foreign pa
  || (c.copies.any fun x => x.ch != o.ch && (wroteAt x.chunks pa || inSpans x.wrote pa))
  || (c.past.any fun x => x.ch != o.ch && inSpans x.spans pa)
  || (o.kind != .cpyw &&
    ((o.chunks.zipIdx.any fun (x, i) => i != j && x.stage != 0 && decide (x.dpa ≤ pa) && decide (pa < x.dpa + x.len))
    || (o.chunks.any fun x => decide (x.spa ≤ pa) && decide (pa < x.spa + x.len))
    || inSpans src pa
    || (anyTo o.runs fun r => r != run && decide ((va - o.dstVa r 0).toNat < o.runLen r)))))

/-- Replace the unpredictable bytes by free values. -/
def spoilBytes (f : Nat → Bool) : Nat → List Byte → State → List Byte × State
  | _, [], s => ([], s)
  | i, b :: bs, s =>
    let (b1, s1) := if f i then
        let (w, s1) := s.takeFree
        (w.setWidth 8, s1)
      else (b, s)
    let (r, s2) := spoilBytes f (i + 1) bs s1
    (b1 :: r, s2)

/-- Bytes have landed in a bank that a multicast holds: one whose last byte has landed is held no longer (R223). -/
def landHolds (s : State) (k id pa n : Nat) : State :=
  match (s.core k).copy? id with
  | none => s
  | some o =>
    let hs := o.holds.map fun (t, b, left) => (t, b, left, left - bytesIn pa n (winBase t + b * 0x20000) 0x20000)
    let s1 := (hs.filter fun (_, _, l0, l1) => l0 != 0 && l1 == 0).foldl (fun s (t, b, _, _) =>
      s.modCore t fun c =>
        let v := sget Bank.reset c.banks b
        { c with banks := sput c.banks b { v with hold := v.hold - 1 } }) s
    modCopy s1 k id fun o => { o with holds := (hs.filter fun (_, _, _, l1) => l1 != 0).map fun (t, b, _, l1) => (t, b, l1) }

/-- Set the stage of a chunk. -/
def setStageOf (s : State) (k id j stage : Nat) : State :=
  modCopy s k id fun o => { o with chunks := o.chunks.zipIdx.map fun (c, i) => if i = j then { c with stage := stage } else c }

/-- Give a chunk up: its place in the list stays, for the answers under way name chunks by place, and it covers no bytes. -/
def dropChunk (s : State) (k id j : Nat) : State :=
  modCopy s k id fun o =>
    { o with chunks := o.chunks.zipIdx.map fun (c, i) => if i = j then { c with stage := 6, len := 0, tgt := 2 ^ 32 } else c }

/-- A chunk has performed: other channels' copies that have started note its bytes (R221), and a multicast's held banks and
credits follow (R223, R224). A byte credit counts here for a destination on this chiplet. -/
def chunkLanded (s : State) (k id j : Nat) (fl : BitVec 7) (isHere : Bool) : State :=
  match (s.core k).copy? id with
  | none => s
  | some o => match o.chunks[j]? with
    | none => s
    | some c =>
      let s1 := setStageOf (modCopy s k id fun o => { o with fl := o.fl ||| fl }) k id j 2
      let note := fun x : CopyOp => { x with foreign := x.foreign ++ [(c.dpa, c.len)] }
      let s2 := s1.modCore k fun d => { d with copies := lmap (fun x => x.started && x.ch != o.ch) note d.copies }
      let s3 := landHolds s2 k id c.dpa c.len
      let s4 := if !isHere ∨ c.dpa < 0x2000000000 then s3
        else if o.mc then modCopy s3 k id fun o => { o with credits := o.credits ++ [(c.dpa, c.len)] }
        else credit s3 c.dpa c.len (o.nodeOf s3 k)
      let s5 := match (s4.core k).copy? id with
        | some o => if o.mc && o.performed == o.total then dueCredits s4 k o else s4
        | none => s4
      settleStop s5 k id

/-- A chunk of chunks fails: it has not landed, and the copy stops (R202, R300). -/
def chunkFailed (s : State) (k id j own : Nat) (va : W64) : State := faultCopy (dropChunk s k id j) k id own va

/-- The chiplet to which a read or a write travels: that of its place, and for host memory the one whose port is used (R39). -/
def writePos (s : State) (pos : Nat) (pl : Place) : Option Nat :=
  match pl with
  | .host _ => hostPort s pos
  | .dram _ | .window _ _ | .held _ _ _ | .chipCtl _ _ | .hole => some (placePos pos pl)

/-- A link-late slip of a transfer of a context scheduled at T, with the CT at which it is late (R304). -/
def linkSlip (s : State) (ck t : Nat) : State :=
  slip s (ckPos ck) 5 (some (s.ctx ck).gid) 6 (BitVec.ofNat 64 t) (BitVec.ofNat 64 (s.ctOf (ckPos ck)))

/-- A late first flit of a scheduled transfer logs a link-late slip (R304). -/
def linkLate (s : State) (k : Nat) (o : CopyOp) : State :=
  match o.sched with
  | none => s
  | some t =>
    let pos := corePos k
    let ct := s.ctOf pos
    let s1 := modCopy s k o.id fun o => { o with sched := none }
    if t + 1500 < ct then linkSlip s1 (o.ck k) t else s1

/-! ### Wide-lossless mode (R307) -/

/-- The size of an element of FMT.EF in bytes. -/
def efBytes (ef : Nat) : Nat := if ef = 0 then 1 else if ef = 0x0F then 4 else 2

/-- The widths of the exponent and mantissa fields of FMT.EF: F16, BF16, F32. -/
def efFields (ef : Nat) : Nat × Nat := if ef = 0x0D then (5, 10) else if ef = 0x0E then (8, 7) else (8, 23)

/-- The elements of a byte string. -/
def efElems (ef : Nat) (bs : List Byte) : List Nat :=
  (List.range (bs.length / efBytes ef)).map fun i => leValue ((bs.drop (i * efBytes ef)).take (efBytes ef))

/-- The exponent field of an element. -/
def efExp (ef x : Nat) : Nat := x / 2 ^ (efFields ef).2 % 2 ^ (efFields ef).1

/-- Bits needed for a number. -/
def bitsNeeded (n : Nat) : Nat := if n = 0 then 0 else Nat.log2 n + 1

/-- One group, its bytes: the header with EMIN and B, then each element's sign, the B bits of its exponent above EMIN, and its mantissa
field, least significant bit first, up to a whole byte. -/
def wlGroup (ef : Nat) (xs : List Nat) : List Byte :=
  let (e, m) := efFields ef
  let lo := xs.foldl (fun z x => Nat.min z (efExp ef x)) (2 ^ e - 1)
  let b := bitsNeeded (xs.foldl (fun z x => Nat.max z (efExp ef x - lo)) 0)
  let one := fun x : Nat => x / 2 ^ (e + m) % 2 + 2 * (efExp ef x - lo) + 2 ^ (1 + b) * (x % 2 ^ m)
  let v := xs.foldr (fun x z => one x + 2 ^ (1 + b + m) * z) 0
  leBytes 2 (lo * 256 + b * 16) ++ leBytes ((xs.length * (1 + b + m) + 7) / 8) v

/-- The elements of a byte string in groups of 16, the last perhaps short. -/
def wlGroups (ef : Nat) : Nat → List Nat → List Byte
  | 0, _ => []
  | fuel + 1, xs => if xs.isEmpty then [] else wlGroup ef (xs.take 16) ++ wlGroups ef fuel (xs.drop 16)

/-- The payload of a wide-lossless transfer. -/
def wlPack (ef : Nat) (bs : List Byte) : List Byte := wlGroups ef bs.length (efElems ef bs)

/-- The receiver rebuilds `n` elements. -/
def wlUnpack (ef : Nat) : Nat → Nat → List Byte → List Byte
  | 0, _, _ => []
  | fuel + 1, n, bs =>
    if n = 0 then []
    else
      let (e, m) := efFields ef
      let h := leValue (bs.take 2)
      let lo := bitsOf h 15 8
      let b := bitsOf h 7 4
      let g := Nat.min n 16
      let len := (g * (1 + b + m) + 7) / 8
      let v := leValue ((bs.drop 2).take len)
      let one := fun i : Nat =>
        let y := v / 2 ^ (i * (1 + b + m))
        y % 2 * 2 ^ (e + m) + (lo + y / 2 % 2 ^ b) * 2 ^ m + y / 2 ^ (1 + b) % 2 ^ m
      ((List.range g).flatMap fun i => leBytes (efBytes ef) (one i)) ++ wlUnpack ef fuel (n - g) (bs.drop (2 + len))

/-- The bytes of chunk `j`, all of them overtaken (`gone`) or none, are written at the destination, or sent there (R220, R299, R305). An
overtaken chunk leaves the bytes of the younger copy, and performs like any other (R221, R306). -/
def writeRun (s : State) (k id j : Nat) (gone : Bool) (bs : List Byte) : State :=
  match (s.core k).copy? id with
  | none => s
  | some o => match o.chunks[j]? with
    | none => s
    | some c =>
      let pos := corePos k
      let va := o.dstVa c.run c.off
      let src := if gone then [] else o.srcSpans s k
      let (bs1, s1) := if gone then (bs, s)
        else spoilBytes (fun i => o.spoiled (s.core k) src j c.run (o.dstVa c.run (c.off + i)) (c.dpa + i)) 0 bs s
      let pl := placeOf s1 pos c.dpa
      match writePos s1 pos pl with
      | none => chunkFailed s1 k id j 0x15 va
      | some dst =>
        if dst = pos then
          let (s2, ok) := if gone then (s1, true) else memStore s1 pos pl c.dpa bs1 (!o.res)
          if ok then chunkLanded (setStageOf s2 k id j 1) k id j 0 true else chunkFailed s2 k id j 0x0F va
        else
          let l := s1.link pos dst
          let lx := o.kind = .lxfer || o.kind = .lxred
          if l.st = 3 then chunkFailed s1 k id j 0x0F va
          else if l.st = 0 then chunkFailed s1 k id j 0x15 va
          else if !canSend s1 pos dst (if lx then 5 else 0) then dropChunk s k id j
          else
            let s2 := linkLate s1 k o
            let ef := if lx then o.shape.ef else 0
            let packed := o.wl && bs1.length % efBytes ef == 0
            let op : ZOp := if lx || gone then
                .lx c.dpa (if packed then wlPack ef bs1 else bs1) ef (o.kind = .lxred)
                  (if packed then some (bs1.length / efBytes ef) else none) (!o.res) gone
              else .write c.dpa bs1 (!o.res) true
            setStageOf (sendMsg s2 pos dst (if lx then 5 else 0) op (.copy k id j)) k id j 1

/-- Cut a chunk after its first `m` bytes: the rest becomes a chunk of its own, the last. -/
def cutChunk (s : State) (k id j m : Nat) : State :=
  modCopy s k id fun o =>
    match o.chunks[j]? with
    | none => o
    | some c =>
      let rest : Chunk := { c with off := c.off + m, len := c.len - m, spa := c.spa + m, dpa := c.dpa + m }
      { o with chunks := o.chunks.zipIdx.map (fun (x, i) => if i = j then { x with len := m } else x) ++ [rest] }

/-- The bytes of chunk `j` have arrived: they are written in runs, those of which a younger copy of the channel has written stay as they
are (R220, R221). An LXRED adds all of its bytes (R305). -/
def writeChunk : Nat → State → Nat → Nat → Nat → List Byte → State
  | 0, s, _, _, _, _ => s
  | fuel + 1, s, k, id, j, bs =>
    match (s.core k).copy? id with
    | none => s
    | some o => match o.chunks[j]? with
      | none => s
      | some c =>
        let gone := fun pa => o.kind != .lxred && overtaken (s.core k) o pa
        let m := sameRun gone c.dpa bs.length
        if bs.length ≤ m ∨ m = 0 then writeRun s k id j (gone c.dpa) bs
        else writeChunk fuel (writeRun (cutChunk s k id j m) k id j (gone c.dpa) (bs.take m)) k id o.chunks.length (bs.drop m)

/-- The destination of a chunk (R220, R223). -/
def chunkDst (s : State) (k : Nat) (o : CopyOp) (tgt run off n : Nat) (drop : Bool) (pick : Nat) : Etr × State :=
  let va := o.dstVa run off
  match o.kind with
  | .cpym =>
    let t := o.targets.getD tgt 0
    if va.toNat < 0x400000 then (engTarget s (o.acc k 0 true false) n (winBase t + va.toNat), s) else (.fault 0x0A, s)
  | .cpy | .cpyr | .chain | .cpyw | .lxfer | .lxred | .xamo | .cabort =>
    copyAddr s k (o.acc k pteEW true false) drop pick n va

/-- The chunk of a link transfer stays on its chiplets (R303): the source on the issuing chiplet, the destination on that of the first
byte. -/
def lxHomes (o : CopyOp) (pos : Nat) (src dst : Place) : Bool :=
  placePos pos src == pos && placePos pos dst == o.home.getD pos

/-- A chunk whose bytes are at hand: padding, or the value of CPYW. -/
def chunkConst (o : CopyOp) (run off n : Nat) : Option (List Byte) :=
  match o.kind with
  | .cpyw => some ((leBytes 8 o.src.toNat).drop off |>.take n)
  | .cpyr => if o.dataLen run ≤ off then some (List.replicate n o.shape.pad) else none
  | .cpy | .cpym | .chain | .lxfer | .lxred | .xamo | .cabort => none

/-- Add a chunk to an operation; its number. -/
def addChunk (s : State) (k : Nat) (o : CopyOp) (c : Chunk) : Nat × State :=
  (o.chunks.length, modCopy s k o.id fun o => { o with chunks := o.chunks ++ [c] })

/-- Read the bytes of chunk `j`: at once from this chiplet (or the host, through its port), or by a request to another (R39, R299,
R380). `s0` is the state in which it waits, `got` what takes the bytes. -/
def fetchChunk (s0 s : State) (k : Nat) (o : CopyOp) (j pa n : Nat) (pl : Place) (va : W64) (got : State → List Byte → State) : State :=
  let pos := corePos k
  match writePos s pos pl with
  | none => chunkFailed s k o.id j 0x15 va
  | some src =>
    if src = pos then
      if o.readHeld s k pa n then s0
      else match memLoad s pl pa n with
        | (some bs, s2) => got s2 bs
        | (none, s2) => chunkFailed s2 k o.id j 0x0F va
    else
      let l := s.link pos src
      if l.st = 3 then chunkFailed s k o.id j 0x0F va
      else if l.st = 0 then chunkFailed s k o.id j 0x15 va
      else if canSend s pos src 1 then sendMsg s pos src 1 (.read pa n (.copy k o.id j)) (.copy k o.id j)
      else s0

/-- The leaf bits of a copy's source (Table 10-5): X too, where a resident copy writes an instruction store. -/
def srcNeed (o : CopyOp) (de : Etr) : Nat :=
  match de with
  | .ok _ (.window _ off) => if o.res && areaOf off == .istore then pteER + pteX else pteER
  | .ok _ _ | .stall | .hold | .fault _ => pteER

/-- A data chunk (R220): translated when it starts, then read and written. -/
def dataChunk (s : State) (k : Nat) (o : CopyOp) (tgt run off : Nat) (drop : Bool) (pick : Nat) : State :=
  let pos := corePos k
  let n := o.chunkLen tgt run off
  let ks := (tgt, run, 2 * off)
  let kd := (tgt, run, 2 * off + 1)
  if n = 0 ∨ !migDue (s.ctOf pos) (o.migAt ks) ∨ !migDue (s.ctOf pos) (o.migAt kd) then s
  else
    let sva := o.srcVa run off
    let dva := o.dstVa run off
    let const := chunkConst o run off n
    let (de, s1) := chunkDst s k o tgt run off n drop pick
    let (se, s2) := match const with
      | some _ => (Etr.ok 0 Place.hole, s1)
      | none => copyAddr s1 k (o.acc k (srcNeed o de) false false) drop pick n sva
    match se, de with
    | .stall, _ => migStall s k o ks sva
    | .fault c, _ => faultCopy s2 k o.id c sva
    | _, .stall => migStall s k o kd dva
    | _, .fault c => faultCopy s2 k o.id c dva
    | .hold, _ => s
    | _, .hold => s
    | .ok spa spl, .ok dpa dpl =>
      if (o.kind = .lxfer ∨ o.kind = .lxred) ∧ !lxHomes o pos spl dpl then
        faultCopy s2 k o.id 0x0A (if placePos pos spl = pos then dva else sva)
      else if o.readHeld s k dpa n then s
      else
        let c : Chunk := { run := run, off := off, len := n, tgt := tgt, spa := spa, dpa := dpa, stage := 0 }
        let (j, s3) := addChunk (migClear (migClear s2 k o.id ks) k o.id kd) k o c
        match const with
        | some bs => writeChunk n s3 k o.id j bs
        | none => fetchChunk s s3 k o j spa n spl sva fun s bs => writeChunk n s k o.id j bs

/-! ## Row offsets and chain records -/

/-- The row offsets are all read (R222). -/
def CopyOp.rowsRead (o : CopyOp) : Bool := o.kind != .cpyr || decide (o.shape.cnt 1 + 1 ≤ o.rows.length)

/-- The 32-bit numbers of a byte string. -/
def words32 : List Byte → List Nat
  | a :: b :: c :: d :: r => leValue [a, b, c, d] :: words32 r
  | _ => []

/-- Row offsets arrive (R222). -/
def rowsArrive (s : State) (k id : Nat) (bs : List Byte) : State :=
  settleStop (modCopy s k id fun o => { o with rows := o.rows ++ words32 bs, chunks := [] }) k id

/-- The record of a chain that is being read or copied: its address. -/
def CopyOp.recVa (o : CopyOp) : W64 :=
  match o.rec? with
  | some (a, _, _, _) => BitVec.ofNat 64 a
  | none => BitVec.ofNat 64 o.nextRec

/-- A chain record arrives (R225): OWN 0 ends the chain; so does a reserved bit that is not zero, with cause 0x17, whose KO token does not
fire (R316). -/
def recordArrives (s : State) (k id : Nat) (bs : List Byte) : State :=
  let w := fun i => leValue ((bs.drop (8 * i)).take 8)
  let s1 := modCopy s k id fun o => { o with chunks := [] }
  match (s1.core k).copy? id with
  | none => s1
  | some o =>
    if !bitOf (w 0) 63 then settleStop (modCopy s1 k id fun o => { o with ended := true }) k id
    else if bitsOf (w 0) 62 48 ≠ 0 ∨ bitsOf (w 1) 63 52 ≠ 0 ∨ w 2 ≠ 0 ∨ bitsOf (w 3) 63 48 ≠ 0 then
      let ck := o.ck k
      let s2 := pushAsync (holdYounger (clearPend s1 ck o.ko) ck o.bundle) ck
        { cause := 0x17, own := 0x01, tok := o.ko, slots := 0x40, value := o.recVa, rp := none, id := o.id, bundle := some o.bundle
          cy := 0 }
      modCopy s2 k id fun o => { o with ended := true, ko := 0 }
    else settleStop (modCopy s1 k id fun o =>
      { o with rec? := some (o.nextRec, bitsOf (w 0) 47 0, bitsOf (w 1) 47 0, bitsOf (w 1) 51 48)
               nextRec := bitsOf (w 3) 47 0 }) k id

/-- The OWN bit of a finished record has been cleared (R225): the chain ends at NEXT 0, or moves on. -/
def recordCleared (s : State) (k id : Nat) : State :=
  settleStop (modCopy s k id fun o => { o with rec? := none, chunks := [], ended := o.nextRec == 0 }) k id

/-- Bytes that a copy asked another chiplet for arrive, by the stage of the chunk: 0 data, 3 a chain record, 5 row offsets. -/
def copyBytes (s : State) (k id j : Nat) (bs : List Byte) : State :=
  match (s.core k).copy? id with
  | none => s
  | some o => match o.chunks[j]? with
    | none => s
    | some c => match c.stage with
      | 0 => writeChunk c.len s k id j bs
      | 3 => recordArrives s k id bs
      | 5 => rowsArrive s k id bs
      | _ => s

/-- A write or an atomic of a copy is acknowledged by another chiplet: its old value and flags, or an abort. -/
def copyAck (s : State) (k id j : Nat) (old : W64) (fl : BitVec 7) (ok : Bool) : State :=
  match (s.core k).copy? id with
  | none => s
  | some o => match o.chunks[j]? with
    | none => s
    | some c =>
      if !ok then chunkFailed s k id j 0x0F (if o.kind = .xamo then o.dst else if c.stage = 4 then o.recVa else o.dstVa c.run c.off)
      else if o.kind = .xamo then xamoDone s k id old.toNat
      else match c.stage with
        | 1 => chunkLanded s k id j fl false
        | 4 => recordCleared s k id
        | _ => s

/-- A message of a copy has failed (R300), or its response aborted: the copy stops with the own cause given. -/
def copyFailed (s : State) (k id j own : Nat) : State :=
  match (s.core k).copy? id with
  | none => s
  | some o => match o.chunks[j]? with
    | none => s
    | some c =>
      let va := if o.kind = .xamo then o.dst
        else match c.stage with
          | 0 => o.srcVa c.run c.off
          | 3 => o.recVa
          | 4 => o.recVa
          | 5 => BitVec.ofNat 64 (o.shape.roa + 4 * o.rows.length)
          | _ => o.dstVa c.run c.off
      chunkFailed s k id j own va

/-- An engine read of `n` bytes at `va` for a chain record (stage 3) or row offsets (stage 5). -/
def metaRead (s : State) (k : Nat) (o : CopyOp) (need stage n : Nat) (va : W64) (drop : Bool) (pick : Nat) : State :=
  let key := metaKey stage va
  if o.inFlight ∨ !migDue (s.ctOf (corePos k)) (o.migAt key) then s
  else
    let (e, s1) := copyAddr s k (o.acc k need false false) drop pick n va
    match e with
    | .stall => migStall s k o key va
    | .hold => s
    | .fault c => faultCopy s1 k o.id c va
    | .ok pa pl =>
      let c : Chunk := { run := 0, off := 0, len := n, tgt := 0, spa := pa, dpa := 0, stage := stage }
      let s2 := modCopy (migClear s1 k o.id key) k o.id fun o => { o with chunks := [c] }
      fetchChunk s s2 k o 0 pa n pl va fun s bs => copyBytes s k o.id 0 bs

/-- The next row offsets, up to the end of their page (R222). -/
def readRows (s : State) (k : Nat) (o : CopyOp) (drop : Bool) (pick : Nat) : State :=
  let va := BitVec.ofNat 64 (o.shape.roa + 4 * o.rows.length)
  metaRead s k o pteER 5 (Nat.min (4 * (o.shape.cnt 1 + 1 - o.rows.length)) (4096 - va.toNat % 4096)) va drop pick

/-- Clear OWN of the record whose copy has performed (R225). -/
def clearRecord (s : State) (k : Nat) (o : CopyOp) (drop : Bool) (pick : Nat) : State :=
  let pos := corePos k
  match o.rec? with
    | none => s
    | some (a, src, _, _) =>
      let va := BitVec.ofNat 64 a
      let key := metaKey 4 va
      if !migDue (s.ctOf pos) (o.migAt key) then s else
      let (e, s1) := copyAddr s k (o.acc k pteEW true false) drop pick 8 va
      match e with
      | .stall => migStall s k o key va
      | .hold => s
      | .fault c => faultCopy s1 k o.id c va
      | .ok pa pl =>
        let dst := placePos pos pl
        let s2 := modCopy (migClear s1 k o.id key) k o.id fun o =>
          { o with wrote := o.wrote ++ o.landedSpans, chunks := [{ run := 0, off := 0, len := 8, tgt := 0, spa := 0, dpa := pa, stage := 4 }] }
        if dst = pos then
          let (s3, ok) := memStore s2 pos pl pa (leBytes 8 src) (!o.res)
          if ok then recordCleared s3 k o.id else chunkFailed s3 k o.id 0 0x0F va
        else
          let l := s2.link pos dst
          if l.st = 3 then chunkFailed s2 k o.id 0 0x0F va
          else if l.st = 0 then chunkFailed s2 k o.id 0 0x15 va
          else if canSend s2 pos dst 0 then sendMsg s2 pos dst 0 (.write pa (leBytes 8 src) (!o.res) false) (.copy k o.id 0)
          else s

/-! ## The banks that an operation touches (R286) -/

/-- The bytes that a copy's runs write (R220, R223). -/
def CopyOp.writeSpans (o : CopyOp) (s : State) (k : Nat) : List (Nat × Nat) :=
  (List.range o.runs).flatMap fun r =>
    if o.kind = .cpym then o.targets.map fun t => (winBase t + (o.dstVa r 0).toNat, o.runLen r)
    else o.spansAt s k (o.dstVa r 0) (o.runLen r)

/-- The bytes that an operation reads or writes. What a chain names in records not read yet, and a ragged copy by row offsets not read
yet, may lie anywhere in the core's scratchpad. -/
def CopyOp.spans (o : CopyOp) (s : State) (k : Nat) : List (Nat × Nat) :=
  match o.kind with
  | .cabort => []
  | .xamo => o.spansAt s k o.src 16 ++ o.spansAt s k o.dst o.width
  | .chain => if o.ended then [] else [(winBase k, 0x400000)]
  | .cpyr =>
    (if o.rowsRead then o.readSpans s k else [(winBase k, 0x400000)])
      ++ o.spansAt s k (BitVec.ofNat 64 o.shape.roa) (4 * (o.shape.cnt 1 + 1)) ++ o.writeSpans s k
  | .cpyw => o.writeSpans s k
  | .cpy | .cpym | .lxfer | .lxred => o.readSpans s k ++ o.writeSpans s k

/-- Some bytes lie in bank `b` of core `k`. -/
def inBank (k b : Nat) (l : List (Nat × Nat)) : Bool := l.any fun x => bytesIn x.1 x.2 (winBase k + b * 0x20000) 0x20000 != 0

/-! ## Steps -/

/-- The operation runs and nothing keeps it from going on. -/
def CopyOp.running (o : CopyOp) : Bool := o.started && !o.aborted && o.stop?.isNone && !o.ended

/-- COPY_CHUNK (R220, R222): row offsets first, then one chunk of the copy or of the record being copied. -/
def stepChunk (s : State) (k : Nat) (o : CopyOp) (tgt run off : Nat) (drop : Bool) (pick : Nat) : State :=
  if !o.running ∨ o.kind = .xamo ∨ o.kind = .cabort ∨ (o.kind = .chain ∧ o.rec?.isNone) then s
  else if !o.rowsRead then readRows s k o drop pick
  else dataChunk s k o tgt run off drop pick

/-- CHAIN_RECORD (R225): the next record is read; or the record whose copy has performed is given back. -/
def stepRecord (s : State) (k : Nat) (o : CopyOp) (drop : Bool) (pick : Nat) : State :=
  if !o.running ∨ o.kind ≠ .chain then s
  else match o.rec? with
    | none =>
      let va := BitVec.ofNat 64 o.nextRec
      if o.nextRec % 32 ≠ 0 then faultCopy s k o.id 0x08 va else metaRead s k o (pteER + pteEW) 3 32 va drop pick
    | some _ => if o.performed = o.total ∧ !o.inFlight then clearRecord s k o drop pick else s

/-- Every chunk has performed, or the operation was stopped by CABORT and nothing is under way (R220, R227). -/
def CopyOp.allMoved (o : CopyOp) : Bool :=
  !o.inFlight && (o.aborted || o.kind == .cabort || (o.started && match o.kind with
    | .chain => o.ended
    | .xamo => !o.chunks.isEmpty
    | .cpyr => o.rowsRead && o.performed == o.total
    | .cpy | .cpym | .cpyw | .lxfer | .lxred | .cabort => o.performed == o.total))

/-- The credits of core `k` that are due (R224): those of one multicast are applied at one CT, the first multiple of 32 after its last
byte. -/
def applyCredits (s : State) (k : Nat) : State :=
  let ct := s.ctOf (corePos k)
  let now := (s.core k).credQ.filter fun q => decide (q.1 ≤ ct)
  if now = [] then s
  else
    let s1 := s.modCore k fun c => { c with credQ := c.credQ.filter fun q => !decide (q.1 ≤ ct) }
    now.foldl (fun s q => q.2.2.foldl (fun s x => credit s x.1 x.2 q.2.1) s) s1

/-- COPY_COMPLETE (R220, R221): the oldest operation of its channel completes. -/
def stepComplete (s : State) (k : Nat) (o : CopyOp) : State :=
  if o.allMoved ∧ o.stop?.isNone ∧ (olderOnChannel (s.core k) o).isEmpty then completeCopy s k o else s

/-- The operation that a step selects: the n-th of the core. -/
def focusCopy (s : State) (f : Nat → CopyOp → State) : State :=
  let a := s.focus.arg
  let k := coreKey a.pos a.core
  match (s.core k).copies[a.n]? with
  | some o => f k o
  | none => s

def execCopyStart (s : State) : Out := .next (focusCopy s fun k o => startCopy s k o s.focus.arg.flag s.focus.arg.peer)
def execCopyChunk (s : State) : Out :=
  let a := s.focus.arg
  .next (focusCopy s fun k o => stepChunk s k o a.m a.idx a.gid a.flag a.peer)
def execChainRecord (s : State) : Out := .next (focusCopy s fun k o => stepRecord s k o s.focus.arg.flag s.focus.arg.peer)
def execCopyComplete (s : State) : Out := .next (focusCopy s fun k o => stepComplete s k o)
/-- MULTICAST_CREDIT (R224): the credits of a core fall due. -/
def execMulticastCredit (s : State) : Out := .next (applyCredits s (coreKey s.focus.arg.pos s.focus.arg.core))

end Sys2Proof.Machine
end

