-- ==== Sys2Proof/Machine/Copy.lean ====
section
/-!
DEFINITION. The C slot: shape registers, copies, chains, watermark writes, link transfers, remote atomics and CABORT (R87,
R217 to R229, R303, R304).
-/
namespace Sys2Proof.Machine
open Sys2Proof

/-! ## Fields and tokens -/

/-- Flags of CF (Table 5-8). -/
def cfMc (f : Cpy) : Bool := f.cf.getLsbD 7
def cfRg (f : Cpy) : Bool := f.cf.getLsbD 6
def cfUn (f : Cpy) : Bool := f.cf.getLsbD 5
def cfWl (f : Cpy) : Bool := f.cf.getLsbD 4
def cfAop (f : Cpy) : Nat := f.cf.toNat % 16

/-- The bits that are zero in every CPY word, and flags outside the mask `acc` (R87, R219). -/
def cpyZero (f : Cpy) (acc : BitVec 8) : Bool := f.z == 0 && decide (f.ch.toNat < 8) && (f.cf &&& ~~~acc) == 0

/-- The tokens that an operation consumes. -/
def kisOf (f : Cpy) : List Nat := [f.ki1.toNat, f.ki2.toNat, f.ki3.toNat]

/-- Token misuse of an operation that produces `ko` and consumes `kis` (Table 13-2): the token. -/
def tokMisuse (c : Ctx) (ko : Nat) (kis : List Nat) : Option Nat :=
  if ko ≠ 0 ∧ (c.tok ko).pend then some ko
  else
    let rec dup : List Nat → List Nat → Option Nat
      | _, [] => none
      | seen, t :: r => if t ≠ 0 ∧ seen.contains t then some t else dup (seen ++ [t]) r
    dup [] (kis ++ [ko])

/-- The fault of token misuse. -/
def tokFault (e : Env) (ko : Nat) (kis : List Nat) : Option (Nat × W64) :=
  (tokMisuse e.c ko kis).map fun t => (0x12, BitVec.ofNat 64 t)

/-! ## Shape registers -/

def Ctx.shapeOf (c : Ctx) (n : Nat) : Shape := sget Shape.reset c.shapes n

/-- KO, KI1 to KI3 and CF are zero (R218). -/
def cdZero (f : Cpy) : Bool := cpyZero f 0 && f.ko == 0 && f.ki1 == 0 && f.ki2 == 0 && f.ki3 == 0

/-- CDSET (R218). -/
def cdsetParts (f : Cpy) : Parts :=
  let word := cpyWord 0x01 f
  let l := f.ch.toNat % 8
  { slot := 6, word := word, zeroOk := cdZero f
    bad := if 6 ≤ l then some 0x01 else none
    srcS := [f.ss.toNat, f.sd.toNat]
    fault := fun e => if 2 ^ 24 ≤ (e.s f.ss.toNat).toNat then some (0x01, word) else none
    eff := fun e s =>
      let a := e.s f.ss.toNat
      let b := (e.s f.sd.toNat).toNat
      s.modCtx e.ck fun c =>
        let h := c.shapeOf f.cd.toNat
        let h1 : Shape := { h with count := lset h.count l a.toNat, sstr := lset h.sstr l (toSigned 32 (bitsOf b 63 32)),
                                   dstr := lset h.dstr l (toSigned 32 (bitsOf b 31 0)) }
        { c with shapes := sput c.shapes f.cd.toNat h1 } }
def execCdset (p : Pfx) (f : Cpy) (s : State) : Out := issueOne p (cdsetParts f) s

/-- FMT and ROA hold what Table 11-5 allows. -/
def fmtOk (a b : Nat) : Bool :=
  a / 2 ^ 13 == 0 && (bitsOf a 12 8 == 0 || bitsOf a 12 8 == 0x0D || bitsOf a 12 8 == 0x0E || bitsOf a 12 8 == 0x0F)
    && b / 2 ^ 48 == 0 && b % 4 == 0

/-- CDFMT (R218). -/
def cdfmtParts (f : Cpy) : Parts :=
  let word := cpyWord 0x02 f
  { slot := 6, word := word, zeroOk := cdZero f && f.ch == 0
    srcS := [f.ss.toNat, f.sd.toNat]
    fault := fun e => if fmtOk (e.s f.ss.toNat).toNat (e.s f.sd.toNat).toNat then none else some (0x01, word)
    eff := fun e s => s.modCtx e.ck fun c =>
      let h : Shape := { c.shapeOf f.cd.toNat with fmt := e.s f.ss.toNat, roa := (e.s f.sd.toNat).toNat }
      { c with shapes := sput c.shapes f.cd.toNat h } }
def execCdfmt (p : Pfx) (f : Cpy) (s : State) : Out := issueOne p (cdfmtParts f) s

/-! ## Issue of a copy -/

/-- Rights of a C operation at issue (Table 10-5, R291). -/
def cpyAcc (e : Env) (need : Nat) (isWrite amo : Bool) : Acc :=
  { ck := e.ck, part := e.c.part, res := e.c.res, need := need, isWrite := isWrite, amo := amo, copy := true
    dom := if isWrite && e.c.compPhase then some e.c.dom.toNat else none }

/-- The outcome of the first byte of an operand (R202, R381), with its alignment, its size and the check of R289. -/
def cpyOut (e : Env) (q : Acc) (bank : Bool) (align n : Nat) (va : W64) : W64 × Aout :=
  (va, addrOut e.pre (e.pre.core e.k).ctlb q e.c.walkRes bank align n va)

/-- The place of an outcome. -/
def Aout.place : Aout → Option Place
  | .ok _ pl => some pl
  | .miss => none
  | .err _ _ _ => none

/-- A destination in an instruction store (Table 10-5). -/
def inIstore (o : Aout) : Bool :=
  match o.place with
  | some (.window _ off) => areaOf off == .istore
  | some (.dram _) | some (.held _ _ _) | some (.chipCtl _ _) | some (.host _) | some .hole | none => false

/-- The operation as it issues; what differs between kinds is filled in by each. -/
def newCopy (e : Env) (f : Cpy) (kind : CopyKind) : CopyOp :=
  { id := 0, bundle := e.bundle, ctx := ckCtx e.ck, hart := none, kind := kind, ch := f.ch.toNat % 8
    src := e.s f.ss.toNat, dst := e.s f.sd.toNat, shape := Shape.reset, shapes := [], rows := [], ko := f.ko.toNat
    kis := kisOf f, mc := false, rg := false, un := cfUn f, wl := false, aop := 0, w32 := false
    scope := e.scope, part := e.c.part, res := e.c.res, dom := if e.c.compPhase then some e.c.dom.toNat else none
    lvl := e.c.tl, post := none, rrel := none, started := false, chunks := [], foreign := [], wrote := [], rec? := none, nextRec := 0
    ended := false, aborted := false, stop? := none, migs := [], home := none, targets := [], credits := [], holds := []
    opnd := 0, expect := 0, old := 0, fl := 0, sched := none }

/-- A copy issues (R220): its token is pending, and it is accepted or enters its queue (R111). -/
def issueCopy (e : Env) (o : CopyOp) (s : State) : State :=
  let (id, s1) := s.takeId
  let o := { o with id := id }
  let s2 := setPend s1 e.ck o.ko
  if unitRefuses e.pre e.ck 3 false then s2.modCtx e.ck fun c => { c with cq := c.cq ++ [o] } else acceptCopy s2 e.ck o

/-- The fault of the operands' addresses. -/
def addrFault (word : W64) (l : List (W64 × Aout)) : Option (Nat × W64) :=
  (decided l).map fun (_, c, useVa, va) => (c, if useVa then va else word)

/-- A C operation: tokens, then its addresses, then what `extra` finds, which the list of R381 does not name, then `late`; it waits
for the walker on a miss. -/
def cParts (op : BitVec 8) (f : Cpy) (acc : BitVec 8) (more : Bool) (extra : Env → Option (Nat × W64))
    (addrs : Env → List (W64 × Aout)) (late : Env → Option (Nat × W64)) (mk : Env → CopyOp) : Parts :=
  let word := cpyWord op f
  { slot := 6, word := word, zeroOk := cpyZero f acc && more
    prods := [f.ko.toNat]
    srcS := [f.ss.toNat, f.sd.toNat]
    unit := some 3
    fault := fun e => (tokFault e f.ko.toNat (kisOf f)).or
      (if (firstMiss (addrs e)).isSome then none else (addrFault word (addrs e)).or ((extra e).or (late e)))
    forgets := fun e s => dropTrans s e.ck (addrs e)
    waits := fun e => (firstMiss (addrs e)).map fun va => .walk va true
    eff := fun e s => issueCopy e (mk e) s }

/-- Destination first byte of a copy, and its source, which needs X too where the destination is an instruction store
(Table 10-5); the source ranks first among equals (R381). -/
def cpyAddrs (f : Cpy) (e : Env) : List (W64 × Aout) :=
  let d := cpyOut e (cpyAcc e pteEW true false) true 1 1 (e.s f.sd.toNat)
  let need := if inIstore d.2 && e.c.res then pteER + pteX else pteER
  [cpyOut e (cpyAcc e need false false) true 1 1 (e.s f.ss.toNat), d]

/-- CPY (R220). -/
def cpyParts (f : Cpy) : Parts :=
  cParts 0x08 f 0x20 true (fun _ => none) (cpyAddrs f) (fun _ => none) fun e =>
    { newCopy e f .cpy with shape := e.c.shapeOf f.cd.toNat }
def execCpy (p : Pfx) (f : Cpy) (s : State) : Out := issueOne p (cpyParts f) s

/-- CPYR (R222). -/
def cpyrParts (f : Cpy) : Parts :=
  cParts 0x0A f 0x60 true (fun _ => none) (cpyAddrs f) (fun _ => none) fun e =>
    { newCopy e f .cpyr with shape := e.c.shapeOf f.cd.toNat, rg := cfRg f }
def execCpyr (p : Pfx) (f : Cpy) (s : State) : Out := issueOne p (cpyrParts f) s

/-! ## Multicast -/

/-- The targets of S[SD]: logical cores of the chiplet and their physical ones, lowest first (R223). -/
def mcTargets (e : Env) (v : W64) : List (Nat × Nat) :=
  let pos := ckPos e.ck
  let chip := e.pre.chip pos
  (setBitsOf 32 (bitsOf v.toNat 63 32)).map fun n => (n, coreKey pos (chip.lc n).pcore)

/-- The multicast as an operation, to count where its bytes land. -/
def mcCopy (f : Cpy) (e : Env) : CopyOp :=
  { newCopy e f .cpym with shape := e.c.shapeOf f.cd.toNat, mc := cfMc f, targets := (mcTargets e (e.s f.sd.toNat)).map (·.2) }

/-- Bytes of bank `b` that the multicast writes in each target. -/
def mcBytes (o : CopyOp) (b : Nat) : Nat :=
  (List.range o.runs).foldl (fun n r => n + bytesIn (o.dstVa r 0).toNat (o.runLen r) (b * 0x20000) 0x20000) 0

/-- The banks that the multicast writes, with the bytes landing in each. -/
def mcBanks (o : CopyOp) : List (Nat × Nat) :=
  (List.range 32).filterMap fun b => let n := mcBytes o b; if n = 0 then none else some (b, n)

/-- S[SD][31:22] is not zero, or no core is named (R223). -/
def mcBad (f : Cpy) (e : Env) : Option (Nat × W64) :=
  let v := (e.s f.sd.toNat).toNat
  if bitsOf v 31 22 ≠ 0 ∨ bitsOf v 63 32 = 0 then some (0x01, cpyWord 0x09 f) else none

/-- The outcome of each target: R194 and the domain (R223, R291). -/
def mcOuts (f : Cpy) (e : Env) : List (W64 × Aout) :=
  let v := e.s f.sd.toNat
  let q := cpyAcc e 0 true false
  (mcTargets e v).map fun (n, t) =>
    let pa := winBase t + bitsOf v.toNat 21 0
    let pl := placeOf e.pre (ckPos e.ck) pa
    let chip := e.pre.chip (ckPos e.ck)
    (v, if !(chip.lc n).valid then .err 4 0x0A true
        else if targetRefused e.pre q pl then .err 4 0x0A true
        else match q.dom with
          | some d => if inDomain e.pre e.ck d 1 pl then .ok pa pl else .err 4 0x14 false
          | none => .ok pa pl)

/-- A bank that the multicast would write is in use (R223): the lowest conflicting logical core, and its bank. -/
def mcConflict (f : Cpy) (e : Env) : Option (Nat × W64) :=
  let o := mcCopy f e
  let bs := mcBanks o
  let chip := (e.pre.chip (ckPos e.ck)).logicalOf (ckPos e.ck)
  (mcTargets e (e.s f.sd.toNat)).findSome? fun (n, t) =>
    (bs.find? fun (b, _) => (sget Bank.reset (e.pre.core t).banks b).inuse).map fun (b, _) =>
      (0x10, BitVec.ofNat 64 (b * 256 + 32 * chip + n))

/-- Hold every bank that a multicast writes (R223). -/
def holdBanks (s : State) (o : CopyOp) : State :=
  o.holds.foldl (fun s (t, b, _) => s.modCore t fun c =>
    let v := sget Bank.reset c.banks b
    { c with banks := sput c.banks b { v with hold := v.hold + 1 } }) s

/-- CPYM (R223). The targets' banks are checked by R223 and not by R289. -/
def cpymParts (f : Cpy) : Parts :=
  let mk := fun e => let o := mcCopy f e
    { o with holds := o.targets.flatMap fun t => (mcBanks o).map fun (b, n) => (t, b, n) }
  { cParts 0x09 f 0xA0 true (mcBad f)
      (fun e => cpyOut e (cpyAcc e pteER false false) true 1 1 (e.s f.ss.toNat) :: mcOuts f e) (mcConflict f) mk with
    eff := fun e s => issueCopy e (mk e) (holdBanks s (mk e)) }
def execCpym (p : Pfx) (f : Cpy) (s : State) : Out := issueOne p (cpymParts f) s

/-! ## Chains, watermark writes, aborts -/

/-- CHAIN (R225): the first record is 32-byte aligned. -/
def chainParts (f : Cpy) : Parts :=
  cParts 0x0B f 0x20 (f.cd == 0 && f.sd == 0) (fun _ => none)
    (fun e => [cpyOut e (cpyAcc e (pteER + pteEW) false false) true 32 32 (e.s f.ss.toNat)]) (fun _ => none) fun e =>
    { newCopy e f .chain with shapes := e.c.shapes, nextRec := (e.s f.ss.toNat).toNat }
def execChain (p : Pfx) (f : Cpy) (s : State) : Out := issueOne p (chainParts f) s

/-- CPYW (R226). -/
def cpywParts (f : Cpy) : Parts :=
  cParts 0x0C f 0x20 (f.cd == 0) (fun _ => none)
    (fun e => [cpyOut e (cpyAcc e pteEW true false) true 8 8 (e.s f.sd.toNat)]) (fun _ => none) fun e => newCopy e f .cpyw
def execCpyw (p : Pfx) (f : Cpy) (s : State) : Out := issueOne p (cpywParts f) s

/-- CABORT (R227). -/
def cabortParts (f : Cpy) : Parts :=
  cParts 0x19 f 0 (f.cd == 0 && f.ss == 0 && f.sd == 0 && f.ki1 == 0 && f.ki2 == 0 && f.ki3 == 0) (fun _ => none)
    (fun _ => []) (fun _ => none) fun e => newCopy e f .cabort
def execCabort (p : Pfx) (f : Cpy) (s : State) : Out := issueOne p (cabortParts f) s

/-! ## Link transfers -/

/-- Checks of Table 14-6 on the format and on TWAIT. -/
def lxFmt (op : BitVec 8) (red : Bool) (f : Cpy) (e : Env) : Option (Nat × W64) :=
  let ef := (e.c.shapeOf f.cd.toNat).ef
  if (red || cfWl f) && ef == 0 then some (0x04, cpyWord op f)
  else if cfWl f && e.tw.isSome then some (0x01, cpyWord op f) else none

/-- COUNT[0] is no multiple of the element size (Table 14-6). -/
def lxCount (f : Cpy) (e : Env) : Bool :=
  let h := e.c.shapeOf f.cd.toNat
  h.cnt 0 % efBytes h.ef != 0

/-- The source lies on the issuing chiplet, the destination on another and in class 0, 1 or 2 (Table 14-6). -/
def lxHome (e : Env) (isDst : Bool) (x : W64 × Aout) : W64 × Aout :=
  match x.2 with
  | .ok pa pl =>
    let far := placePos (ckPos e.ck) pl != ckPos e.ck
    let cls := match pl with
      | .dram _ | .window _ _ | .held _ _ _ => true
      | .chipCtl _ _ | .host _ | .hole => false
    (x.1, if (if isDst then far && cls else !far) then .ok pa pl else .err 4 0x0A true)
  | .miss => x
  | .err _ _ _ => x

/-- The addresses of a link transfer: element-aligned, with a COUNT[0] that is no multiple as a misalignment of the source. -/
def lxAddrs (f : Cpy) (e : Env) : List (W64 × Aout) :=
  let n := efBytes (e.c.shapeOf f.cd.toNat).ef
  let d := lxHome e true (cpyOut e (cpyAcc e pteEW true false) true n n (e.s f.sd.toNat))
  let need := if inIstore d.2 && e.c.res then pteER + pteX else pteER
  let s := cpyOut e (cpyAcc e need false false) true n n (e.s f.ss.toNat)
  [if lxCount f e then (s.1, .err 1 0x08 true) else lxHome e false s, d]

/-- The chiplet of a link transfer's first destination byte (R303). -/
def lxDest (f : Cpy) (e : Env) : Option Nat :=
  ((lxAddrs f e).getLast?.bind fun x => x.2.place).map (placePos (ckPos e.ck))

/-- The link transfer as an operation. -/
def lxCopy (kind : CopyKind) (f : Cpy) (e : Env) : CopyOp :=
  { newCopy e f kind with shape := e.c.shapeOf f.cd.toNat, wl := cfWl f, home := lxDest f e, sched := e.tw.map (·.toNat) }

/-- LXFER and LXRED (R229, R303, R304): a scheduled transfer whose bundle issues after its guard logs a link-late slip at once. -/
def lxParts (op : BitVec 8) (kind : CopyKind) (f : Cpy) : Parts :=
  { cParts op f 0x10 true (lxFmt op (kind == .lxred) f) (lxAddrs f) (fun _ => none) (lxCopy kind f) with
    eff := fun e s =>
      let o := lxCopy kind f e
      let late := o.sched.any fun t => decide (t + 1500 < e.pre.ctOf (ckPos e.ck))
      issueCopy e (if late then { o with sched := none } else o) (if late then linkSlip s e.ck (o.sched.getD 0) else s) }

def lxferParts (f : Cpy) : Parts := lxParts 0x10 .lxfer f
def execLxfer (p : Pfx) (f : Cpy) (s : State) : Out := issueOne p (lxferParts f) s

def lxredParts (f : Cpy) : Parts := lxParts 0x11 .lxred f
def execLxred (p : Pfx) (f : Cpy) (s : State) : Out := issueOne p (lxredParts f) s

/-! ## Remote atomics -/

/-- The block of an XAMO lies in the local scratchpad (R228). -/
def localPad (e : Env) (x : W64 × Aout) : W64 × Aout :=
  match x.2 with
  | .ok pa (.window k off) => (x.1, if k = e.k ∧ areaOf off = .pad then .ok pa (.window k off) else .err 4 0x0A true)
  | .ok _ (.dram _) | .ok _ (.held _ _ _) | .ok _ (.chipCtl _ _) | .ok _ (.host _) | .ok _ .hole => (x.1, .err 4 0x0A true)
  | .miss => x
  | .err _ _ _ => x

/-- XAMO (R228). -/
def xamoParts (f : Cpy) : Parts :=
  let w32 := f.cd.getLsbD 0
  { cParts 0x12 f 0x0F (decide (f.cd.toNat < 2)) (fun _ => none)
      (fun e => [localPad e (cpyOut e (cpyAcc e (pteER + pteEW) false false) true 16 16 (e.s f.ss.toNat)),
        let n := if w32 then 4 else 8
        cpyOut e (cpyAcc e (pteER + pteEW) true true) true n n (e.s f.sd.toNat)]) (fun _ => none) fun e =>
      { newCopy e f .xamo with aop := cfAop f, w32 := w32 } with
    bad := if 11 ≤ cfAop f ∨ (cfAop f = 10 ∧ !w32) then some 0x01 else none }
def execXamo (p : Pfx) (f : Cpy) (s : State) : Out := issueOne p (xamoParts f) s

end Sys2Proof.Machine
end

