-- ==== Sys2Proof/Machine/LoadStore.lean ====
section
/-!
DEFINITION. The L and T slots: loads, stores, queue operations and atomics (R84, R85, R208 to R216).
-/
namespace Sys2Proof.Machine
open Sys2Proof

/-- What the X field of an operation holds (Table 5-6): a scalar index under AM 1 and nothing otherwise, a scalar stride,
a vector of indices, a queue, a token, or the operand of an atomic. -/
inductive XUse where | index | stride | gather | queue | token | operand
  deriving DecidableEq, Repr

/-- One MEM operation (Tables 5-6, 11-2 and 11-4): its address modes and widths, the AQ value it needs (none for an atomic,
which accepts both), whether D is a vector register, the use of X, the minimum bound (0 where LAT must be 0, none where it
must be 15), and the code of an atomic. -/
structure MemDef where
  op    : BitVec 8
  store : Bool
  ams   : List Nat
  wds   : List Nat
  aq    : Option Bool
  vec   : Bool
  xUse  : XUse
  min   : Option Nat
  amo   : Option Nat
  deriving DecidableEq, Repr

/-- The unit of an operation: 1 L, 2 T. -/
def MemDef.unit (t : MemDef) : Nat := if t.store || t.amo.isSome then 2 else 1
/-- The slot of an operation: 4 L, 5 T. -/
def MemDef.slot (t : MemDef) : Nat := t.unit + 3

/-- The width code: WD[2:0] of an atomic, WD of every other operation (Table 5-5). -/
def MemDef.wd (t : MemDef) (f : MemF) : Nat := if t.amo.isSome then f.wd.toNat % 8 else f.wd.toNat

/-- The bytes of a width code (R209). -/
def wdBytes (wd : Nat) : Nat :=
  match wd with
  | 0 | 4 => 1
  | 1 | 5 => 2
  | 2 | 6 => 4
  | 3 => 8
  | 7 => 128
  | 8 => 64
  | _ => 32

/-- AM 3 offset (R85). -/
def frameOff (f : MemF) : Int := f.imm.toInt

/-- Fields that neither the address mode nor the operation reads are zero, and AQ is as the table has it (R85). -/
def MemDef.zeroOk (t : MemDef) (f : MemF) : Bool :=
  let am := f.am.toNat
  (match t.aq with
    | some q => f.aq == (if q then 1 else 0)
    | none => true)
  && (t.vec || s6Ok f.d)
  && (!t.ams.contains am ||
    (match t.xUse with
      | .index => if am = 1 then s6Ok f.x else f.x == 0
      | .stride => s6Ok f.x
      | .gather => true
      | .queue => decide (f.x.toNat < 8)
      | .token => s6Ok f.x
      | .operand => s6Ok f.x)
    && (if am = 1 then f.imm == 0 else true)
    && (if am = 3 then f.base == 0 else true)
    && (if am = 4 then f.base == 0 && f.imm == 0 else true))

/-- The illegal field values: an AM or WD that the operation does not accept, a frame offset outside the frame, BASE equal
to D under AM 2, token k0 (R85, R208, R214). -/
def MemDef.bad (t : MemDef) (f : MemF) : Option Nat :=
  if !t.ams.contains f.am.toNat || !t.wds.contains (t.wd f) then some 0x01
  else if f.am = 3 ∧ (frameOff f < 0 ∨ 1023 < frameOff f) then some 0x01
  else if f.am = 2 ∧ !t.vec ∧ s6 f.d = f.base.toNat then some 0x01
  else if t.xUse = .token ∧ s6 f.x = 0 then some 0x01
  else none

/-- LAT (R80, R211): none names a token-tracked load, which needs code 15. -/
def MemDef.latBad (t : MemDef) (f : MemF) : Option Nat :=
  match t.min with
  | none => if f.lat = 15 then none else some 0x01
  | some 0 => latNone f.lat
  | some n => latReg f.lat n

/-- The address of Table 11-1, or the address that its granules and elements count from. -/
def memVa (f : MemF) (e : Env) : W64 :=
  match f.am.toNat with
  | 1 => e.s f.base.toNat + e.s (s6 f.x)
  | 2 => e.s f.base.toNat
  | _ => e.s f.base.toNat + f.imm.signExtend 64

/-- The separate accesses of an operation with a virtual address: address, byte offset in the register, bytes (R210). -/
def MemDef.parts (t : MemDef) (f : MemF) (e : Env) : List (W64 × Nat × Nat) :=
  let va := memVa f e
  match f.am.toNat with
  | 5 => (List.range 16).map fun j => (va + BitVec.ofNat 64 j * e.s (s6 f.x), 8 * j, 8)
  | 6 => (List.range 32).map fun j =>
      (va + ((e.v f.x.toNat).extractLsb' (32 * j) 32).setWidth 64, 4 * j, 4)
  | _ => [(va, 0, wdBytes (t.wd f))]

/-- Who accesses, with what rights (Table 10-5, R291). -/
def MemDef.acc (t : MemDef) (e : Env) : Acc :=
  let need := if t.amo.isSome then pteR + pteW else if t.store then pteW else pteR
  { ck := e.ck, part := e.c.part, res := e.c.res, need := need, isWrite := t.store || t.amo.isSome, amo := t.amo.isSome
    copy := false
    dom := if (t.store || t.amo.isSome) && e.c.compPhase then some e.c.dom.toNat else none }

/-- The outcome of every address of an operation (R381). -/
def MemDef.outs (t : MemDef) (f : MemF) (e : Env) : List (W64 × Aout) :=
  (t.parts f e).map fun (va, _, n) => (va, addrOut e.pre (e.pre.core e.k).tlb (t.acc e) e.c.walkRes true n n va)

/-- The address is translated: not a frame slot, not a queue. -/
def hasVa (f : MemF) : Bool := f.am != 3 && f.am != 4

/-- The frame-memory address of a frame slot (Table 11-1, R124). -/
def framePa (f : MemF) (e : Env) : Nat :=
  winBase e.k + 0x580000 + ckCtx e.ck * 0x10000 + e.c.wdepth * 1024 + (frameOff f).toNat

/-- Every access of the operation is local (R114, R195). -/
def MemDef.isLocal (t : MemDef) (f : MemF) (e : Env) : Bool :=
  !hasVa f || (t.outs f e).all fun x => match x.2 with
    | .ok _ pl => isLocalPlace e.ck pl
    | .miss => false
    | .err _ _ _ => false

/-- The issue-time fault of an operation (R381): token misuse (Table 13-2), a queue that is not the context's (R85, R215), a
misaligned frame slot, an address. -/
def MemDef.fault (t : MemDef) (f : MemF) (e : Env) : Option (Nat × W64) :=
  let word := memWord t.op f
  if t.xUse = .token ∧ (e.c.tok (s6 f.x)).pend then some (0x12, BitVec.ofNat 64 (s6 f.x))
  else if f.am = 4 then
    if (if t.store then f.x.toNat % 8 < 4 else 4 ≤ f.x.toNat % 8) ∨ (e.pre.core e.k).owner ≠ some (ckCtx e.ck) then
      some (0x1E, word)
    else none
  else if f.am = 3 then
    if (frameOff f).toNat % wdBytes (t.wd f) ≠ 0 then some (0x08, BitVec.ofNat 64 (e.c.wdepth * 1024 + (frameOff f).toNat))
    else none
  else (decided (t.outs f e)).map fun (_, c, useVa, va) => (c, if useVa then va else word)

/-- The queue can serve one operation more than those still to perform (R215). -/
def queueReady (e : Env) (push : Bool) (q : Nat) : Bool :=
  let n := (e.pre.queue e.k q).length
  let m := (e.c.unperformed.filter fun a => a.kind == (if push then .qpush q else .qpop q)).length
  if push then decide (n + m < 16) else decide (m < n)

/-- An empty or full queue blocks (R215); an address that misses the cache waits for the walker (R203). -/
def MemDef.waits (t : MemDef) (f : MemF) (e : Env) : Option Wait :=
  if f.am = 4 then if queueReady e t.store (f.x.toNat % 8) then none else some .cond
  else if f.am = 3 then none
  else (firstMiss (t.outs f e)).map fun va => .walk va false

/-- What the access does with memory. -/
def MemDef.kind (t : MemDef) (f : MemF) : AccKind :=
  let b := wdBytes (t.wd f)
  match t.amo with
  | some o => .amo o b
  | none =>
    match t.xUse with
    | .queue => if t.store then .qpush (f.x.toNat % 8) else .qpop (f.x.toNat % 8)
    | .index | .stride | .gather | .token | .operand =>
      if t.store then .store
      else if t.vec then (if t.wd f < 7 then .bcast b else .loadV)
      else .load (decide (t.wd f < 4)) b

/-- The pieces of the access. -/
def MemDef.pieces (t : MemDef) (f : MemF) (e : Env) : List Piece :=
  if f.am = 4 then []
  else if f.am = 3 then [{ pa := framePa f e, off := 0, len := wdBytes (t.wd f) }]
  else ((t.parts f e).zip (t.outs f e)).map fun ((_, off, n), (_, o)) =>
    { pa := match o with
        | .ok pa _ => pa
        | .miss => 0
        | .err _ _ _ => 0
      off := off, len := n }

/-- The register that the operation writes. -/
def MemDef.dest (t : MemDef) (f : MemF) (e : Env) : Option Dest :=
  if t.store then none
  else if t.vec then some (.v (e.c.vBase + f.d.toNat))
  else if s6 f.d = 0 then none else some (.s (e.c.sphys (s6 f.d)))

/-- The access of an operation at issue. A queue push is a release and a pop an acquire at core scope (R270, R274). -/
def MemDef.access (t : MemDef) (f : MemF) (e : Env) (id : Nat) : Access :=
  { id := id, bundle := e.bundle, kind := t.kind f, pieces := t.pieces f e, va := memVa f e
    data := if t.store then (if t.vec then e.v f.d.toNat else (e.s (s6 f.d)).setWidth 1024) else 0
    opnd := if t.amo.isSome then e.s (s6 f.x) else 0
    expect := if t.amo = some 9 then e.s (s6 f.d) else 0
    dest := t.dest f e, scope := if f.am = 4 then 0 else e.scope
    acq := (f.aq == 1 && !t.store) || (f.am == 4 && !t.store)
    rel := (f.aq == 1 && t.store) || (t.amo.isSome && f.wd.getLsbD 3) || (f.am == 4 && t.store)
    isLocal := t.isLocal f e, part := e.c.part, res := e.c.res
    tok := if t.xUse = .token then s6 f.x else 0, lvl := e.c.tl, sent := [], done := [], aborted := 0, seen := 0, bound := bnd f.lat, acc := none }

/-- The bound within which the post-incremented BASE lands (Table 11-1). -/
def MemDef.baseBound (t : MemDef) (f : MemF) : Nat := if t.store then 1 else bnd f.lat

/-- A MEM operation issues (R111, R208 to R216). An operation of T waits for a queued local one of its own bundle's L (R114); a
token-tracked load is not captured at a trap entry (R313). -/
def MemDef.effect (t : MemDef) (f : MemF) (e : Env) (s : State) : State :=
  let (id, s1) := s.takeId
  let a := t.access f e id
  let s2 := match a.dest with
    | some d => pushWriteId s1 e.ck id d (if t.vec then laneV else laneS) 0 false (f.lat == 15) (bnd f.lat) 0
    | none => s1
  let s3 := setPend s2 e.ck a.tok
  let s4 := if f.am = 2 then
      writeS s3 e.ck f.base.toNat (e.s f.base.toNat + f.imm.signExtend 64) (t.baseBound f)
    else s3
  issueAccess s4 e.ck t.unit (unitRefuses s e.ck t.unit a.isLocal) a

/-- A MEM operation in its slot. -/
def memParts (t : MemDef) (f : MemF) : Parts :=
  { slot := t.slot, word := memWord t.op f, zeroOk := t.zeroOk f, bad := t.bad f, latBad := t.latBad f
    vregs := (if t.vec then [f.d.toNat] else []) ++ (if t.xUse = .gather then [f.x.toNat] else [])
    dsts := (if t.store then [] else if t.vec then [.v f.d.toNat] else [.s (s6 f.d)])
      ++ (if f.am = 2 then [.s f.base.toNat] else [])
    prods := if t.xUse = .token then [s6 f.x] else []
    srcS := (if hasVa f then [f.base.toNat] else [])
      ++ (match t.xUse with
        | .index => if f.am = 1 then [s6 f.x] else []
        | .stride | .operand => [s6 f.x]
        | .gather | .queue | .token => [])
      ++ (if (t.store && !t.vec) || t.amo == some 9 then [s6 f.d] else [])
    srcV := (if t.store && t.vec then [f.d.toNat] else []) ++ (if t.xUse = .gather then [f.x.toNat] else [])
    unit := some t.unit
    isLocal := t.isLocal f
    ea := fun e => if hasVa f then some (memVa f e) else none
    fault := t.fault f
    forgets := fun e s => if hasVa f then dropTrans s e.ck (t.outs f e) else s
    waits := t.waits f
    eff := t.effect f }

/-- LD (R213): loads a scalar. -/
def ldDef : MemDef :=
  { op := 0x01, store := false, ams := [0, 1, 2], wds := [0, 1, 2, 3, 4, 5, 6], aq := some false, vec := false
    xUse := .index, min := some 4, amo := none }
def ldParts (f : MemF) : Parts := memParts ldDef f
def execLd (p : Pfx) (f : MemF) (s : State) : Out := issueOne p (ldParts f) s

/-- LDAQ (R213): loads a scalar with acquire. -/
def ldaqDef : MemDef :=
  { op := 0x02, store := false, ams := [0], wds := [0, 1, 2, 3, 4, 5, 6], aq := some true, vec := false
    xUse := .index, min := some 4, amo := none }
def ldaqParts (f : MemF) : Parts := memParts ldaqDef f
def execLdaq (p : Pfx) (f : MemF) (s : State) : Out := issueOne p (ldaqParts f) s

/-- LDF (R213): loads from a frame slot. -/
def ldfDef : MemDef :=
  { op := 0x03, store := false, ams := [3], wds := [0, 1, 2, 3, 4, 5, 6], aq := some false, vec := false
    xUse := .index, min := some 1, amo := none }
def ldfParts (f : MemF) : Parts := memParts ldfDef f
def execLdf (p : Pfx) (f : MemF) (s : State) : Out := issueOne p (ldfParts f) s

/-- LDV (R213): loads a vector. -/
def ldvDef : MemDef :=
  { op := 0x04, store := false, ams := [0, 1, 2], wds := [7, 8, 9], aq := some false, vec := true
    xUse := .index, min := some 6, amo := none }
def ldvParts (f : MemF) : Parts := memParts ldvDef f
def execLdv (p : Pfx) (f : MemF) (s : State) : Out := issueOne p (ldvParts f) s

/-- LDVS (R210): loads 16 strided granules. -/
def ldvsDef : MemDef :=
  { op := 0x05, store := false, ams := [5], wds := [7], aq := some false, vec := true
    xUse := .stride, min := some 12, amo := none }
def ldvsParts (f : MemF) : Parts := memParts ldvsDef f
def execLdvs (p : Pfx) (f : MemF) (s : State) : Out := issueOne p (ldvsParts f) s

/-- LDVX (R210): gathers 32 elements. -/
def ldvxDef : MemDef :=
  { op := 0x06, store := false, ams := [6], wds := [7], aq := some false, vec := true
    xUse := .gather, min := some 12, amo := none }
def ldvxParts (f : MemF) : Parts := memParts ldvxDef f
def execLdvx (p : Pfx) (f : MemF) (s : State) : Out := issueOne p (ldvxParts f) s

/-- LDVB (R210): loads a scalar and broadcasts it. -/
def ldvbDef : MemDef :=
  { op := 0x07, store := false, ams := [0, 1], wds := [0, 1, 2, 3], aq := some false, vec := true
    xUse := .index, min := some 6, amo := none }
def ldvbParts (f : MemF) : Parts := memParts ldvbDef f
def execLdvb (p : Pfx) (f : MemF) (s : State) : Out := issueOne p (ldvbParts f) s

/-- QPOP (R215): pops the oldest queue entry, blocking while the queue is empty. -/
def qpopDef : MemDef :=
  { op := 0x08, store := false, ams := [4], wds := [3], aq := some false, vec := false
    xUse := .queue, min := some 2, amo := none }
def qpopParts (f : MemF) : Parts := memParts qpopDef f
def execQpop (p : Pfx) (f : MemF) (s : State) : Out := issueOne p (qpopParts f) s

/-- LDT (R214): token-tracked scalar load. -/
def ldtDef : MemDef :=
  { op := 0x09, store := false, ams := [0], wds := [0, 1, 2, 3, 4, 5, 6], aq := some false, vec := false
    xUse := .token, min := none, amo := none }
def ldtParts (f : MemF) : Parts := memParts ldtDef f
def execLdt (p : Pfx) (f : MemF) (s : State) : Out := issueOne p (ldtParts f) s

/-- LDVT (R214): token-tracked vector load. -/
def ldvtDef : MemDef :=
  { op := 0x0A, store := false, ams := [0], wds := [7], aq := some false, vec := true
    xUse := .token, min := none, amo := none }
def ldvtParts (f : MemF) : Parts := memParts ldvtDef f
def execLdvt (p : Pfx) (f : MemF) (s : State) : Out := issueOne p (ldvtParts f) s

/-- ST (R213): stores a scalar. -/
def stDef : MemDef :=
  { op := 0x01, store := true, ams := [0, 1, 2], wds := [0, 1, 2, 3], aq := some false, vec := false
    xUse := .index, min := some 0, amo := none }
def stParts (f : MemF) : Parts := memParts stDef f
def execSt (p : Pfx) (f : MemF) (s : State) : Out := issueOne p (stParts f) s

/-- STRL (R213): stores a scalar with release. -/
def strlDef : MemDef :=
  { op := 0x02, store := true, ams := [0], wds := [0, 1, 2, 3], aq := some true, vec := false
    xUse := .index, min := some 0, amo := none }
def strlParts (f : MemF) : Parts := memParts strlDef f
def execStrl (p : Pfx) (f : MemF) (s : State) : Out := issueOne p (strlParts f) s

/-- STF (R213): stores into a frame slot. -/
def stfDef : MemDef :=
  { op := 0x03, store := true, ams := [3], wds := [0, 1, 2, 3], aq := some false, vec := false
    xUse := .index, min := some 0, amo := none }
def stfParts (f : MemF) : Parts := memParts stfDef f
def execStf (p : Pfx) (f : MemF) (s : State) : Out := issueOne p (stfParts f) s

/-- STV (R213): stores a vector. -/
def stvDef : MemDef :=
  { op := 0x04, store := true, ams := [0, 1, 2], wds := [7, 8, 9], aq := some false, vec := true
    xUse := .index, min := some 0, amo := none }
def stvParts (f : MemF) : Parts := memParts stvDef f
def execStv (p : Pfx) (f : MemF) (s : State) : Out := issueOne p (stvParts f) s

/-- STVS (R210): stores 16 strided granules. -/
def stvsDef : MemDef :=
  { op := 0x05, store := true, ams := [5], wds := [7], aq := some false, vec := true
    xUse := .stride, min := some 0, amo := none }
def stvsParts (f : MemF) : Parts := memParts stvsDef f
def execStvs (p : Pfx) (f : MemF) (s : State) : Out := issueOne p (stvsParts f) s

/-- STVX (R210): scatters 32 elements. -/
def stvxDef : MemDef :=
  { op := 0x06, store := true, ams := [6], wds := [7], aq := some false, vec := true
    xUse := .gather, min := some 0, amo := none }
def stvxParts (f : MemF) : Parts := memParts stvxDef f
def execStvx (p : Pfx) (f : MemF) (s : State) : Out := issueOne p (stvxParts f) s

/-- QPUSH (R215): appends to a queue, blocking while it is full. -/
def qpushDef : MemDef :=
  { op := 0x07, store := true, ams := [4], wds := [3], aq := some false, vec := false
    xUse := .queue, min := some 0, amo := none }
def qpushParts (f : MemF) : Parts := memParts qpushDef f
def execQpush (p : Pfx) (f : MemF) (s : State) : Out := issueOne p (qpushParts f) s

/-- AMOADD (R216): atomic add returning the old value. -/
def amoaddDef : MemDef :=
  { op := 0x08, store := false, ams := [0], wds := [2, 3], aq := none, vec := false
    xUse := .operand, min := some 16, amo := some 0 }
def amoaddParts (f : MemF) : Parts := memParts amoaddDef f
def execAmoadd (p : Pfx) (f : MemF) (s : State) : Out := issueOne p (amoaddParts f) s

/-- AMOMIN (R216): atomic signed minimum. -/
def amominDef : MemDef :=
  { op := 0x09, store := false, ams := [0], wds := [2, 3], aq := none, vec := false
    xUse := .operand, min := some 16, amo := some 1 }
def amominParts (f : MemF) : Parts := memParts amominDef f
def execAmomin (p : Pfx) (f : MemF) (s : State) : Out := issueOne p (amominParts f) s

/-- AMOMAX (R216): atomic signed maximum. -/
def amomaxDef : MemDef :=
  { op := 0x0A, store := false, ams := [0], wds := [2, 3], aq := none, vec := false
    xUse := .operand, min := some 16, amo := some 2 }
def amomaxParts (f : MemF) : Parts := memParts amomaxDef f
def execAmomax (p : Pfx) (f : MemF) (s : State) : Out := issueOne p (amomaxParts f) s

/-- AMOMINU (R216): atomic unsigned minimum. -/
def amominuDef : MemDef :=
  { op := 0x0B, store := false, ams := [0], wds := [2, 3], aq := none, vec := false
    xUse := .operand, min := some 16, amo := some 3 }
def amominuParts (f : MemF) : Parts := memParts amominuDef f
def execAmominu (p : Pfx) (f : MemF) (s : State) : Out := issueOne p (amominuParts f) s

/-- AMOMAXU (R216): atomic unsigned maximum. -/
def amomaxuDef : MemDef :=
  { op := 0x0C, store := false, ams := [0], wds := [2, 3], aq := none, vec := false
    xUse := .operand, min := some 16, amo := some 4 }
def amomaxuParts (f : MemF) : Parts := memParts amomaxuDef f
def execAmomaxu (p : Pfx) (f : MemF) (s : State) : Out := issueOne p (amomaxuParts f) s

/-- AMOAND (R216): atomic AND. -/
def amoandDef : MemDef :=
  { op := 0x0D, store := false, ams := [0], wds := [2, 3], aq := none, vec := false
    xUse := .operand, min := some 16, amo := some 5 }
def amoandParts (f : MemF) : Parts := memParts amoandDef f
def execAmoand (p : Pfx) (f : MemF) (s : State) : Out := issueOne p (amoandParts f) s

/-- AMOOR (R216): atomic OR. -/
def amoorDef : MemDef :=
  { op := 0x0E, store := false, ams := [0], wds := [2, 3], aq := none, vec := false
    xUse := .operand, min := some 16, amo := some 6 }
def amoorParts (f : MemF) : Parts := memParts amoorDef f
def execAmoor (p : Pfx) (f : MemF) (s : State) : Out := issueOne p (amoorParts f) s

/-- AMOXOR (R216): atomic XOR. -/
def amoxorDef : MemDef :=
  { op := 0x0F, store := false, ams := [0], wds := [2, 3], aq := none, vec := false
    xUse := .operand, min := some 16, amo := some 7 }
def amoxorParts (f : MemF) : Parts := memParts amoxorDef f
def execAmoxor (p : Pfx) (f : MemF) (s : State) : Out := issueOne p (amoxorParts f) s

/-- AMOSWAP (R216): atomic swap. -/
def amoswapDef : MemDef :=
  { op := 0x10, store := false, ams := [0], wds := [2, 3], aq := none, vec := false
    xUse := .operand, min := some 16, amo := some 8 }
def amoswapParts (f : MemF) : Parts := memParts amoswapDef f
def execAmoswap (p : Pfx) (f : MemF) (s : State) : Out := issueOne p (amoswapParts f) s

/-- AMOCAS (R216): atomic compare-and-swap against D. -/
def amocasDef : MemDef :=
  { op := 0x11, store := false, ams := [0], wds := [2, 3], aq := none, vec := false
    xUse := .operand, min := some 16, amo := some 9 }
def amocasParts (f : MemF) : Parts := memParts amocasDef f
def execAmocas (p : Pfx) (f : MemF) (s : State) : Out := issueOne p (amocasParts f) s

/-- AMOFADD (R216): atomic F32 add. -/
def amofaddDef : MemDef :=
  { op := 0x12, store := false, ams := [0], wds := [2], aq := none, vec := false
    xUse := .operand, min := some 16, amo := some 10 }
def amofaddParts (f : MemF) : Parts := memParts amofaddDef f
def execAmofadd (p : Pfx) (f : MemF) (s : State) : Out := issueOne p (amofaddParts f) s

end Sys2Proof.Machine
end

