-- ==== Sys2Proof/Machine/Engine.lean ====
section
/-!
DEFINITION. The matrix engine: operand reads, products under the numerics profiles, fret counting and drains, bank moves,
peer contributions, and how its operations start, complete and stop (R133, R134, R142 to R146, R233 to R257).
-/
namespace Sys2Proof.Machine
open Sys2Proof

/-! ## Descriptors and formats -/

def descAbase (d : BitVec 256) : Nat := descField d 47 0
def descBbase (d : BitVec 256) : Nat := descField d 111 64
def descAstr (d : BitVec 256) : Nat := descField d 159 128
def descBstr (d : BitVec 256) : Nat := descField d 191 160
def descK (d : BitVec 256) : Nat := descField d 206 192
def descAsoff (d : BitVec 256) : Nat := descField d 233 212
def descBsoff (d : BitVec 256) : Nat := descField d 255 234

/-- The formats of a streaming operation: MF[4:0], and MF[9:5] which defaults to it (R241). -/
def fmtA (f : Eng) : Nat := f.mf.toNat % 32
def fmtB (f : Eng) : Nat := let b := f.mf.toNat / 32 % 32; if b = 0 then fmtA f else b

/-- An operation that streams K. -/
def EngOp.isStream (o : EngOp) : Bool := o.isCount || decide (0x08 ≤ o.op ∧ o.op ≤ 0x0B)
/-- K and the number of blocks (R237). -/
def EngOp.k (o : EngOp) : Nat := descK o.desc
def EngOp.nb (o : EngOp) : Nat := (o.k + 127) / 128

/-! ## Reading operands -/

/-- Pieces of at most 32 bytes, none of which crosses a 32-byte boundary. -/
def pieces32 : Nat → Nat → Nat → List (Nat × Nat)
  | 0, _, _ => []
  | fuel + 1, off, n =>
    if n = 0 then []
    else
      let m := Nat.min n (32 - off % 32)
      (off, m) :: pieces32 fuel (off + m) (n - m)

/-- The rights of an engine access (Table 10-5); the matrix engine is none of the writers of an instruction store (R73). -/
def EngOp.rights (o : EngOp) (k need : Nat) (isWrite : Bool) : Acc :=
  { ck := k * 4 + o.ctx, part := o.part, res := o.res, need := need, isWrite := isWrite, amo := false, copy := false
    dom := if isWrite then o.dom else none }

/-- Translate for a load pipe, in its own cache of 32 entries (R203, R239). MSTS goes through that of the A pipe (log entry 23). -/
def pipeAddr (s : State) (k : Nat) (isB : Bool) (q : Acc) (drop : Bool) (pick n : Nat) (va : W64) : Etr × State :=
  let c := s.core k
  let (r, l, s1) := engAddr s 32 (if isB then c.btlb else c.atlb) q drop pick n va
  (r, s1.modCore k fun c => if isB then { c with btlb := l } else { c with atlb := l })

/-- Change an operation of the engine. -/
def modEng (s : State) (k id : Nat) (f : EngOp → EngOp) : State :=
  s.modCore k fun c => { c with engine := lmap (fun o => o.id == id) f c.engine }

/-- The operation of the engine with an identity. -/
def CoreSt.eng? (c : CoreSt) (id : Nat) : Option EngOp := c.engine.find? fun o => o.id == id

/-- The clock of a read or a store that waits for a migrating page (R206). -/
def EngOp.migAt (o : EngOp) (key : Nat) : Option Nat := (o.migs.find? fun m => m.1 == key).map (·.2)

/-- A read or a store of an operation has found a migrating entry (R206): its clock starts, or, after 1,500,000 counts, `late` follows. -/
def engStall (s : State) (k : Nat) (o : EngOp) (key : Nat) (late : State → State) : State :=
  let ct := s.ctOf (corePos k)
  match o.migAt key with
  | none => modEng s k o.id fun o => { o with migs := o.migs ++ [(key, ct)] }
  | some t => if 1500000 ≤ ct - t then late (modEng s k o.id fun o => { o with migs := o.migs.filter fun m => m.1 != key }) else s

/-- The cause of an engine read or write that cannot reach another chiplet (R300, R336). -/
def farCause (s : State) (pos : Nat) (pl : Place) : Option Nat :=
  let dst := placePos pos pl
  if dst = pos then none
  else match (s.link pos dst).st with
    | 0 => some 0x15
    | 3 => some 0x0F
    | _ => none

/-- The place is memory, whose sectors a read or a write meets. -/
def Place.isMem : Place → Bool
  | .dram _ | .window _ _ => true
  | .held _ _ _ | .chipCtl _ _ | .host _ | .hole => false

/-- The key of an operand piece: its address, 2^48 more for B. -/
def pieceKey (isB : Bool) (a : Nat) : Nat := if isB then a + 2 ^ 48 else a

/-- An operand piece has been read, or cannot be. -/
def engGot (s : State) (k id key : Nat) (g : Got) : State :=
  modEng s k id fun o => { o with got := sput o.got key g, outs := o.outs.filter (· != key), migs := o.migs.filter fun m => m.1 != key }

/-- A load pipe reads `n` bytes at `a` (R239, R244): at once from this chiplet, by a request to another (R299, R380); it waits for a
migrating page (R206), an alias under remap (R56), a store that its scope has seen (R268), or room for the request. -/
def pipeRead (s : State) (k id : Nat) (isB drop : Bool) (pick a n : Nat) : State :=
  match (s.core k).eng? id with
  | none => s
  | some o =>
    let pos := corePos k
    let key := pieceKey isB a
    let no := fun (s : State) (c : Nat) (x : Option Nat) => engGot s k id key { bytes := [], cause := c, sector := x }
    if (sget? o.got key).isSome ∨ o.outs.contains key ∨ !migDue (s.ctOf pos) (o.migAt key) then s
    else match pipeAddr s k isB (o.rights k pteER false) drop pick n (BitVec.ofNat 64 a) with
      | (.stall, _) => engStall s k o key fun s => no s 0x09 none
      | (.hold, _) => s
      | (.fault c, s1) => no s1 c none
      | (.ok pa pl, s1) =>
        match writePos s1 pos pl with
        | none => no s1 0x15 none
        | some src =>
          if src = pos then
            if seenHolds s1 k (some (k * 4 + o.ctx, o.bundle)) pa n then s
            else if pl.isMem && s1.readBad pa n then no s1 0x0F (some (s1.badSector pa n))
            else match memLoad s1 pl pa n with
              | (some bs, s2) => engGot s2 k id key { bytes := bs, cause := 0, sector := none }
              | (none, s2) => no s2 0x0F none
          else match farCause s1 pos pl with
            | some c => no s1 c none
            | none =>
              if canSend s1 pos src 1 then
                modEng (sendMsg s1 pos src 1 (.read pa n (.eng k id key)) (.eng k id key)) k id fun o => { o with outs := key :: o.outs }
              else s

/-- The pieces of the 64 rows of A or columns of B from K step `k0` on (R237). -/
def operandPieces (o : EngOp) (base str w : Nat) : List (List (Nat × Nat)) :=
  let lo := o.k0 * w / 8
  let hi := (o.k * w + 7) / 8
  (List.range 64).map fun i => pieces32 (hi - lo + 1) (base + i * str + lo) (hi - lo)

/-- The bytes that the load pipes read for an operation: its operands, and the scale bytes at an offset of the issuing core's scratchpad
(R237, R286). -/
def EngOp.readSpans (o : EngOp) (s : State) (k : Nat) : List (Nat × Nat) :=
  let d := o.desc
  let q := o.rights k 0 false
  let scl := fun off mode : Nat =>
    if mode = 0 then [] else [(winBase k + off, 64 * (if mode = 1 then o.nb else 1))]
  let side := fun (isB : Bool) (base str : Nat) =>
    (List.range 64).flatMap fun i =>
      pageSpans s k (if isB then (s.core k).btlb else (s.core k).atlb) q (BitVec.ofNat 64 (base + i * str))
        ((o.k * (fmtD (if isB then fmtB o.f else fmtA o.f)).bits + 7) / 8)
  (if o.isStream then side false (descAbase d) (descAstr d) ++ side true (descBbase d) (descBstr d) else [])
    ++ (if o.isStream || o.op == 0x15 then scl (descAsoff d) (descAsm d) ++ scl (descBsoff d) (descBsm d) else [])

/-- Read what is missing of one side. -/
def readSide (s : State) (k : Nat) (o : EngOp) (isB drop : Bool) (pick base str w : Nat) : State :=
  (operandPieces o base str w).foldl (fun s l => l.foldl (fun s p => pipeRead s k o.id isB drop pick p.1 p.2) s) s

/-- What the reads of an operation have found: the K steps that every read covers, the failure that limits them, and
the values read. -/
structure SideRead where
  kOk  : Nat
  fail : Option (Nat × W64 × Option Nat)
  rows : List Nat
  scl  : List Nat
  deriving DecidableEq, Repr

/-- One row from its pieces: its bytes up to the first failure, and that failure with its piece; none while a piece is missing. -/
def rowOf (o : EngOp) (isB : Bool) : List (Nat × Nat) → Option (List Byte × Option (Nat × Got))
  | [] => some ([], none)
  | p :: r => match sget? o.got (pieceKey isB p.1) with
    | none => none
    | some g =>
      if g.cause ≠ 0 then some ([], some (p.1, g))
      else (rowOf o isB r).map fun x => (g.bytes ++ x.1, x.2)

/-- The 64 rows of A or columns of B as read (R237, R244); none while a piece is missing. -/
def sideOf (o : EngOp) (isB : Bool) (base str w : Nat) (r0 : SideRead) : Option SideRead :=
  let lo := o.k0 * w / 8
  (operandPieces o base str w).zipIdx.foldl (fun acc (l, i) =>
    acc.bind fun r => (rowOf o isB l).map fun x =>
      let r1 := { r with rows := r.rows ++ [leValue x.1 * 2 ^ (8 * lo)] }
      match x.2 with
      | none => r1
      | some (a, g) =>
        let m := Nat.max o.k0 ((a - (base + i * str)) * 8 / w)
        if m < r1.kOk then { r1 with kOk := m, fail := some (g.cause, BitVec.ofNat 64 a, g.sector) } else r1) (some r0)

/-- The number of scale bytes of one row or column: one per block, or one for the channel (R237). -/
def sclPer (mode nb : Nat) : Nat := if mode = 1 then nb else if mode = 2 then 1 else 0

/-- The address of scale byte n from an offset of the issuing core's scratchpad (R237). -/
def sclAddr (k off n : Nat) : Nat := winBase k + (off + n) % 0x400000

/-- Read the scale bytes of one side (R237). A byte in an uncorrectable sector keeps the K steps of its block from being
read. -/
def readScales (s : State) (k : Nat) (o : EngOp) (off mode : Nat) (r : SideRead) : SideRead :=
  let per := sclPer mode o.nb
  (List.range (64 * per)).foldl (fun r n =>
    let a := sclAddr k off n
    let r1 := { r with scl := r.scl ++ [s.readNat a 1] }
    let m := if mode = 1 then Nat.max o.k0 (128 * (n % per)) else o.k0
    if s.readBad a 1 && decide (m < r1.kOk) then { r1 with kOk := m, fail := some (0x0F, 0, some (s.badSector a 1)) } else r1) r

/-- The scale code of row or column i at K step k; none where the operand is unscaled. -/
def sclAt (scl : List Nat) (mode nb i k : Nat) : Option Nat :=
  if mode = 1 then some (scl.getD (i * nb + k / 128) 0) else if mode = 2 then some (scl.getD i 0) else none

/-- The width in bits of a format's elements in memory (R129). -/
def fmtBits (c : Nat) : Nat := (fmtD c).bits

/-! ## Tiles -/

/-- The cells of a tile. -/
def readTile (s : State) (k t : Nat) : List Nat := (List.range 4096).map fun i => s.readNat (tileAddr k t + 4 * i) 4

/-- Write every cell of a tile. -/
def writeTile (s : State) (k t : Nat) (cells : List Nat) : State :=
  s.writeMem (tileAddr k t) (cells.flatMap fun c => leBytes 4 c)

/-- A tile of the core cannot be read (Table 16-1). -/
def tileBad (s : State) (k t : Nat) : Bool := s.readBad (tileAddr k t) 0x4000

/-! ## Products -/

/-- One product, with the flags of its reads (R134, R173, R242). -/
def product (fa fb : Nat) (ea eb : Nat) (ca cb : Option Nat) : Num × BitVec 7 :=
  let rd := fun (c e : Nat) (sc : Option Nat) => match sc with
    | some q => readScaled (fmtD c) false e q
    | none => readNum (fmtD c) false e
  let (x, f) := rd fa ea ca
  let (y, g) := rd fb eb cb
  let (p, h) := numMul x y
  (p, f ||| g ||| h)

/-- The products of cell (i, j) for K steps k0 to kEnd − 1 (R242). -/
def EngOp.products (o : EngOp) (i j kEnd : Nat) : List (Num × BitVec 7) :=
  let a := o.aRows.getD i 0
  let b := o.bRows.getD j 0
  let fa := fmtA o.f
  let fb := fmtB o.f
  (List.range (kEnd - o.k0)).map fun n =>
    let k := o.k0 + n
    product fa fb (elemOf (fmtBits fa) k a) (elemOf (fmtBits fb) k b)
      (sclAt o.aScl (descAsm o.desc) o.nb i k) (sclAt o.bScl (descBsm o.desc) o.nb j k)

/-- ENC(F32, x, ne, 0) and the number that it reads back as. -/
def roundF32 (x : Num) : Num × BitVec 7 :=
  let (c, h) := encF f32 0 false false x
  ((readF f32 false c).1, h)

/-- The exact sum of two numbers, a zero sum by R141. -/
def plus (a b : Num) : Num := (numAdd false a b).1

/-- The exact sum of a list; a zero sum is −0 only where every term is (R141). -/
def sumAll : List Num → Num
  | [] => Num.zero
  | x :: r => r.foldl plus x

/-- TRUNC(p, 2^g): toward zero to a multiple (Table 7-5). -/
def truncTo (g : Int) (p : Num) : Num :=
  match p with
  | .fin n m e => .fin n (roundGrid 1 n m e g).1 g
  | .inf n => .inf n
  | .nan q => .nan q

/-- ⌊log2 |p|⌋ of a number that is not zero, as a candidate for a maximum. -/
def logOf (p : Num) : Option Int :=
  match p with
  | .fin _ m e => if m = 0 then none else some (floorLog m e)
  | .inf _ => none
  | .nan _ => none

/-- q of a group under profiles 3 and 4 (R143). -/
def groupSum (w : Nat) (ps : List Num) : Num :=
  match ps.filterMap logOf with
  | [] => sumAll ps
  | e :: es => sumAll (ps.map (truncTo (es.foldl max e - w + 1)))

/-- Cut a list into groups of `g`, the last perhaps short. -/
def groupsOf {α : Type} (g : Nat) : Nat → List α → List (List α)
  | 0, _ => []
  | fuel + 1, l => if l.isEmpty then [] else l.take g :: groupsOf g fuel (l.drop g)

/-- Round to 63 significant bits, nearest-even (R143, profile 6). -/
def round63 (x : Num) : Num :=
  match x with
  | .fin n m e =>
    if m = 0 then x
    else
      let g := floorLog m e - 62
      if g ≤ e then x else .fin n (roundGrid 0 n m e g).1 g
  | .inf n => .inf n
  | .nan q => .nan q

/-- Add terms to an accumulator, rounding to F32 after each (R143). A sum of ∞ and −∞, reached through an
overflow, sets NV (R140). -/
def foldRound (t : Num) (qs : List Num) : Num × BitVec 7 :=
  qs.foldl (fun (acc : Num × BitVec 7) q =>
    let (z, nv) := numAdd false acc.1 q
    let (x, h) := roundF32 z
    (x, acc.2 ||| nv ||| h)) (t, 0)

/-- Cut the terms of K steps `k0` on into groups of `g`, counted from K step 0 (R143, R245). -/
def groupsAt {α : Type} (g k0 : Nat) (l : List α) : List (List α) :=
  let n := g - k0 % g
  if k0 % g = 0 then groupsOf g l.length l
  else if l.isEmpty then [] else l.take n :: groupsOf g l.length (l.drop n)

/-- The finite case of R143 under a floating profile, for K steps `k0` on. -/
def accumulate (prof k0 : Nat) (t : Num) (ps : List Num) : Num × BitVec 7 :=
  let gs := fun g : Nat => groupsAt g k0 ps
  match prof with
  | 2 => foldRound t ps
  | 3 => foldRound t ((gs 4).map (groupSum 40))
  | 4 => foldRound t ((gs 16).map (groupSum 48))
  | 5 =>
    (gs 128).foldl (fun (acc : Num × BitVec 7) g =>
      let (b, h) := roundF32 (sumAll g)
      let (z, nv) := numAdd false acc.1 b
      let (x, h2) := roundF32 z
      (x, acc.2 ||| h ||| nv ||| h2)) (t, 0)
  | _ => (ps.foldl (fun w p => round63 (plus w p)) t, 0)

/-- The integer that an exact product is. -/
def intOf (p : Num) : Int :=
  match p with
  | .fin n m e => signed n (alignTo m e 0)
  | .inf _ => 0
  | .nan _ => 0

/-- A cell's new value and the flags (R143): `t` its value before, `ps` its products from K step `k0` on. No product leaves it as it is. -/
def cellNew (prof k0 t : Nat) (ps : List (Num × BitVec 7)) : El :=
  if ps.isEmpty then (t, 0)
  else if prof = 1 then (ofSigned 32 (toSigned 32 t + ps.foldl (fun z p => z + intOf p.1) 0), 0)
  else
    let fl := ps.foldl (fun f p => f ||| p.2) 0
    let (tn, f0) := readF f32 false t
    let xs := ps.map (·.1)
    match sresult (summList 0 (tn :: xs)) with
    | some (x, g) =>
      let (c, h) := encF f32 0 false false x
      (c, fl ||| f0 ||| g ||| h)
    | none =>
      let (x, g) := accumulate prof k0 tn xs
      let (c, h) := encF f32 0 false false x
      (c, fl ||| f0 ||| g ||| h)

/-- The tile after K steps k0 to kEnd − 1 of a product, and the flags (R242, R245). -/
def EngOp.mmaCells (o : EngOp) (old : List Nat) (kEnd : Nat) : List Nat × BitVec 7 :=
  let rs := (List.range 4096).map fun x =>
    cellNew o.prof o.k0 (if o.op = 0x09 then 0 else old.getD x 0) (o.products (x / 64) (x % 64) kEnd)
  (rs.map (·.1), rs.foldl (fun f r => f ||| r.2) 0)

/-- The resume granule along K (Table 7-9); 0 where an operation restarts from its start. -/
def granule (prof : Nat) : Nat :=
  match prof with
  | 1 | 2 => 1
  | 3 => 4
  | 4 => 16
  | 5 => 128
  | _ => 0

/-- KDONE of a stopped product (Table 12-6). -/
def EngOp.kDone (o : EngOp) : Nat :=
  let g := if o.op = 0x0A then 0 else granule o.prof
  if g = 0 then 0 else Nat.max o.k0 (o.kOk / g * g)

/-! ## Fret counting -/

/-- The base format of a counting operand: I4 0x01, E2M1 0x03 (R145). -/
def countBase (c : Nat) : Option Nat :=
  match c with
  | 0x01 | 0x18 => some 0x01
  | 0x03 | 0x19 => some 0x03
  | _ => none

/-- The pair of two formats (Table 12-7), 0 where they are no counting pair. -/
def pairOf (fa fb : Nat) : Nat :=
  match countBase fa, countBase fb with
  | some 0x01, some 0x01 => 1
  | some 0x03, some 0x03 => 2
  | some _, some _ => 3
  | _, _ => 0

/-- The magnitudes that the counters of a pair stand for (Table 7-11). -/
def magsOf (pair : Nat) : List Nat :=
  match pair with
  | 1 => [1, 2, 3, 4, 5, 6, 7, 8, 9, 10, 12, 14, 15, 16, 18, 20, 21, 24, 25, 28, 30, 32, 35, 36, 40, 42, 48, 49, 56, 64]
  | 2 => [1, 2, 3, 4, 6, 8, 9, 12, 16, 18, 24, 32, 36, 48, 64, 72, 96, 144]
  | 3 => [1, 2, 3, 4, 5, 6, 7, 8, 9, 10, 12, 14, 15, 16, 18, 20, 21, 24, 28, 30, 32, 36, 40, 42, 48, 56, 60, 64, 72, 84, 96]
  | _ => []

/-- The unit of a pair as a power of two (Table 7-11). -/
def unitOf (pair : Nat) : Int := match pair with
  | 2 => -2
  | 3 => -1
  | _ => 0

/-- A four-bit element as an integer, in halves for E2M1. -/
def countVal (c e : Nat) : Int :=
  match countBase c with
  | some 0x03 =>
    match (readF e2m1 false (e % 16)).1 with
    | .fin n m x => signed n (alignTo m (x + 1) 0)
    | .inf _ => 0
    | .nan _ => 0
  | _ => toSigned 4 e

/-- The counters of an empty cell. -/
def noCounts : List Int := List.replicate 32 0

/-- Count one product in a cell (R248). -/
def countOne (pair : Nat) (p : Int) (c : List Int) : List Int :=
  if p = 0 then c
  else match (magsOf pair).findIdx? (· == p.natAbs) with
    | some i => lset c i (c.getD i 0 + (if 0 < p then 1 else -1))
    | none => c

/-- Count K steps `lo` to `hi` − 1 in cell (i, j), and NV (R248). -/
def EngOp.countCell (o : EngOp) (i j lo hi : Nat) (c : List Int) : List Int × BitVec 7 :=
  let a := o.aRows.getD i 0
  let b := o.bRows.getD j 0
  (List.range (hi - lo)).foldl (fun (acc : List Int × BitVec 7) n =>
    let k := lo + n
    if sclAt o.aScl (descAsm o.desc) o.nb i k = some 255 ∨ sclAt o.bScl (descBsm o.desc) o.nb j k = some 255 then
      (acc.1, acc.2 ||| flNV)
    else (countOne o.pair (countVal (fmtA o.f) (elemOf 4 k a) * countVal (fmtB o.f) (elemOf 4 k b)) acc.1, acc.2)) (c, 0)

/-- A bank of counters after K steps `lo` to `hi` − 1, and the flags. -/
def EngOp.countAll (o : EngOp) (bank : SMap (List Int)) (lo hi : Nat) : SMap (List Int) × BitVec 7 :=
  if hi ≤ lo then (bank, 0)
  else (List.range 4096).foldl (fun (acc : SMap (List Int) × BitVec 7) x =>
    let (c, f) := o.countCell (x / 64) (x % 64) lo hi (sget noCounts acc.1 x)
    (sput acc.1 x c, acc.2 ||| f)) (bank, 0)

/-- N of a cell (R146). -/
def drainSum (pair : Nat) (c : List Int) : Int :=
  (c.zip (magsOf pair)).foldl (fun z (n, m) => z + n * (m : Int)) 0

/-- The drain of one cell (R146, Table 12-9): `ca`, `cb` the scale codes that apply, `t` the tile's cell. -/
def drainCell (pair : Nat) (it ovw : Bool) (c : List Int) (ca cb : Option Nat) (t : Nat) : El :=
  let bad := ca == some 255 || cb == some 255
  let n := if bad then 0 else drainSum pair c
  let fl := flIf bad flNV
  if it then (if ovw then ofSigned 32 n else ofSigned 32 (toSigned 32 t + n), fl)
  else
    let sc := ((ca.getD 127 : Nat) : Int) + ((cb.getD 127 : Nat) : Int) - 254
    let (d, h) := encF f32 0 false false ((Num.ofInt n).scale (if n = 0 then 0 else unitOf pair + sc))
    if ovw then (d, fl ||| h)
    else
      let (x, g) := FOp.add.el f32 { rm := 0, fi := false, fo := false, sat := false } t d 0
      (x, fl ||| h ||| g)

/-- Drain a bank into a tile, with the scale codes of row i and column j at K step `k` (R249, R252). -/
def EngOp.drainAll (o : EngOp) (bank : SMap (List Int)) (it ovw : Bool) (k : Nat) (old : List Nat) : List Nat × BitVec 7 :=
  let rs := (List.range 4096).map fun x =>
    drainCell o.pair it ovw (sget noCounts bank x) (sclAt o.aScl (descAsm o.desc) o.nb (x / 64) k)
      (sclAt o.bScl (descBsm o.desc) o.nb (x % 64) k) (old.getD x 0)
  (rs.map (·.1), rs.foldl (fun f r => f ||| r.2) 0)

/-! ## Banks -/

/-- The bytes of a parked bank: counter c of cell x at byte 2 × (32 x + c), 16 bits (Table 12-8). -/
def bankBytes (bank : SMap (List Int)) : List Byte :=
  (List.range 4096).flatMap fun x => ((sget noCounts bank x).take 32).flatMap fun c => leBytes 2 (ofSigned 16 c)

/-- The counters of a parked bank at an address. -/
def bankOfBytes (s : State) (a : Nat) : SMap (List Int) :=
  (List.range 4096).map fun x => (x, (List.range 32).map fun c => toSigned 16 (s.readNat (a + 2 * (32 * x + c)) 2))

/-- Add two banks of counters (MMERGE). -/
def addBanks (a b : SMap (List Int)) : SMap (List Int) :=
  (List.range 4096).map fun x => (x, (sget noCounts a x).zipWith (· + ·) (sget noCounts b x))

/-! ## The engine's list -/

/-- Remove an operation; F is released where a fret operation leaves it empty (R247). -/
def dropEng (s : State) (k : Nat) (o : EngOp) : State :=
  s.modCore k fun c =>
    let c1 := { c with engine := c.engine.filter fun x => x.id != o.id }
    if o.isFret ∧ c.fDep = 0 then { c1 with fOwner := none, fbank := [] } else c1

/-- The engine accepts an operation (R111), from which the bounds of its results and of its flags count (R234). -/
def acceptEng (s : State) (ck : Nat) (o : EngOp) : State :=
  let o := { o with acc := some (s.now ck) }
  acceptWrites (s.modCore (ckCore ck) fun c => { c with engine := c.engine ++ [o] }) ck o.wids

/-- The operation may start (R240, R244, R247, R254, R262). -/
def engCanStart (s : State) (k : Nat) (o : EngOp) : Bool :=
  let ck := k * 4 + o.ctx
  engReady s k o && (s.ctx ck).fired o.kis && !olderWants s ck o.bundle true o.kis

/-- The register results of an operation arrive, in the order of its writes (R109, R234). -/
def engResults (s : State) (ck : Nat) (o : EngOp) (vs : List VReg) : State :=
  (o.wids.zip vs).foldl (fun s (id, v) =>
    let s1 := setReady s ck id v 0
    if o.f.ko = 0 then s1 else landId s1 ck id (BitVec.allOnes 32)) s

/-- An operation completes (R240): its flags are set, RV is cleared by a resume (R245, R250), and KO fires. -/
def finishEng (s : State) (k : Nat) (o : EngOp) (fl : BitVec 7) (vs : List VReg) : State :=
  let ck := k * 4 + o.ctx
  let s1 := dropEng s k o
  let s2 := if o.op = 0x0B ∨ o.op = 0x11 then s1.modCtx ck fun c => { c with rowprog := c.rowprog &&& 0x7FFFFFFF } else s1
  let s3 := engResults s2 ck o vs
  fireToken (setFlags s3 ck (fl ||| flIf o.cd flCD)) ck o.f.ko.toNat

/-- ROWPROG of a stopped streaming operation (Table 12-5). -/
def progWord (o : EngOp) (kDone : Nat) : W64 :=
  BitVec.ofNat 64 (2 ^ 31 + bit01 o.isCount * 2 ^ 30 + o.f.ad.toNat * 2 ^ 24 + o.f.md.toNat * 2 ^ 20 + kDone % 2 ^ 15)

/-- An operation stops (R244, R316): its destination registers keep their values, its token loses PEND, younger M operations are
held, and the context takes cause 0x17. -/
def stopEng (s : State) (k : Nat) (o : EngOp) (own : Nat) (va : W64) (rp : Option W64) : State :=
  let ck := k * 4 + o.ctx
  let s1 := dropEng s k o
  let s2 := s1.modCtx ck fun c => { c with inflight := c.inflight.filter fun w => !o.wids.contains w.id }
  pushAsync (holdYounger (clearPend s2 ck o.f.ko.toNat) ck o.bundle) ck
    { cause := 0x17, own := own, tok := o.f.ko.toNat, slots := 0x08, value := va, rp := rp, id := o.id, bundle := some o.bundle, cy := 0 }

/-- A score of SUSPECT increases (R332): 0 S, 1 VA, 2 VB, 3 M; at 8 its TRIP bit is set, which the Bridge sees. -/
def suspectUp (s : State) (k u : Nat) : State :=
  s.modCore k fun c =>
    let n := Nat.min 255 (sget 0 c.suspect u + 1)
    { c with suspect := sput c.suspect u n
             trip := if 8 ≤ n ∧ !c.trip.testBit u then c.trip + 2 ^ u else c.trip }

/-! ## Starting -/

/-- The operation starts and consumes its tokens (R262); a fret operation claims F (R247). -/
def markEng (s : State) (k : Nat) (o : EngOp) : State :=
  let s1 := modEng s k o.id fun o => { o with started := true }
  let s2 := consume s1 (k * 4 + o.ctx) o.kis
  if o.isFret then s2.modCore k fun c => { c with fOwner := some o.ctx } else s2

/-- The correctable errors among bytes read are recorded and queued for write-back (R327, R330). -/
def noteWeak (s : State) (a n : Nat) : State :=
  if s.weak = [] then s
  else (sectorsOf a n).foldl (fun s x => if s.weak.contains x then s.noteRead x 1 else s) s

/-- The scale bytes read of one side. -/
def noteScales (s : State) (k : Nat) (o : EngOp) (off mode : Nat) : State :=
  if s.weak = [] then s else noteWeak s (sclAddr k off 0) (64 * sclPer mode o.nb)

/-- Note the uncorrectable sector that limits an operation's reads. -/
def noteFail (s : State) (r : SideRead) : State :=
  match r.fail with
  | some (_, _, some x) => s.noteRead x 1
  | some (_, _, none) => s
  | none => s

/-- Operands and scales of a streaming operation, once every piece has been read (R239, R240, R244). -/
def loadStream (s : State) (k : Nat) (o : EngOp) : State :=
  let d := o.desc
  let r0 : SideRead := { kOk := o.k, fail := none, rows := [], scl := [] }
  match sideOf o false (descAbase d) (descAstr d) (fmtBits (fmtA o.f)) r0 with
  | none => s
  | some ra =>
    let ra := readScales s k o (descAsoff d) (descAsm d) ra
    match sideOf o true (descBbase d) (descBstr d) (fmtBits (fmtB o.f)) { ra with rows := [], scl := [] } with
    | none => s
    | some rb =>
      let rb := readScales s k o (descBsoff d) (descBsm d) rb
      modEng (noteScales (noteScales (noteFail s rb) k o (descAsoff d) (descAsm d)) k o (descBsoff d) (descBsm d)) k o.id fun o =>
        { o with aRows := ra.rows, aScl := ra.scl, bRows := rb.rows, bScl := rb.scl, kOk := rb.kOk, loaded := true, got := []
                 abort? := rb.fail.map fun (c, a, _) => (c, a) }

/-- The scale bytes of a drain (R252): one in an uncorrectable sector stops it. -/
def loadDrain (s : State) (k : Nat) (o : EngOp) : State :=
  let r0 : SideRead := { kOk := 1, fail := none, rows := [], scl := [] }
  let o0 := { o with k0 := 0 }
  let ra := readScales s k o0 (descAsoff o.desc) (descAsm o.desc) r0
  let rb := readScales s k o0 (descBsoff o.desc) (descBsm o.desc) { ra with scl := [] }
  modEng (noteScales (noteScales (noteFail s rb) k o (descAsoff o.desc) (descAsm o.desc)) k o (descBsoff o.desc) (descBsm o.desc)) k o.id
    fun o => { o with aScl := ra.scl, bScl := rb.scl, kOk := rb.kOk, loaded := true, abort? := rb.fail.map fun (c, a, _) => (c, a) }

/-- The source tile of a peer contribution (R253). -/
def loadTile (s : State) (k : Nat) (o : EngOp) : State :=
  modEng (s.noteRead (tileAddr k o.tile) 0x4000) k o.id fun o =>
    { o with cells := readTile s k o.tile, loaded := true, abort? := if tileBad s k o.tile then some (0x0F, 0) else none }

/-- A started operation reads what it reads before it computes: what is missing, as far as it can now. -/
def loadEng (s : State) (k : Nat) (o : EngOp) (drop : Bool) (pick : Nat) : State :=
  if o.isStream then
    let s1 := readSide s k o false drop pick (descAbase o.desc) (descAstr o.desc) (fmtBits (fmtA o.f))
    let s2 := readSide s1 k o true drop pick (descBbase o.desc) (descBstr o.desc) (fmtBits (fmtB o.f))
    match (s2.core k).eng? o.id with
    | some o => loadStream s2 k o
    | none => s2
  else if o.op = 0x15 then loadDrain s k o
  else if o.op = 0x1B then loadTile s k o
  else modEng s k o.id fun o => { o with loaded := true }

/-- ENGINE_OP_START (R240): the operation starts, and reads its operands or its source tile; one that has started goes on reading. -/
def startEng (s : State) (k : Nat) (o : EngOp) (drop : Bool) (pick : Nat) : State :=
  if o.loaded then s
  else if o.started then loadEng s k o drop pick
  else if engCanStart s k o then loadEng (markEng s k o) k o drop pick
  else s

/-! ## Completing and stopping -/

/-- The tiles that an operation reads when it computes. -/
def EngOp.reads (o : EngOp) : List Nat :=
  match o.op with
  | 0x08 | 0x0A | 0x0B => [o.tile]
  | 0x10 | 0x11 => if o.kblk then [o.tile] else []
  | 0x13 | 0x14 => (List.range 16).map (o.tile + ·)
  | 0x15 => if o.f.mf.getLsbD 0 then [] else [o.tile]
  | 0x19 | 0x1D => [o.tile]
  | _ => []

/-- The correctable errors of the tiles read (R327). -/
def noteTiles (s : State) (k : Nat) (o : EngOp) : State :=
  if s.weak = [] then s else o.reads.foldl (fun s t => noteWeak s (tileAddr k t) 0x4000) s

/-- A tile or bank that the operation reads lies in an uncorrectable sector (Table 16-1): its address. -/
def EngOp.badTile (o : EngOp) (s : State) (k : Nat) : Option Nat :=
  if s.bad = [] then none else
  (o.reads.flatMap fun t => sectorsOf (tileAddr k t) 0x4000).find? fun x => s.bad.contains x

/-- An uncorrectable sector of the fret bank that a count or a drain meets (Table 16-1). -/
def EngOp.badF (o : EngOp) (s : State) (k : Nat) : Option Nat :=
  if o.isCount || o.op == 0x15 then s.bad.find? fun x => decide (fretBase k ≤ x) && decide (x < fretBase k + 0x40000) else none

/-- Row r of a tile as two vector registers (Table 12-12). -/
def rowRegs (s : State) (k t r : Nat) : List VReg :=
  [BitVec.ofNat 1024 (s.readNat (tileAddr k t + 256 * r) 128), BitVec.ofNat 1024 (s.readNat (tileAddr k t + 256 * r + 128) 128)]

/-- Set F's counters and depth. -/
def setF (s : State) (k : Nat) (bank : SMap (List Int)) (dep : Nat) : State :=
  s.modCore k fun c => { c with fbank := bank, fDep := dep }

/-- Row i of a tile in a format (R255): the bytes, and the flags. -/
def stsRow (s : State) (k : Nat) (o : EngOp) (i : Nat) : List Byte × BitVec 7 :=
  let mf := o.f.mf.toNat
  let fmt := fmtD (mf % 32)
  let sat := bitOf mf 5
  let rm := bitsOf mf 7 6
  let cells := (List.range 64).map fun j =>
    let c := s.readNat (tileAddr k o.tile + 4 * (64 * i + j)) 4
    match fmt.kind with
    | .int sgn => intc fmt.bits sgn sat (toSigned 32 c)
    | .flt g =>
      let (x, f) := readF f32 false c
      let (e, h) := encF g rm sat false x
      (e, f ||| h)
    | .ds => (0, 0)
    | .xs => (0, 0)
  let v := cells.foldr (fun c z => c.1 % 2 ^ fmt.bits + 2 ^ fmt.bits * z) 0
  (leBytes (8 * fmt.bits) v, cells.foldl (fun f c => f ||| c.2) 0)

/-- What the pieces of a row find: their virtual and physical addresses, places and lengths; a fault with its own cause and address; a wait on
a migrating page, at an address; or another wait. -/
inductive RowFind where
  | ok (l : List (Nat × Nat × Place × Nat))
  | fault (own : Nat) (va : W64)
  | stall (va : Nat)
  | hold
  deriving DecidableEq, Repr

/-- The places of the pieces of one row of an MSTS (R255). -/
def stsPlaces (s : State) (k : Nat) (o : EngOp) (drop : Bool) (pick : Nat) : List (Nat × Nat) → RowFind × State
  | [] => (.ok [], s)
  | p :: r =>
    if !migDue (s.ctOf (corePos k)) (o.migAt p.1) then (.hold, s)
    else match pipeAddr s k false (o.rights k pteEW true) drop pick p.2 (BitVec.ofNat 64 p.1) with
      | (.stall, s1) => (.stall p.1, s1)
      | (.hold, s1) => (.hold, s1)
      | (.fault c, s1) => (.fault c (BitVec.ofNat 64 p.1), s1)
      | (.ok pa pl, s1) =>
        match writePos s1 (corePos k) pl, farCause s1 (corePos k) pl with
        | none, _ => (.fault 0x15 (BitVec.ofNat 64 p.1), s1)
        | _, some c => (.fault c (BitVec.ofNat 64 p.1), s1)
        | some dst, none =>
          if dst = corePos k ∧ pl.isMem && s1.writeBad pa p.2 then (.fault 0x0F (BitVec.ofNat 64 p.1), s1.noteRefused pa p.2)
          else match stsPlaces s1 k o drop pick r with
            | (.ok l, s2) => (.ok ((p.1, pa, pl, p.2) :: l), s2)
            | x => x

/-- Write the pieces of a row, or send them to another chiplet (R255, R299). -/
def stsWrite (s : State) (k : Nat) (o : EngOp) : List (Nat × Nat × Place × Nat) → List Byte → State
  | [], _ => s
  | (va, pa, pl, n) :: r, bs =>
    let pos := corePos k
    let dst := (writePos s pos pl).getD pos
    let s1 := if dst = pos then (memStore s pos pl pa (bs.take n) (!o.res)).1
      else modEng (sendMsg s pos dst 0 (.write pa (bs.take n) (!o.res) false) (.eng k o.id va)) k o.id fun o => { o with outs := va :: o.outs }
    stsWrite s1 k o r (bs.drop n)

/-- MSTS writes its rows in order (R255), `blk` of them so far: all of them, or those before a row that faults, which stops it. It finishes
when every store sent to another chiplet has been acknowledged. -/
def runSts (drop : Bool) (pick : Nat) : Nat → State → Nat → Nat → State
  | 0, s, _, _ => s
  | fuel + 1, s, k, id =>
    match (s.core k).eng? id with
    | none => s
    | some o =>
      let z := 8 * fmtBits (o.f.mf.toNat % 32)
      let fails := fun (s : State) (c : Nat) (a : W64) => modEng s k id fun o => { o with abort? := some (c, a) }
      match o.abort? with
      | some (c, a) => if o.outs = [] then stopEng s k o c a none else s
      | none =>
        if 64 ≤ o.blk then (if o.outs = [] then finishEng s k o o.fl [] else s)
        else match stsPlaces s k o drop pick (pieces32 (z + 1) (o.sp + BitVec.ofNat 64 (o.blk * z)).toNat z) with
          | (.hold, _) => s
          | (.stall a, _) => engStall s k o a fun s => runSts drop pick fuel (fails s 0x09 (BitVec.ofNat 64 a)) k id
          | (.fault c a, s1) => runSts drop pick fuel (fails s1 c a) k id
          | (.ok l, s1) =>
            if l.any fun x => (writePos s1 (corePos k) x.2.2.1).any fun d =>
                d != corePos k && decide (64 < (s1.txOf (corePos k) d 0).unacked.length + l.length) then s
            else
              let (bs, f) := stsRow s1 k o o.blk
              runSts drop pick fuel (modEng (stsWrite s1 k o l bs) k id fun o =>
                { o with blk := o.blk + 1, fl := o.fl ||| f, migs := [] }) k id

/-- A store or a contribution of an operation to another chiplet is acknowledged, by its tag: an abort stops the operation. -/
def engAck (s : State) (k id n : Nat) (ok : Bool) (cause : Nat) : State :=
  modEng s k id fun o =>
    { o with outs := o.outs.filter (· != n)
             abort? := if ok || o.abort?.isSome then o.abort? else some (cause, if o.op = 0x1B then o.sp else BitVec.ofNat 64 n) }

/-- A request of an operation has failed, with a cause (R300, R336). -/
def engFailed (s : State) (k id n cause : Nat) : State :=
  match (s.core k).eng? id with
  | none => s
  | some o => if o.isStream then engGot s k id n { bytes := [], cause := cause, sector := none } else engAck s k id n false cause

/-- ENGINE_OP_COMPLETE (R240): an operation that nothing stops finishes. -/
def completeEng (s : State) (k : Nat) (o : EngOp) (drop : Bool) (pick : Nat) : State :=
  let c := s.core k
  if !o.loaded ∨ (o.abort?.isSome ∧ o.op ≠ 0x1D) ∨ (o.badTile s k).isSome ∨ (o.badF s k).isSome then s
  else
    let s := noteTiles s k o
    let old := readTile s k o.tile
    match o.op with
    | 0x08 | 0x09 | 0x0A | 0x0B =>
      let (cells, fl) := o.mmaCells old o.k
      finishEng (writeTile s k o.tile cells) k o fl []
    | 0x10 | 0x11 =>
      if o.kblk then (if o.blk = o.nb then finishEng s k o o.fl [] else s)
      else
        let (b, fl) := o.countAll c.fbank o.k0 o.k
        finishEng (setF s k b (c.fDep + (o.k - o.k0))) k o fl []
    | 0x12 => finishEng (setF (s.writeMem (tileAddr k o.tile) (bankBytes c.fbank)) k [] 0) k o 0 []
    | 0x13 => finishEng (setF s k (bankOfBytes s (tileAddr k o.tile)) o.dn) k o 0 []
    | 0x14 => finishEng (setF s k (addBanks c.fbank (bankOfBytes s (tileAddr k o.tile))) (c.fDep + o.dn)) k o 0 []
    | 0x15 =>
      let (cells, fl) := o.drainAll c.fbank (o.f.mf.getLsbD 2) (o.f.mf.getLsbD 0) 0 old
      let s1 := writeTile s k o.tile cells
      finishEng (if o.f.mf.getLsbD 1 then s1 else setF s1 k [] 0) k o fl []
    | 0x16 => finishEng (setF s k [] 0) k o 0 []
    | 0x18 =>
      let s1 := writeTile s k o.tile (List.replicate 4096 0)
      finishEng (s1.modCore k fun c => { c with pseq := sput c.pseq o.tile 0 }) k o 0 []
    | 0x19 => finishEng s k o 0 (rowRegs s k o.tile o.sp.toNat)
    | 0x1A =>
      let bs := o.vdat.flatMap fun v => leBytes 128 v.toNat
      finishEng (s.writeMem (tileAddr k o.tile + 256 * o.sp.toNat) bs) k o 0 []
    | 0x1B => if o.blk = 1 then finishEng s k o o.fl [] else s
    | 0x1D => runSts drop pick 66 s k o.id
    | _ =>
      let st := if o.f.mf.getLsbD 0 then o.stat
        else BitVec.ofNat 64 ((c.peer.filter fun m => m.tile == o.tile).length % 16 * 256 + sget 0 c.pseq o.tile % 64)
      finishEng s k o 0 [st.setWidth 1024]

/-- FRET_AUTO_DRAIN (R249): one block of a K-blocked count, all of whose operands were read, is counted and drained. -/
def autoDrain (s : State) (k : Nat) (o : EngOp) : State :=
  let hi := Nat.min o.k (128 * (o.blk + 1))
  if !o.loaded ∨ !o.isCount ∨ !o.kblk ∨ o.nb ≤ o.blk ∨ o.kOk < hi ∨ (o.badTile s k).isSome ∨ (o.badF s k).isSome then s
  else
    let s := noteTiles s k o
    let (b, f) := o.countAll [] (Nat.max o.k0 (128 * o.blk)) hi
    let (cells, g) := o.drainAll b false false (128 * o.blk) (readTile s k o.tile)
    modEng (writeTile s k o.tile cells) k o.id fun o => { o with blk := o.blk + 1, fl := o.fl ||| f ||| g }

/-- The depth that a context counts for F is that of the K steps counted (R244, R247). -/
def undoDepth (s : State) (ck n : Nat) : State :=
  s.modCtx ck fun c => { c with fDepth := c.fDepth - n, fPair := if c.fDepth ≤ n then 0 else c.fPair }

/-- A product stops (Table 12-6). -/
def stopMma (s : State) (k : Nat) (o : EngOp) (own : Nat) (va : W64) : State :=
  let kd := o.kDone
  let s1 := if (o.badTile s k).isSome then s
    else writeTile s k o.tile (o.mmaCells (readTile s k o.tile) kd).1
  stopEng s1 k o own va (some (progWord o kd))

/-- A count stops (Table 12-6). -/
def stopCount (s : State) (k : Nat) (o : EngOp) (own : Nat) (va : W64) : State :=
  let ck := k * 4 + o.ctx
  if o.kblk then stopEng s k o own va (some (progWord o (128 * o.blk)))
  else
    let c := s.core k
    let hi := Nat.max o.k0 (Nat.min o.kOk o.k)
    let (b, _) := o.countAll c.fbank o.k0 hi
    stopEng (undoDepth (setF s k b (c.fDep + (hi - o.k0))) ck (o.k - hi)) k o own va (some (progWord o hi))

/-- A count or a drain meets an uncorrectable sector of F (Table 16-1): it stops, and F is empty, its sectors written afresh. -/
def stopBadF (s : State) (k : Nat) (o : EngOp) : State :=
  let lo := fretBase k
  let s1 := match o.badF s k with
    | some x => s.noteRead x 1
    | none => s
  let s2 := setF (s1.clearErr lo 0x40000) k [] 0
  let s3 := s2.modCtx (k * 4 + o.ctx) fun c => { c with fDepth := 0, fPair := 0 }
  stopEng s3 k o 0x0F 0 (if o.isStream then some (progWord o o.k0) else none)

/-- ENGINE_OP_STOP (R244): an operand, scale, tile or bank read aborted; or the checker of an MMAC finds a mismatch (`wrong`),
which a fault of the array makes (R246). -/
def stepStop (s : State) (k : Nat) (o : EngOp) (wrong : Bool) : State :=
  if !o.loaded ∨ (o.op = 0x1D ∧ o.outs ≠ []) then s
  else if (o.badF s k).isSome then stopBadF s k o
  else match (o.badTile s k), o.abort? with
    | some x, _ =>
      let s1 := s.noteRead x 1
      if o.isCount then stopCount s1 k { o with kOk := o.k0 } 0x0F 0
      else if o.isStream then stopMma s1 k { o with kOk := o.k0 } 0x0F 0
      else stopEng s1 k o 0x0F 0 none
    | none, some (c, a) =>
      if o.isCount then
        (if o.kblk ∧ 128 * (o.blk + 1) ≤ o.kOk then s else stopCount s k o c a)
      else if o.isStream then stopMma s k o c a
      else stopEng s k o c a none
    | none, none =>
      if wrong ∧ o.op = 0x0A then suspectUp (stopEng s k o 0x0E 0 (some (progWord o 0))) k 3 else s

/-! ## Peer contributions -/

/-- The tile that a peer address names: core and tile (R253). -/
def peerTile (pa : Nat) : Nat × Nat := (homeCore pa, (pa % 2 ^ 24 - 0x400000) / 0x4000)

/-- Add a contribution to a tile as one unit (R253): the cells, and the flags. -/
def addPeer (s : State) (k t : Nat) (isInt : Bool) (cells : List Nat) : State × BitVec 7 :=
  let rs := ((readTile s k t).zip cells).map fun (old, v) =>
    if isInt then ((old + v) % 2 ^ 32, 0)
    else FOp.add.el f32 { rm := 0, fi := false, fo := false, sat := false } old v 0
  (writeTile s k t (rs.map (·.1)), rs.foldl (fun f r => f ||| r.2) 0)

/-- The outcome of a contribution reaches its sender: 0 added, with the flags; 2 the buffer was full, and it is sent again; any other code is
the own cause with which the sender stops (R253). `id` is the operation. -/
def peerOutcome (s : State) (ck id code : Nat) (fl : BitVec 7) : State :=
  let k := ckCore ck
  match (s.core k).eng? id with
  | none => s
  | some o =>
    let s1 := modEng s k id fun o => { o with outs := o.outs.filter (· != 4) }
    if code = 0 then modEng s1 k id fun o => { o with blk := 1, fl := o.fl ||| fl }
    else if code = 2 then s1
    else stopEng s1 k o code o.sp none

/-- Send the outcome to its sender: at once on this chiplet, in a message to another (log entry 24). -/
def tellPeer (s : State) (hk ck id code : Nat) (fl : BitVec 7) : State :=
  if corePos hk = ckPos ck then peerOutcome s ck id code fl else queueMsg s (corePos hk) (ckPos ck) 2 (.peerRes ck id code fl) .none

/-- Add the held contributions that are next, in turn (R253). -/
def drainPeers : Nat → State → Nat → Nat → State
  | 0, s, _, _ => s
  | fuel + 1, s, k, t =>
    match (s.core k).peer.find? fun m => m.tile == t && m.cidx == sget 0 (s.core k).pseq t with
    | none => s
    | some m =>
      let (s1, fl) := addPeer s k t m.isInt m.cells
      let s2 := s1.modCore k fun c =>
        { c with pseq := sput c.pseq t (m.cidx + 1), peer := c.peer.filter fun x => !(x.ck == m.ck && x.id == m.id) }
      drainPeers fuel (tellPeer s2 k m.ck m.id 0 fl) k t

/-- A whole contribution reaches core `hk` (R253): it is added, held in the buffer of 8, or refused; where the buffer is full it waits at
the sender. -/
def peerArrives (s : State) (hk : Nat) (m : PeerMsg) : State :=
  let t := m.tile
  let q := sget 0 (s.core hk).pseq t
  if tileBad s hk t then tellPeer (s.noteRead (tileAddr hk t) 0x4000) hk m.ck m.id 0x0F 0
  else if m.cidx < q then tellPeer s hk m.ck m.id 0x01 0
  else if m.cidx = q then
    let (s1, fl) := addPeer (noteWeak s (tileAddr hk t) 0x4000) hk t m.isInt m.cells
    let s2 := s1.modCore hk fun c => { c with pseq := sput c.pseq t (m.cidx + 1) }
    drainPeers 8 (tellPeer s2 hk m.ck m.id 0 fl) hk t
  else if (s.core hk).peer.length < 8 then s.modCore hk fun c => { c with peer := c.peer ++ [m] }
  else tellPeer s hk m.ck m.id 2 0

/-- A quarter of a contribution arrives from another chiplet; with the fourth it is whole. -/
def peerPart (s : State) (ck id bundle pa cidx part : Nat) (isInt : Bool) (cells : List Nat) : State :=
  let (hk, t) := peerTile pa
  let same := fun m : PeerMsg => m.ck == ck && m.id == id
  let old := if part = 0 then [] else (((s.core hk).peerIn.find? same).map (·.cells)).getD []
  let m : PeerMsg := { ck := ck, id := id, bundle := bundle, tile := t, cidx := cidx, isInt := isInt, cells := old ++ cells }
  let s1 := s.modCore hk fun c => { c with peerIn := c.peerIn.filter fun x => !same x }
  if part = 3 then peerArrives s1 hk m else s1.modCore hk fun c => { c with peerIn := c.peerIn ++ [m] }

/-- PEER_CONTRIBUTION (R253): a contribution reaches its target tile, or leaves for another chiplet, in four messages. -/
def stepPeer (s : State) (k : Nat) (o : EngOp) : State :=
  let ck := k * 4 + o.ctx
  let pos := corePos k
  let raw := o.desc.toNat % 2 ^ 46
  let pl := placeOf s pos raw
  let pa := pl.addr raw
  let (hk, t) := peerTile pa
  let m : PeerMsg := { ck := ck, id := o.id, bundle := o.bundle, tile := t, cidx := o.f.mf.toNat % 32, isInt := o.f.mf.getLsbD 5
                       cells := o.cells }
  let held := (s.core hk).peer.any fun m => m.ck == ck && m.id == o.id
  if o.op ≠ 0x1B ∨ !o.loaded ∨ o.abort?.isSome ∨ o.blk = 1 ∨ held ∨ o.outs ≠ [] then s
  else if !pl.isMem then (if pl = .hole then stopEng s k o 0x0F o.sp none else s)
  else if corePos hk = pos then peerArrives s hk m
  else match farCause s pos (.window hk (pa % 2 ^ 24)) with
    | some c => stopEng s k o c o.sp none
    | none =>
      if 60 < (s.txOf pos (corePos hk) 0).unacked.length then s
      else
        let s1 := (List.range 4).foldl (fun s i =>
          sendMsg s pos (corePos hk) 0 (.peer ck o.id o.bundle pa m.cidx i m.isInt ((o.cells.drop (1024 * i)).take 1024)) (.eng k o.id i)) s
        modEng s1 k o.id fun o => { o with outs := [0, 1, 2, 3, 4] }

/-! ## Steps -/

/-- The operation that a step selects: the n-th of the core's engine. -/
def focusEng (s : State) (f : Nat → EngOp → State) : State :=
  let a := s.focus.arg
  let k := coreKey a.pos a.core
  match (s.core k).engine[a.n]? with
  | some o => f k o
  | none => s

def execEngineOpStart (s : State) : Out := .next (focusEng s fun k o => startEng s k o s.focus.arg.flag s.focus.arg.peer)
def execFretAutoDrain (s : State) : Out := .next (focusEng s fun k o => autoDrain s k o)
def execEngineOpComplete (s : State) : Out :=
  .next (focusEng s fun k o => completeEng s k o s.focus.arg.flag s.focus.arg.peer)
def execEngineOpStop (s : State) : Out := .next (focusEng s fun k o => stepStop s k o s.focus.arg.flag)
def execPeerContribution (s : State) : Out := .next (focusEng s fun k o => stepPeer s k o)

end Sys2Proof.Machine
end

