-- ==== Sys2Proof/Machine/Matrix.lean ====
section
/-!
DEFINITION. The M slot: descriptor set-up, products, fret counting and banks, drains, and tile moves (R86, R234 to R257).
-/
namespace Sys2Proof.Machine
open Sys2Proof

/-! ## Fields and checks shared by the M operations -/

def engKis (f : Eng) : List Nat := [f.ki1.toNat, f.ki2.toNat, f.ki3.toNat]

/-- LAT of an M operation that enters the engine (R234): code 15 needs a KO; any other code reaches the minimum. -/
def latEng (f : Eng) (min : Nat) : Option Nat :=
  if f.lat = 15 then (if f.ko = 0 then some 0x01 else none)
  else if latBound f.lat.toNat < min then some 0x01 else none

/-- The fault of profile 8, which accepts no M operation (R142). -/
def profFault (e : Env) (word : W64) : Option (Nat × W64) := if e.prof = 8 then some (0x04, word) else none

/-- A tile of the allotment: below ATILES, and not a tile of a parked bank (R235). -/
def tileFault (c : Ctx) (t : Nat) (word : W64) : Option (Nat × W64) :=
  if c.tCount ≤ t then some (0x03, word)
  else if (sget Parked.reset c.parked (t / 16)).parked then some (0x01, word)
  else none

/-- A bank of the allotment (R235). -/
def bankFault (c : Ctx) (n : Nat) (word : W64) : Option (Nat × W64) :=
  if c.tCount < 16 * n + 16 then some (0x03, word) else none

/-- The first fault of a list of checks, each with its cause, TVAL the slot. -/
def firstCause (word : W64) (l : List (Bool × Nat)) : Option (Nat × W64) :=
  (l.find? fun x => x.1).map fun x => (x.2, word)

/-- The descriptor that an operation names. -/
def Ctx.desc (c : Ctx) (n : Nat) : BitVec 256 := sget 0 c.descs n

/-- The cycles of `n` K steps at the full rate of a pair (Table 12-1); `counting` for MFRET and MFRETR. -/
def streamCycles (counting : Bool) (fa fb n : Nat) : Nat :=
  let a := fmtD fa
  let b := fmtD fb
  if a.bits = 32 ∨ b.bits = 32 then 16 * n
  else if a.bits = 16 ∨ b.bits = 16 then 4 * n
  else if (a.bits = 8 ∨ b.bits = 8) ∧ a.kind ≠ .ds ∧ b.kind ≠ .ds then n
  else if counting then (n + 3) / 4
  else (n + 1) / 2

/-- The bound of an M operation (R234): that of its LAT code and the cycles of the K steps that it runs; 0 for code 15. -/
def EngOp.boundOf (o : EngOp) : Nat :=
  if o.f.lat = 15 then 0
  else latBound o.f.lat.toNat + (if o.isStream then streamCycles o.isCount (fmtA o.f) (fmtB o.f) (o.k - o.k0) else 0)

/-- The operation as it issues. -/
def newEng (e : Env) (op : BitVec 8) (f : Eng) : EngOp :=
  { id := 0, bundle := e.bundle, ctx := ckCtx e.ck, op := op.toNat, f := f, prof := e.prof, scope := e.scope, part := e.c.part
    res := e.c.res, dom := if e.c.compPhase then some e.c.dom.toNat else none, lvl := e.c.tl, desc := e.c.desc f.md.toNat
    sp := 0, vdat := [], k0 := 0, tile := e.c.tBase + f.ad.toNat, stat := 0, wids := [], cd := false, pair := e.c.fPair, dn := 0
    started := false, bound := 0, acc := none, migs := [], got := [], loaded := false, outs := [], aRows := [], bRows := [], aScl := [], bScl := [], kOk := 0, abort? := none, blk := 0
    cells := [], fl := 0 }

/-- Put the register results of an operation in flight: they land after the write-back of the engine, and are not captured at
a trap entry (R313). -/
def engDests (e : Env) (f : Eng) : List (Dest × BitVec 128) → State → List Nat × State
  | [], s => ([], s)
  | (d, l) :: r, s =>
    let (id, s1) := s.takeId
    let (ids, s2) := engDests e f r (pushWriteId s1 e.ck id d l 0 false true (bnd f.lat) 0)
    (id :: ids, s2)

/-- An M operation issues: its token is pending, its results are in flight, and it is accepted or enters its queue (R111). -/
def issueEng (e : Env) (o : EngOp) (ds : List (Dest × BitVec 128)) (s : State) : State :=
  let (id, s1) := s.takeId
  let (ids, s2) := engDests e o.f ds s1
  let o := { o with id := id, wids := ids, bound := o.boundOf }
  let s3 := setPend s2 e.ck o.f.ko.toNat
  if unitRefuses e.pre e.ck 0 false then s3.modCtx e.ck fun c => { c with mq := c.mq ++ [o] } else acceptEng s3 e.ck o

/-- An M operation that the engine takes: `zero` says that the fields of Table 12-13 that it does not read are zero, `min` is its
row of Table 12-2, `extra` its checks at issue in their order, `upd` what it does to the context's fret state. -/
def mParts (op : BitVec 8) (f : Eng) (min : Nat) (zero : Bool) (extra : Env → W64 → Option (Nat × W64))
    (mk : Env → EngOp → EngOp) (upd : Env → Ctx → Ctx) : Parts :=
  let word := engWord op f
  { slot := 3, word := word, zeroOk := zero
    latBad := latEng f min
    prods := [f.ko.toNat]
    unit := some 0
    fault := fun e => (tokFault e f.ko.toNat (engKis f)).or ((profFault e word).or (extra e word))
    eff := fun e s => (issueEng e (mk e (newEng e op f)) [] s).modCtx e.ck (upd e) }

/-! ## Descriptor set-up (R238) -/

/-- KO, KI1 to KI3 are zero, and LAT is 0. -/
def mdsZero (f : Eng) : Bool := f.lat == 0 && f.ko == 0 && f.ki1 == 0 && f.ki2 == 0 && f.ki3 == 0

/-- Replace bits [hi:lo] of a descriptor. -/
def putDesc (d : BitVec 256) (hi lo v : Nat) : BitVec 256 :=
  BitVec.ofNat 256 (d.toNat - bitsOf d.toNat hi lo * 2 ^ lo + v % 2 ^ (hi + 1 - lo) * 2 ^ lo)

/-- A set-up operation: it writes its descriptor, which every later bundle reads. -/
def mdsParts (op : BitVec 8) (f : Eng) (zero : Bool) (src : List Nat) (extra : Env → W64 → Option (Nat × W64))
    (wr : Env → BitVec 256 → BitVec 256) : Parts :=
  let word := engWord op f
  { slot := 3, word := word, zeroOk := mdsZero f && zero
    srcS := src
    fault := fun e => (profFault e word).or (extra e word)
    eff := fun e s => s.modCtx e.ck fun c => { c with descs := sput c.descs f.md.toNat (wr e (c.desc f.md.toNat)) } }

/-- The checks of an address and a stride (Table 12-4). -/
def mdsAddr (f : Eng) (e : Env) (word : W64) : Option (Nat × W64) :=
  let b := e.s f.sp.toNat
  let t := e.s f.ad.toNat
  if b.toNat % 16 ≠ 0 then some (0x08, b)
  else if t.toNat % 16 ≠ 0 then some (0x08, t)
  else if bitsOf b.toNat 63 48 ≠ 0 then some (0x09, b)
  else if 2 ^ 32 ≤ t.toNat then some (0x01, word)
  else none

def mdsaParts (f : Eng) : Parts :=
  mdsParts 0x01 f (f.mf == 0) [f.sp.toNat, f.ad.toNat] (mdsAddr f) fun e d =>
    putDesc (putDesc d 47 0 (e.s f.sp.toNat).toNat) 159 128 (e.s f.ad.toNat).toNat
def execMdsa (p : Pfx) (f : Eng) (s : State) : Out := issueOne p (mdsaParts f) s

def mdsbParts (f : Eng) : Parts :=
  mdsParts 0x02 f (f.mf == 0) [f.sp.toNat, f.ad.toNat] (mdsAddr f) fun e d =>
    putDesc (putDesc d 111 64 (e.s f.sp.toNat).toNat) 191 160 (e.s f.ad.toNat).toNat
def execMdsb (p : Pfx) (f : Eng) (s : State) : Out := issueOne p (mdsbParts f) s

def mdskParts (f : Eng) : Parts :=
  mdsParts 0x03 f (f.mf == 0 && f.ad == 0) [f.sp.toNat]
    (fun e word => if 2 ^ 15 ≤ (e.s f.sp.toNat).toNat then some (0x01, word) else none) fun e d =>
    putDesc d 206 192 (e.s f.sp.toNat).toNat
def execMdsk (p : Pfx) (f : Eng) (s : State) : Out := issueOne p (mdskParts f) s

def mdssParts (f : Eng) : Parts :=
  let am := f.mf.toNat % 4
  let bm := f.mf.toNat / 4 % 4
  { mdsParts 0x04 f (decide (f.mf.toNat < 16)) [f.sp.toNat, f.ad.toNat]
      (fun e word => if 2 ^ 22 ≤ (e.s f.sp.toNat).toNat ∨ 2 ^ 22 ≤ (e.s f.ad.toNat).toNat then some (0x01, word) else none)
      (fun e d => putDesc (putDesc (putDesc (putDesc d 233 212 (e.s f.sp.toNat).toNat) 255 234 (e.s f.ad.toNat).toNat)
        209 208 am) 211 210 bm) with
    bad := if am = 3 ∨ bm = 3 then some 0x01 else none }
def execMdss (p : Pfx) (f : Eng) (s : State) : Out := issueOne p (mdssParts f) s

/-! ## Products (R241 to R246) -/

/-- The formats of a product and its descriptor agree on scaling (R241): a block-scaled format has a mode, any other has
none. -/
def scaleOk (d : BitVec 256) (fa fb : Nat) : Bool :=
  ((fmtD fa).block == (descAsm d != 0)) && ((fmtD fb).block == (descBsm d != 0))

/-- A format of profile 1: an integer or DS8, unscaled (Table 7-9). -/
def intFmt (c : Nat) : Bool :=
  !(fmtD c).block && match (fmtD c).kind with
    | .int _ => true
    | .ds => true
    | .flt _ => false
    | .xs => false

/-- A product's pair is accepted under a profile (R142, R241). -/
def pairAccepted (prof fa fb : Nat) : Bool :=
  isMFmt fa && isMFmt fb && decide (prof ≠ 7) && (prof != 1 || (intFmt fa && intFmt fb))

/-- ROWPROG holds what the resume of an operation needs (R245, R250). -/
def resumeOk (c : Ctx) (f : Eng) (fret : Bool) : Bool :=
  let r := c.rowprog.toNat
  bitOf r 31 && bitOf r 30 == fret && bitsOf r 29 24 == f.ad.toNat && bitsOf r 23 20 == f.md.toNat

/-- KDONE (Table 12-5). -/
def kDoneOf (c : Ctx) : Nat := bitsOf c.rowprog.toNat 14 0

/-- MF[11:10] and SP are zero (R241, R248). -/
def strmZero (f : Eng) : Bool := f.sp == 0 && decide (f.mf.toNat < 1024)

/-- The checks of the four products at issue, in their order. -/
def mmaFault (op : BitVec 8) (f : Eng) (e : Env) (word : W64) : Option (Nat × W64) :=
  let fa := fmtA f
  let fb := fmtB f
  (firstCause word [(!pairAccepted e.prof fa fb || (op == 0x0A && e.prof != 1), 0x04),
      (!scaleOk (e.c.desc f.md.toNat) fa fb, 0x04)]).or
    ((tileFault e.c f.ad.toNat word).or
      (if op = 0x0B ∧ !resumeOk e.c f false then some (0x01, word) else none))

/-- The format codes of a field are outside the set that the operation accepts (R77). -/
def fmtBad (ok : Bool) : Option Nat := if ok then none else some 0x04

def mmaOf (op : BitVec 8) (f : Eng) : Parts :=
  { mParts op f 16 (strmZero f) (mmaFault op f)
      (fun e o => { o with k0 := if op = 0x0B then kDoneOf e.c else 0 }) (fun _ c => c) with
    bad := fmtBad (isMFmt (fmtA f) && isMFmt (fmtB f)) }

def mmaParts (f : Eng) : Parts := mmaOf 0x08 f
def execMma (p : Pfx) (f : Eng) (s : State) : Out := issueOne p (mmaParts f) s
def mmazParts (f : Eng) : Parts := mmaOf 0x09 f
def execMmaz (p : Pfx) (f : Eng) (s : State) : Out := issueOne p (mmazParts f) s
def mmacParts (f : Eng) : Parts := mmaOf 0x0A f
def execMmac (p : Pfx) (f : Eng) (s : State) : Out := issueOne p (mmacParts f) s
def mmarParts (f : Eng) : Parts := mmaOf 0x0B f
def execMmar (p : Pfx) (f : Eng) (s : State) : Out := issueOne p (mmarParts f) s

/-! ## Counting (R247 to R250) -/

/-- The first K step of a count: KDONE where it resumes. -/
def fretK0 (resume : Bool) (c : Ctx) : Nat := if resume then kDoneOf c else 0

/-- The checks of MFRET and MFRETR at issue. -/
def fretFault (resume : Bool) (f : Eng) (e : Env) (word : W64) : Option (Nat × W64) :=
  let d := e.c.desc f.md.toNat
  let pair := pairOf (fmtA f) (fmtB f)
  let kb := descKblk d
  (firstCause word
      [(pair == 0 || e.prof != 7 || !scaleOk d (fmtA f) (fmtB f) || (e.c.fPair != 0 && e.c.fPair != pair), 0x04),
       (decide (32767 < e.c.fDepth + (descK d - fretK0 resume e.c)) || (kb && e.c.fDepth != 0), 0x16),
       (!kb && f.ad != 0, 0x01)]).or
    ((if kb then tileFault e.c f.ad.toNat word else none).or
      (if resume ∧ !resumeOk e.c f true then some (0x01, word) else none))

/-- The context's depth after a count issues (R248, R249). -/
def fretUpd (resume : Bool) (f : Eng) (c : Ctx) : Ctx :=
  let d := c.desc f.md.toNat
  let n := descK d - fretK0 resume c
  if descKblk d ∨ n = 0 then c else { c with fDepth := c.fDepth + n, fPair := pairOf (fmtA f) (fmtB f) }

def fretOf (op : BitVec 8) (resume : Bool) (f : Eng) : Parts :=
  { mParts op f 12 (strmZero f) (fretFault resume f)
      (fun e o =>
        let k0 := fretK0 resume e.c
        let kb := descKblk o.desc
        { o with k0 := k0, pair := pairOf (fmtA f) (fmtB f), blk := if kb then Nat.min (k0 / 128) o.nb else 0
                 cd := !kb && decide (24575 < e.c.fDepth + (o.k - k0)) })
      (fun _ c => fretUpd resume f c) with
    bad := fmtBad ((countBase (fmtA f)).isSome && (countBase (fmtB f)).isSome) }

def mfretParts (f : Eng) : Parts := fretOf 0x10 false f
def execMfret (p : Pfx) (f : Eng) (s : State) : Out := issueOne p (mfretParts f) s
def mfretrParts (f : Eng) : Parts := fretOf 0x11 true f
def execMfretr (p : Pfx) (f : Eng) (s : State) : Out := issueOne p (mfretrParts f) s

/-! ## Banks (R251) -/

/-- The bank that an operation names. -/
def bankNo (f : Eng) : Nat := f.ad.toNat % 4
def Ctx.bank (c : Ctx) (n : Nat) : Parked := sget Parked.reset c.parked n
def Ctx.setBank (c : Ctx) (n : Nat) (b : Parked) : Ctx := { c with parked := sput c.parked n b }

/-- AD[51:48], MD, SP and MF of a bank operation are zero. -/
def bankZero (f : Eng) : Bool := decide (f.ad.toNat < 4) && f.md == 0 && f.sp == 0 && f.mf == 0

/-- The bank's first tile, its depth and its pair. -/
def withBank (f : Eng) (e : Env) (o : EngOp) : EngOp :=
  { o with tile := e.c.tBase + 16 * bankNo f, dn := (e.c.bank (bankNo f)).depth }

def mparkParts (f : Eng) : Parts :=
  let n := bankNo f
  mParts 0x12 f 96 (bankZero f)
    (fun e word => (if (e.c.bank n).parked then some (0x01, word) else none).or (bankFault e.c n word))
    (withBank f)
    (fun _ c => { c.setBank n { parked := true, depth := c.fDepth, pair := c.fPair } with fDepth := 0, fPair := 0 })
def execMpark (p : Pfx) (f : Eng) (s : State) : Out := issueOne p (mparkParts f) s

def munparkParts (f : Eng) : Parts :=
  let n := bankNo f
  mParts 0x13 f 96 (bankZero f)
    (fun e word => if !(e.c.bank n).parked ∨ e.c.fDepth ≠ 0 then some (0x01, word) else bankFault e.c n word)
    (withBank f)
    (fun _ c => { c.setBank n Parked.reset with fDepth := (c.bank n).depth, fPair := (c.bank n).pair })
def execMunpark (p : Pfx) (f : Eng) (s : State) : Out := issueOne p (munparkParts f) s

def mmergeParts (f : Eng) : Parts :=
  let n := bankNo f
  mParts 0x14 f 96 (bankZero f)
    (fun e word =>
      let b := e.c.bank n
      firstCause word [(e.prof != 7, 0x04), (!b.parked, 0x01), (b.pair != 0 && e.c.fPair != 0 && b.pair != e.c.fPair, 0x04),
        (decide (32767 < e.c.fDepth + b.depth), 0x16), (decide (e.c.tCount < 16 * n + 16), 0x03)])
    (fun e o => { withBank f e o with cd := decide (24575 < e.c.fDepth + (e.c.bank n).depth) })
    (fun _ c =>
      let b := c.bank n
      { c.setBank n Parked.reset with fDepth := c.fDepth + b.depth, fPair := if c.fPair = 0 then b.pair else c.fPair })
def execMmerge (p : Pfx) (f : Eng) (s : State) : Out := issueOne p (mmergeParts f) s

def mfclrParts (f : Eng) : Parts :=
  mParts 0x16 f 4 (f.ad == 0 && f.md == 0 && f.sp == 0 && f.mf == 0) (fun _ _ => none) (fun _ o => o)
    (fun _ c => { c with fDepth := 0, fPair := 0 })
def execMfclr (p : Pfx) (f : Eng) (s : State) : Out := issueOne p (mfclrParts f) s

/-! ## Drains (R252, R253) -/

def mdrainParts (f : Eng) : Parts :=
  mParts 0x15 f 48 (f.sp == 0 && decide (f.mf.toNat < 8))
    (fun e word =>
      let d := e.c.desc f.md.toNat
      (firstCause word [(e.prof != 7, 0x04),
        (f.mf.getLsbD 2 && (decide (2 ≤ e.c.fPair) || descAsm d != 0 || descBsm d != 0), 0x04), (descKblk d, 0x01)]).or
        (tileFault e.c f.ad.toNat word))
    (fun _ o => o)
    (fun _ c => if f.mf.getLsbD 1 then c else { c with fDepth := 0, fPair := 0 })
def execMdrain (p : Pfx) (f : Eng) (s : State) : Out := issueOne p (mdrainParts f) s

/-- The rights of an M operation's target at issue (Table 10-5, R73, R291). -/
def engAcc (e : Env) : Acc :=
  { ck := e.ck, part := e.c.part, res := e.c.res, need := pteEW, isWrite := true, amo := false, copy := false
    dom := if e.c.compPhase then some e.c.dom.toNat else none }

/-- The outcome of the target address of MDRAINP and MSTS, translated in the cache of the L and T slots (log entry 23). -/
def engOut (f : Eng) (align n : Nat) (e : Env) : List (W64 × Aout) :=
  let va := e.s f.sp.toNat
  [(va, addrOut e.pre (e.pre.core e.k).tlb (engAcc e) e.c.walkRes false align n va)]

/-- The outcome for an address that must lie in an accumulator-store range: any other place, a hole among them, gives cause 0x0A
(R253). -/
def accTarget : Aout → Aout
  | .ok pa (.window k off) => if areaOf off = .acc then .ok pa (.window k off) else .err 4 0x0A true
  | .ok pa (.held p n off) => if areaOf off = .acc then .ok pa (.held p n off) else .err 4 0x0A true
  | .ok _ (.dram _) | .ok _ (.chipCtl _ _) | .ok _ (.host _) | .ok _ .hole => .err 4 0x0A true
  | .miss => .miss
  | .err r c u => if r = 5 then .err 4 0x0A u else .err r c u

/-- The outcome of the target address of MDRAINP. -/
def peerOut (f : Eng) (e : Env) : List (W64 × Aout) := (engOut f 0x4000 0x4000 e).map fun x => (x.1, accTarget x.2)

/-- The physical address found, as it stands. -/
def outPa : List (W64 × Aout) → Nat
  | (_, .ok pa _) :: _ => pa
  | _ => 0

def mdrainpParts (f : Eng) : Parts :=
  let word := engWord 0x1B f
  { mParts 0x1B f 64 (f.md == 0 && decide (f.mf.toNat < 64))
      (fun e word => (tileFault e.c f.ad.toNat word).or (addrFault word (peerOut f e)))
      (fun e o => { o with sp := e.s f.sp.toNat, desc := BitVec.ofNat 256 (outPa (peerOut f e)) })
      (fun _ c => c) with
    word := word
    srcS := [f.sp.toNat]
    waits := fun e => (firstMiss (peerOut f e)).map fun va => .walk va false
    forgets := fun e s => dropTrans s e.ck (peerOut f e) }
def execMdrainp (p : Pfx) (f : Eng) (s : State) : Out := issueOne p (mdrainpParts f) s

/-! ## Tile moves (R254, R255) -/

def mzeroParts (f : Eng) : Parts :=
  mParts 0x18 f 8 (f.md == 0 && f.sp == 0 && f.mf == 0) (fun e word => tileFault e.c f.ad.toNat word) (fun _ o => o)
    (fun _ c => c)
def execMzero (p : Pfx) (f : Eng) (s : State) : Out := issueOne p (mzeroParts f) s

/-- The vector register of MRDV and MWRV, and the one after it. -/
def engVregs (f : Eng) : List Nat := [f.mf.toNat % 1024, f.mf.toNat % 1024 + 1]

/-- MD and MF[11:10] are zero. -/
def rowZero (f : Eng) : Bool := f.md == 0 && decide (f.mf.toNat < 1024)

/-- The row is 0 to 63, and the tile one of the allotment. -/
def rowFault (f : Eng) (e : Env) (word : W64) : Option (Nat × W64) :=
  (if 64 ≤ (e.s f.sp.toNat).toNat then some (0x01, word) else none).or (tileFault e.c f.ad.toNat word)

def mrdvParts (f : Eng) : Parts :=
  { mParts 0x19 f 12 (rowZero f) (rowFault f) (fun _ o => o) (fun _ c => c) with
    srcS := [f.sp.toNat]
    vregs := engVregs f
    dsts := (engVregs f).map .v
    eff := fun e s =>
      issueEng e { newEng e 0x19 f with sp := e.s f.sp.toNat } ((engVregs f).map fun n => (.v (e.c.vBase + n), laneV)) s }
def execMrdv (p : Pfx) (f : Eng) (s : State) : Out := issueOne p (mrdvParts f) s

def mwrvParts (f : Eng) : Parts :=
  { mParts 0x1A f 8 (rowZero f) (rowFault f)
      (fun e o => { o with sp := e.s f.sp.toNat, vdat := (engVregs f).map e.v }) (fun _ c => c) with
    srcS := [f.sp.toNat]
    vregs := engVregs f
    srcV := engVregs f }
def execMwrv (p : Pfx) (f : Eng) (s : State) : Out := issueOne p (mwrvParts f) s

/-- The formats that MSTS accepts. -/
def stsFmts : List Nat := [0x0F, 0x0D, 0x0E, 0x06, 0x07, 0x08, 0x09, 0x03, 0x0B, 0x04, 0x05, 0x01, 0x02]

def mstsParts (f : Eng) : Parts :=
  { mParts 0x1D f 64 (f.md == 0 && decide (f.mf.toNat < 256))
      (fun e word => (tileFault e.c f.ad.toNat word).or (addrFault word (engOut f 32 1 e)))
      (fun e o => { o with sp := e.s f.sp.toNat }) (fun _ c => c) with
    bad := fmtBad (stsFmts.contains (f.mf.toNat % 32))
    srcS := [f.sp.toNat]
    waits := fun e => (firstMiss (engOut f 32 1 e)).map fun va => .walk va false
    forgets := fun e s => dropTrans s e.ck (engOut f 32 1 e) }
def execMsts (p : Pfx) (f : Eng) (s : State) : Out := issueOne p (mstsParts f) s

/-- The status word of a bank (Table 12-12). -/
def Parked.word (b : Parked) : W64 := BitVec.ofNat 64 (b.depth % 2 ^ 15 + b.pair % 4 * 2 ^ 16 + bit01 b.parked * 2 ^ 18)

def mstatParts (f : Eng) : Parts :=
  let bank := f.mf.getLsbD 0
  { mParts 0x1E f 4 (f.md == 0 && decide (f.mf.toNat < 2) && (!bank || decide (f.ad.toNat < 4)))
      (fun e word => if bank then bankFault e.c (bankNo f) word else tileFault e.c f.ad.toNat word) (fun _ o => o) (fun _ c => c) with
    dsts := [.s f.sp.toNat]
    eff := fun e s =>
      let o := newEng e 0x1E f
      let o := if bank then { withBank f e o with stat := (e.c.bank (bankNo f)).word } else o
      issueEng e o (if f.sp = 0 then [] else [(.s (e.c.sphys f.sp.toNat), laneS)]) s }
def execMstat (p : Pfx) (f : Eng) (s : State) : Out := issueOne p (mstatParts f) s

end Sys2Proof.Machine
end

