-- ==== Sys2Proof/Machine/Graph.lean ====
section
/-!
DEFINITION. The graph engine: starting and stopping graphs, tokens, completions, faults, cone walks, frames and deadlines
(R11 to R29, R349, R363, R382).
-/
namespace Sys2Proof.Machine
open Sys2Proof

/-! ## Where graphs are held (R17, R55, R342) -/

/-- The package position of carrier `k` in the last decision that chiplet `pos` knows. -/
def carrierPos (s : State) (pos k : Nat) : Nat := bitsOf (s.chip pos).br.carr (2 * k + 1) (2 * k)

/-- The chiplet that holds a graph id at the service level in force (R17): its carrier, or the spare once it has moved there in a
rotation (R345). -/
def holderOf (s : State) (pos gid : Nat) : Option Nat :=
  let b := (s.chip pos).br
  if s.quorum.moved.contains gid then b.spare
  else (s.tsets.findSome? fun t => t.places.find? fun p => p.level == b.level && p.gid == gid).map fun p => carrierPos s pos p.carrier

/-- A graph is running (R19). -/
def Graph.live (g : Graph) : Bool := decide (1 ≤ g.gstate) && decide (g.gstate ≤ 4)

/-- The engine's walk is in this graph. -/
def walking (s : State) (pos gid : Nat) : Bool :=
  match (s.eng pos).walk with
  | some w => w.gid == gid
  | none => false

/-- The source word that names a node as the sender to a graph (R18). -/
def senderWord (toGid gid idx : Nat) : Nat := (if toGid = gid then 1 else 2) * 2 ^ 30 + gid * 2 ^ 20 + idx

/-- Send a message of the graph engine to another chiplet; over a link that is down it fails, and the far end is accused
(R300), to a closed region it is dropped (R336). -/
def engineMsg (s : State) (pos dst : Nat) (op : ZOp) : State :=
  match (s.link pos dst).st with
  | 0 => evidence s pos dst 1 (some pos)
  | 3 => s
  | _ => queueMsg s pos dst 4 op .none

/-! ## Ready (R20) -/

/-- The tick of a chiplet (Table 8-8). -/
def State.tick (s : State) (pos : Nat) : Nat := s.ctOf pos / 1500

/-- R20 is satisfied for a node. -/
def nodeReady (s : State) (pos : Nat) (g : Graph) (n : Node) : Bool :=
  n.st == 1 && n.rcvd == n.req && (!n.timed || decide (g.fstart + n.release ≤ s.tick pos))

/-- Slot counts with every used slot one lower. -/
def Node.consumed (n : Node) : List Nat := (List.range 16).map fun k => if n.used k then n.count k - 1 else n.count k

/-- The node becomes ready: its tokens are consumed and it is queued at PRIO (Table 2-4). -/
def makeReady (s : State) (pos gid idx : Nat) : State :=
  modNode s pos gid idx fun n => { n with st := 2, counts := n.consumed, readyCt := s.ctOf pos }

/-- Evaluate the ready conditions of a graph, in ascending index (R21); none becomes ready during its walk (R24). -/
def evalReady (s : State) (pos gid : Nat) : State :=
  match s.graph? pos gid with
  | none => s
  | some g =>
    if !g.live || walking s pos gid then s
    else g.nodes.foldl (fun s (idx, _) =>
      match s.graph? pos gid, s.node? pos gid idx with
      | some g, some n => if nodeReady s pos g n then makeReady s pos gid idx else s
      | _, _ => s) s

/-! ## Tokens (R19, R25) -/

/-- Count a dropped token. -/
def dropToken (s : State) (pos gid : Nat) : State :=
  modGraph s pos gid fun g => { g with drops := Nat.min 0xFFFF (g.drops + 1) }

/-- Test a token in the order of R19 and apply it. -/
def applyToken (s : State) (pos : Nat) (t : TokMsg) : State :=
  match s.graph? pos t.gid with
  | none => s
  | some g =>
    match sget? g.nodes t.idx with
    | none => dropToken s pos t.gid
    | some n =>
      if !g.live || n.st == 0 then dropToken s pos t.gid
      else
        let s0 := logDecision s pos g.part
          { kind := 5, sub := t.slot, lcore := 0x7F, ctx := 0, agent := 1, a := BitVec.ofNat 64 (t.gid * 4096 + t.idx),
            b := BitVec.ofNat 64 t.src }
        if n.srcs[t.slot]?.getD 0 ≠ t.src ∨ !n.used t.slot then
          modGraph s0 pos t.gid fun g => { g with misroute := Nat.min 0xFFFF (g.misroute + 1) }
        else if 15 ≤ n.count t.slot then
          slip (dropToken s0 pos t.gid) pos 3 (some t.gid) 1 (BitVec.ofNat 64 (t.gid * 4096 + t.idx)) (BitVec.ofNat 64 t.slot)
        else
          modNode s0 pos t.gid t.idx fun n => { n with counts := lset n.counts t.slot (n.count t.slot + 1) }

/-- The partition of a held graph. -/
def partOf? (s : State) (pos gid : Nat) : Option Nat := (s.graph? pos gid).map (·.part)

/-- What a token that has reached the engine may do: be applied, be held by a walk, or wait for log space or for its turn in a
replay (R25, R358, R360). -/
inductive TokDue where | apply | consume (i : Nat) | hold | space | turn
  deriving DecidableEq, Repr

def tokenDue (s : State) (pos : Nat) (t : TokMsg) : TokDue :=
  match s.graph? pos t.gid with
  | none => .apply
  | some g =>
    let c := s.chip pos
    if walking s pos t.gid then .hold
    else if c.holds g.part then .space
    else if c.replays g.part && g.live then
      match nextRec s pos fun w1 a _ => recKind w1 == 5 && a / 4096 == t.gid with
      | some (i, w1, a, b) => if recSub w1 = t.slot ∧ a = t.gid * 4096 + t.idx ∧ b = t.src then .consume i else .turn
      | none => .turn
    else .apply

/-- Arrivals of a replayed graph that are not yet due (R360): more than 64 are a divergence (R361). -/
def tooMany (s : State) (pos : Nat) (t : TokMsg) : State :=
  if ((s.eng pos).tokQ.filter fun x => x.gid == t.gid).length ≤ 64 then s
  else
    let exp := match nextRec s pos fun w1 a _ => recKind w1 == 5 && a / 4096 == t.gid with
      | some (i, _) => i
      | none => endIndex s pos
    modGe (diverge s pos exp
      { kind := 5, sub := t.slot, lcore := 0x7F, ctx := 0, agent := 1, a := BitVec.ofNat 64 (t.gid * 4096 + t.idx),
        b := BitVec.ofNat 64 t.src }) pos fun e => { e with dead := e.dead ++ [t.gid] }

/-- A token can be taken now. -/
def TokDue.ready : TokDue → Bool
  | .apply | .consume _ | .hold => true
  | .space | .turn => false

/-- The first of some tokens in ascending (graph id, node index), of one node's in arrival order (R21). -/
def firstToken : List (TokMsg × Nat) → Option (TokMsg × Nat)
  | [] => none
  | x :: r => match firstToken r with
    | none => some x
    | some y => some (if y.1.gid < x.1.gid ∨ (y.1.gid = x.1.gid ∧ y.1.idx < x.1.idx) then y else x)

/-- The next token that the engine can take out of those that have reached it, with its place among them (R21). -/
def nextToken (s : State) (pos : Nat) : Option (TokMsg × Nat) :=
  firstToken ((s.eng pos).tokQ.zipIdx.filter fun x => (tokenDue s pos x.1).ready)

/-- What keeps the other tokens from being taken is noted (R358, R361). -/
def noteTokens (s : State) (pos : Nat) : State :=
  (s.eng pos).tokQ.foldl (fun s t => match tokenDue s pos t with
    | .space => noteHold s pos
    | .turn => if (s.eng pos).dead.contains t.gid then s else tooMany s pos t
    | .apply | .consume _ | .hold => s) s

/-- Take the next token (R19, R25, R360). -/
def takeToken (s0 : State) (pos : Nat) : State :=
  let s := noteTokens s0 pos
  match nextToken s pos with
  | none => s
  | some (t, i) =>
    let s1 := modGe s pos fun e => { e with tokQ := ldel e.tokQ i }
    match tokenDue s pos t with
    | .apply => applyToken s1 pos t
    | .consume j => consumeRec (applyToken s1 pos t) pos j
    | .hold => setGraph s1 pos t.gid fun g => { g with held := g.held ++ [t] }
    | .space | .turn => s

/-- Send one token to a successor entry (R17). -/
def sendSucc (s : State) (pos gid idx entry : Nat) : State :=
  let tg := bitsOf entry 23 16
  let t : TokMsg := { gid := tg, idx := bitsOf entry 11 0, slot := bitsOf entry 15 12, src := senderWord tg gid idx }
  match holderOf s pos tg with
  | none => dropToken s pos gid
  | some q =>
    if q = pos then modGe s pos fun e => { e with tokQ := e.tokQ ++ [t] }
    else engineMsg s pos q (.token t.gid t.idx t.slot t.src)

/-! ## Resources of a node -/

/-- The contexts of a placed node: one on each member core (R63, R64). -/
def placeCtxs (s : State) (pos : Nat) (p : Placed) : List Nat :=
  (List.range p.n).map fun i => ctxKey pos ((s.chip pos).lc (p.lc + i)).pcore p.ctx

/-- Return the context, registers, banks, tiles and grant of a node (R58). -/
def freePlace (s : State) (pos gid idx : Nat) : State :=
  match (s.node? pos gid idx).bind (·.place) with
  | none => s
  | some p =>
    let s1 := (placeCtxs s pos p).foldl dropCtx s
    modNode s1 pos gid idx fun n => { n with place := none, asked := none }

/-- The frozen objects of a saved node that will not be restored are registered no longer (R276, R324). -/
def dropFrozen (s : State) (r : SaveRec) : State :=
  r.objs.flatten.foldl (fun s o =>
    s.modCore (coreKey (bitsOf o.addr 37 36) (bitsOf o.addr 35 24)) fun c =>
      { c with objs := c.objs.filter fun x => !(x.frozen && x.addr == o.addr) }) s

/-- The node forgets where it must return, its held tiles and its save record (R321, R363). A node that was saved still owned
its core's harts, which are released with it (R215), and its objects. -/
def forgetPlace (s0 : State) (pos gid idx : Nat) : State :=
  let s := match (s0.node? pos gid idx).bind (·.rec?) with
    | some r => dropFrozen s0 r
    | none => s0
  let s1 := modNode s pos gid idx fun n => { n with must := none, tiles := false, rec? := none }
  (List.range 34).foldl (fun s k =>
    let c := s.core (coreKey pos k)
    if (c.owner.isSome ∨ c.ownSaved) ∧ c.ownerGid = gid ∧ c.ownerIdx = idx then
      s.modCore (coreKey pos k) fun c =>
        { c with owner := none, ownSaved := false, queues := [], loader := { c.loader with running := false, paused := false }
                 storer := { c.storer with running := false, paused := false } }
    else s) s1

/-! ## Cone walks (R24 to R26) -/

/-- The successors of a node in its own graph. -/
def Node.inner (gid : Nat) (n : Node) : List Nat :=
  (n.succ.filter fun e => bitsOf e 23 16 == gid).map fun e => bitsOf e 11 0

/-- The cone of a node within its graph: edges run from lower to higher indexes. -/
def coneOf (g : Graph) (gid origin : Nat) : List Nat :=
  (g.nodes.foldl (fun (acc : List Nat) (i, n) => if acc.contains i then acc ++ n.inner gid else acc) [origin]).filter
    (fun i => (sget? g.nodes i).isSome) |>.eraseDups

/-- A source word names a node of the cone. -/
def coneSrc (gid : Nat) (cone : List Nat) (sender : Option Nat) (w : Nat) : Bool :=
  (bitsOf w 31 30 == 1 && bitsOf w 27 20 == gid && cone.contains (bitsOf w 11 0)) || sender == some w

/-- Clear the slots fed from the cone (R24). -/
def coneCounts (gid : Nat) (cone : List Nat) (sender : Option Nat) (n : Node) : List Nat :=
  (List.range 16).map fun k => if coneSrc gid cone sender (n.srcs[k]?.getD 0) then 0 else n.count k

/-- Give back the tokens consumed from outside the cone, capped at 15 (R24). -/
def regained (gid : Nat) (cone : List Nat) (sender : Option Nat) (n : Node) : List Nat :=
  (List.range 16).map fun k =>
    if n.used k && !coneSrc gid cone sender (n.srcs[k]?.getD 0) then Nat.min 15 (n.count k + 1) else n.count k

/-- Rings on the chiplet that satisfy `p` and whose producer and consumer lie in the cone are reset (R284). -/
def resetRings (s : State) (pos : Nat) (w : WalkSt) (p : Obj → Bool) : State :=
  let inCone := fun n : Nat => n / 4096 == w.gid && w.cone.contains (n % 4096)
  (List.range 34).foldl (fun s k =>
    (s.core (coreKey pos k)).objs.foldl (fun s o =>
      let w0 := objW s o.addr 0
      let w1 := objW s o.addr 1
      if o.kind = .ring ∧ p o ∧ bitOf w0 52 ∧ bitOf w0 53 ∧ inCone (bitsOf w0 51 32) ∧ inCone (bitsOf w1 59 40) then
        resetRing s o.addr
      else s) s) s

/-- An object lies in a bank that a context owns. -/
def objOwned (s : State) (ck : Nat) (o : Obj) : Bool :=
  homeCore o.addr == ckCore ck && (sget Bank.reset (s.core (ckCore ck)).banks (bankOf o.addr)).owner == some (ckCtx ck)

/-- The end of a blocking node of a frame (R27): the tick is noted. -/
def noteEnd (s : State) (pos gid : Nat) (n : Node) : State :=
  if n.dl && !n.overWith then setGraph s pos gid fun g => { g with lastEnd := s.tick pos } else s

/-- A node leaves ready otherwise than by its placement: it reserves no longer (R60). -/
def dropReserve (s : State) (pos gid idx : Nat) : State :=
  modGe s pos fun e => { e with reserve := e.reserve.filter fun x => x.2 != (gid, idx) }

/-- A cone node is set cancelled; `back` where it leaves ready or running. Its rings are reset while its banks, and with them their
registrations, are still its own (R276, R284; log entry 15). -/
def cancelNode (s : State) (pos : Nat) (w : WalkSt) (idx : Nat) (back : Bool) : State :=
  let s0 := match (s.node? pos w.gid idx).bind (·.place) with
    | some p => resetRings s pos w fun o => (placeCtxs s pos p).any fun ck => objOwned s ck o
    | none => s
  let s1 := match s0.node? pos w.gid idx with
    | some n => noteEnd s0 pos w.gid n
    | none => s0
  let s2 := freePlace (dropReserve s1 pos w.gid idx) pos w.gid idx
  let s3 := modNode s2 pos w.gid idx fun n =>
    { n.ends 6 with counts := if back then regained w.gid w.cone w.sender n else n.counts }
  forgetPlace s3 pos w.gid idx

/-- Ask for the pre-emption of a running node (R61, R320). -/
def askPreempt (s : State) (pos gid idx : Nat) : State :=
  match (s.node? pos gid idx).bind (·.place) with
  | none => s
  | some p =>
    let cks := placeCtxs s pos p
    let now := s.now (cks.headD 0)
    let s1 := cks.foldl (fun s ck => s.modCtx ck fun c => { c with preempt := c.preempt.or (some now) }) s
    modNode s1 pos gid idx fun n => { n with asked := n.asked.or (some now) }

/-- Send a cancel message for a successor entry into another graph (R17, R24). It carries the retry mark of its walk: that the root is
retrying, or that the message which started the walk was marked (log entry 101). -/
def sendCancel (s : State) (pos : Nat) (w : WalkSt) (idx entry : Nat) : State :=
  let tg := bitsOf entry 23 16
  let ti := bitsOf entry 11 0
  let src := senderWord tg w.gid idx
  match holderOf s pos tg with
  | none => s
  | some q =>
    if q = pos then modGe s pos fun e => { e with walkQ := e.walkQ ++ [.cancel tg ti src w.retry] }
    else engineMsg s pos q (.cancel tg ti src w.retry)

/-- Visit one node of the cone (R24). -/
def visitNode (s : State) (pos : Nat) (w : WalkSt) (idx : Nat) : State :=
  match s.node? pos w.gid idx with
  | none => s
  | some n =>
    let s1 :=
      if w.root = some idx then s
      else match n.st with
        | 3 => askPreempt s pos w.gid idx
        | 1 => cancelNode s pos w idx false
        | 2 => cancelNode s pos w idx true
        | 7 => cancelNode s pos w idx false
        | _ => s
    let s2 := modNode s1 pos w.gid idx fun n => { n with counts := coneCounts w.gid w.cone w.sender n }
    (n.succ.filter fun e => bitsOf e 23 16 != w.gid).foldl (fun s e => sendCancel s pos w idx e) s2

/-- Start a walk (R24). `fcause` is that of a root that stays failed, which the Bridge is told at the end (R23). An escalated graph keeps
GSTATE 4 (log entry 100). -/
def startWalk (s : State) (pos gid origin : Nat) (root : Option Nat) (retry : Bool) (sender fcause : Option Nat) : State :=
  match s.graph? pos gid with
  | none => s
  | some g =>
    let w : WalkSt := { gid := gid, root := root, origin := origin, retry := retry, cone := coneOf g gid origin, sender := sender
                        fcause := fcause }
    let s1 := modGe s pos fun e => { e with walk := some w }
    let s2 := modGraph s1 pos gid fun g => { g with gstate := if g.gstate = 4 then 4 else 2 }
    (g.nodes.map (·.1)).foldl (fun s i => if w.cone.contains i then visitNode s pos w i else s) s2

/-- A node of the walk in progress that is not its root. -/
def inWalk (s : State) (pos gid idx : Nat) : Bool :=
  match (s.eng pos).walk with
  | some w => w.gid == gid && w.cone.contains idx && w.root != some idx
  | none => false

/-! ## Faults of nodes (R23, R26, R363) -/

/-- The node fails: FCAUSE, RROW and RVALID are written, its resources return; with a retry to come, it keeps its tiles and
must return to the same place. -/
def failNode (s : State) (pos : Nat) (r : Report) (retry : Bool) : State :=
  let pl := (s.node? pos r.gid r.idx).bind (·.place)
  let s1 := modNode (freePlace s pos r.gid r.idx) pos r.gid r.idx fun n =>
    { n with st := 5, fcause := r.cause % 256, rrow := r.rrow.toNat % 2 ^ 32, rvalid := r.rvalid, overWith := !retry }
  let s2 := forgetPlace s1 pos r.gid r.idx
  if retry then modNode s2 pos r.gid r.idx fun n => { n with must := pl, tiles := true } else s2

/-- A dispatched node runs (Table 2-4): LCORE and CTX are written. -/
def markRunning (s : State) (pos gid idx lcore x : Nat) : State :=
  modNode s pos gid idx fun n => { n with st := 3, lcore := lcore, ctx := x, must := none }

/-- The dispatcher has started a node's contexts, and its lead has issued no bundle yet: it is ready with a granted allotment (R10). -/
def Node.dispatched (n : Node) : Bool := n.st == 2 && n.place.any fun p => p.granted

/-- A node whose context ends before its first bundle has issued passes through running (R22, log entry 112). -/
def runFirst (s : State) (pos gid idx : Nat) : State :=
  match s.node? pos gid idx with
  | some n => match n.place with
    | some p => if n.dispatched then
        markRunning s pos gid idx (logicalCore s (coreKey pos ((s.chip pos).lc p.lc).pcore)) p.ctx else s
    | none => s
  | none => s

/-- Apply a fault report to a running node (R23). -/
def faultNode (s0 : State) (pos : Nat) (r : Report) : State :=
  let s := runFirst s0 pos r.gid r.idx
  match s.node? pos r.gid r.idx with
  | none => s
  | some n =>
    if n.st ≠ 3 then s
    else
      let retry := n.policy == 0 && decide (n.rused < n.retry)
      let s1 := failNode s pos r retry
      let s2 := if retry then s1 else noteEnd s1 pos r.gid n
      if n.policy = 2 then escalate s2 pos r.gid
      else if retry then
        startWalk (modNode s2 pos r.gid r.idx fun n => { n with st := 7, rused := n.rused + 1 }) pos r.gid r.idx
          (some r.idx) true none none
      else
        -- its tiles stay out of the free pool until the walk completes (R363)
        let pl := n.place
        startWalk (modNode s2 pos r.gid r.idx fun n => { n with must := pl, tiles := true }) pos r.gid r.idx (some r.idx)
          false none (some r.cause)

/-- A report for a node in the cone of the walk is absorbed: FCAUSE is recorded and the node ends cancelled (R26). -/
def absorbReport (s : State) (pos : Nat) (r : Report) : State :=
  match (s.eng pos).walk, s.node? pos r.gid r.idx with
  | some w, some n =>
    let s1 := modNode s pos r.gid r.idx fun n => { n with fcause := r.cause % 256 }
    if n.st = 3 then cancelNode s1 pos w r.idx true else s1
  | _, _ => s

/-- The node-failure report to the Bridge, and vector 2 (R23). -/
def nodeFailure (s : State) (pos gid idx cause : Nat) : State :=
  fireVector (modBr s pos fun b => { b with nodeFails := b.nodeFails ++ [(gid, idx, cause, s.ctOf pos)] }) pos 2

/-- The walk completes (R24 step 5, R25). -/
def finishWalk (s : State) (pos : Nat) (w : WalkSt) : State :=
  let s1 := modGe (resetRings s pos w fun _ => true) pos fun e => { e with walk := none }
  let s2 := modGraph s1 pos w.gid fun g =>
    { g with gstate := if g.gstate = 4 then 4 else if g.waiting then 3 else 1
             cancels := Nat.min 0xFFFF (g.cancels + 1) }
  let s3 := match w.root with
    | none => s2
    | some r =>
      match s2.node? pos w.gid r with
      | some n =>
        if n.st = 7 then modNode s2 pos w.gid r fun n => { n with st := 2, readyCt := s2.ctOf pos }
        else match w.fcause with
          | some c => nodeFailure (modNode s2 pos w.gid r fun n => { n with must := none, tiles := false }) pos w.gid r c
          | none => s2
      | none => s2
  let s4 :=
    if w.retry then w.cone.foldl (fun s i =>
      modNode s pos w.gid i fun n => if n.st = 6 then { n with st := 1 } else n) s3
    else s3
  let held := match s4.graph? pos w.gid with
    | some g => g.held.filter fun (t : TokMsg) => !coneSrc w.gid w.cone w.sender t.src
    | none => []
  let s5 := setGraph s4 pos w.gid fun g => { g with held := [] }
  held.foldl (fun s t =>
    match tokenDue s pos t with
    | .apply => applyToken s pos t
    | .consume j => consumeRec (applyToken s pos t) pos j
    | .hold | .space | .turn => modGe s pos fun e => { e with tokQ := e.tokQ ++ [t] }) s5

/-! ## Stopping a graph (R382) -/

/-- Stop a graph: running contexts are killed without failing their nodes, everything is returned, every node becomes idle, and
GSTATE becomes 0; the engine holds the graph no longer. -/
def stopGraph (s : State) (pos gid : Nat) : State :=
  match s.graph? pos gid with
  | none => s
  | some g =>
    let s0 := modGe s pos fun e =>
      { e with walk := if walking s pos gid then none else e.walk
               walkQ := e.walkQ.filter fun q => match q with
                 | .report r => r.gid != gid
                 | .cancel t _ _ _ => t != gid
               reserve := e.reserve.filter fun x => x.2.1 != gid }
    let s1 := s0.modChip pos fun c => { c with reports := c.reports.filter fun r => r.gid != gid }
    let s2 := g.nodes.foldl (fun s (i, _) =>
      modNode (forgetPlace (freePlace s pos gid i) pos gid i) pos gid i fun n => { n with st := 0 }) s1
    let s3 := modGraph s2 pos gid fun g => { g with gstate := 0 }
    modGe s3 pos fun e => { e with graphs := sdel e.graphs gid }

/-- Graphs that diverged in this step: their running contexts are killed with FCAUSE 0x18, and they stop (R361). -/
def settleDead (s : State) (pos : Nat) : State :=
  (s.eng pos).dead.foldl (fun s gid =>
    let s1 := match s.graph? pos gid with
      | some g => g.nodes.foldl (fun s (i, n) =>
          if n.st = 3 then modNode s pos gid i fun n => { n with fcause := 0x18 } else s) s
      | none => s
    stopGraph s1 pos gid) (modGe s pos fun e => { e with dead := [] })

/-- A graph whose replay has ended stops when no node of it runs (R360). -/
def settleEnding (s : State) (pos : Nat) : State :=
  (s.eng pos).graphs.foldl (fun s (gid, g) =>
    if g.ending && g.nodes.all (fun n => n.2.st != 3) then stopGraph s pos gid else s) s

/-! ## Completion (R349) -/

/-- Everything that a context started has finished, and its harts and their copies (R349). -/
def ctxFinished (s : State) (ck : Nat) : Bool :=
  let c := s.ctx ck
  let k := s.core (ckCore ck)
  let x := ckCtx ck
  let own := k.owner == some x
  c.halted && c.queuesEmpty && c.outst.isEmpty && c.inflight.isEmpty && c.async.isEmpty
    && k.copies.all (fun o => !(o.ctx == x && (o.hart.isNone || own)))
    && k.engine.all (fun o => o.ctx != x)
    && (s.posts.all fun p => p.src != ck) && (s.objMsgs.all fun m => m.ck != ck)
    && ((s.chip (ckPos ck)).tlbinvs.all fun t => t.ck != ck)
    && (!own || (!k.loader.running && !k.storer.running))

/-- The node completes (R349): done with STAMP and FRAME, tokens in list order, resources; re-armed where Table 2-4 says.
A cone node of the walk becomes cancelled instead (R25). -/
def completeNode (s : State) (pos gid idx : Nat) (n : Node) (frameno : Nat) : State :=
  match (s.eng pos).walk with
  | some w =>
    if inWalk s pos gid idx then cancelNode s pos w idx true else finish s
  | none => finish s
where
  finish (s : State) : State :=
    let s1 := modNode (noteEnd s pos gid n) pos gid idx fun n => { n.ends 4 with frame := frameno % 2 ^ 32, rvalid := false }
    let s2 := n.succ.foldl (fun s e => sendSucc s pos gid idx e) s1
    let s3 := forgetPlace (freePlace s2 pos gid idx) pos gid idx
    if !n.timed && decide (1 ≤ n.req) then modNode s3 pos gid idx fun n => { n with st := 1 } else s3

/-- The node runs, and everything that its contexts started has finished (R349). -/
def nodeDone (s : State) (pos gid idx : Nat) : Option (Graph × Node) :=
  match s.graph? pos gid, s.node? pos gid idx with
  | some g, some n =>
    match n.place with
    | some p => if n.st == 3 && (placeCtxs s pos p).all (ctxFinished s) then some (g, n) else none
    | none => none
  | _, _ => none

/-! ## Frames (R27 to R29) -/

/-- A blocking node of the frame. -/
def Node.blocks (n : Node) : Bool :=
  n.dl && !n.overWith && (n.st == 1 || n.st == 2 || n.st == 3 || n.st == 7)

def Graph.blocked (g : Graph) : Bool := g.nodes.any fun n => n.2.blocks

/-- The tick at which the next frame starts: the later of FSTART + PERIOD and the tick after the last blocking node ended. -/
def Graph.nextStart (g : Graph) : Nat := Nat.max (g.fstart + g.period) (g.lastEnd + 1)

/-- The frame-start transitions of Table 2-4. -/
def Node.newFrame (n : Node) : Node :=
  let n1 := { n with dlSeen := false, overWith := false }
  if n.st = 4 ∧ n.timed then { n1 with st := 1 }
  else if n.st = 5 ∨ n.st = 6 then { n1 with st := 1, rused := 0, rvalid := false }
  else n1

/-- Start the next frame at tick `t`. -/
def newFrame (s : State) (pos gid t : Nat) : State :=
  let s1 := modGraph s pos gid fun g =>
    { g with fstart := t, frameno := (g.frameno + 1) % 2 ^ 32, gstate := if g.gstate = 3 then 1 else g.gstate
             waiting := false, streak := if g.told then g.streak else 0, told := false, lastEnd := 0 }
  match s1.graph? pos gid with
  | none => s1
  | some g => g.nodes.foldl (fun s (i, _) => modNode s pos gid i Node.newFrame) s1

/-- The deadline tick of a node has come (R28). -/
def missDeadline (s : State) (pos gid idx : Nat) (g : Graph) (n : Node) : State :=
  let s1 := modNode s pos gid idx fun n => { n with dlSeen := true }
  if n.st = 1 ∨ n.st = 2 ∨ n.st = 3 ∨ n.st = 7 then
    let s2 := slip s1 pos 1 (some gid) 1 (BitVec.ofNat 64 (gid * 4096 + idx)) (BitVec.ofNat 64 (g.fstart + n.deadline))
    match n.place with
    | some p =>
      if n.st = 3 ∧ n.dltrap then
        pushAsync s2 ((placeCtxs s pos p).headD 0) { cause := 0x1F, own := 0, tok := 0, slots := 0, value := 0, rp := none, id := 0,
                                                        bundle := none, cy := 0 }
      else s2
    | none => s2
  else s1

/-! ## The engine's cycle (R21) -/

/-- The first finished node, in ascending (graph id, node index). -/
def firstDone (s : State) (pos : Nat) : Option (Nat × Nat) :=
  ((allNodes s pos).find? fun (gid, i, _, _) => (nodeDone s pos gid i).isSome).map fun (gid, i, _, _) => (gid, i)

/-- A waiting request whose node the walk in progress absorbs: its place in the queue (R26). -/
def absorbed (s : State) (pos : Nat) : Option Nat :=
  (s.eng pos).walkQ.findIdx? fun q => match q with
    | .report r => inWalk s pos r.gid r.idx
    | .cancel _ _ _ _ => false

/-- A fault report or a cancel message that can be taken now (R23, R24, R26). -/
def reportDue (s : State) (pos : Nat) : Bool :=
  !(s.chip pos).reports.isEmpty || (absorbed s pos).isSome || ((s.eng pos).walk.isNone && !(s.eng pos).walkQ.isEmpty)

/-- The tick events that are due, in ascending graph id: of a graph its frame start, its nominal frame end, its deadlines in ascending
index, its stretch fault (R27 to R29). -/
inductive TickEv where | frame | nominal | deadline | stretch
  deriving DecidableEq, Repr

def Graph.frameDue (g : Graph) (t : Nat) : Bool :=
  g.period != 0 && g.live && !g.ending && !g.blocked && decide (g.nextStart ≤ t)
def Graph.nominalDue (g : Graph) (t : Nat) : Bool :=
  g.period != 0 && g.live && !g.waiting && g.blocked && decide (g.fstart + g.period ≤ t)
def Graph.deadlineDue (g : Graph) (n : Node) (t : Nat) : Bool :=
  g.live && n.dl && !n.dlSeen && decide (g.fstart + n.deadline ≤ t)
def Graph.stretchDue (g : Graph) (t : Nat) : Bool :=
  g.live && g.waiting && !g.told && decide (g.stretch < t - (g.fstart + g.period))

/-- The first tick event of a graph that is due. -/
def Graph.tickDue (g : Graph) (t : Nat) : Option (TickEv × Nat) :=
  if g.frameDue t then some (.frame, 0)
  else if g.nominalDue t then some (.nominal, 0)
  else match g.nodes.find? fun n => g.deadlineDue n.2 t with
    | some n => some (.deadline, n.1)
    | none => if g.stretchDue t then some (.stretch, 0) else none

/-- The first tick event of the engine that is due: its graph, kind and node. -/
def tickDue (s : State) (pos : Nat) : Option (Nat × TickEv × Nat) :=
  (s.eng pos).graphs.findSome? fun (gid, g) => (g.tickDue (s.tick pos)).map fun x => (gid, x)

/-- Nothing of the classes before token arrivals waits: the completions and the reports of the cycle have been taken (R21). What waits
for the engine when it takes a step has arrived in one cycle (log entry 111). -/
def noReports (s : State) (pos : Nat) : Bool := (firstDone s pos).isNone && !reportDue s pos
/-- Nothing of the classes before tick events waits. -/
def noTokens (s : State) (pos : Nat) : Bool := noReports s pos && (nextToken s pos).isNone

/-- Evaluate the ready conditions of every graph, once every event of the cycle has been taken (R21). -/
def evalAll (s : State) (pos : Nat) : State :=
  if noTokens s pos && (tickDue s pos).isNone then (s.eng pos).graphs.foldl (fun s g => evalReady s pos g.1) s else s

/-- The end of a step of chiplet `pos`'s graph engine. -/
def engDone (s : State) (pos : Nat) : Out :=
  let s1 := settleEnding (settleDead s pos) pos
  .next (evalAll s1 pos)

end Sys2Proof.Machine
end

