-- ==== Sys2Proof/Machine/Place.lean ====
section
/-!
DEFINITION. The dispatcher and the current-budget client: allotment, serving order, reservation, pre-emption, grants, instruction
blocks, the start of a node, saving and restoring, spares and partition reset (R10, R16, R56 to R71, R215, R230, R320 to R324,
R333).
-/
namespace Sys2Proof.Machine
open Sys2Proof

/-! ## Free maps -/

/-- The physical core of logical core `c` of a chiplet. -/
def lcKey (s : State) (pos c : Nat) : Nat := coreKey pos ((s.chip pos).lc c).pcore

/-- A node of a set. -/
def inSet (x : List (Nat × Nat)) (gid idx : Nat) : Bool := x.contains (gid, idx)

/-- The allotments that stand on logical core `c`, but for those of the nodes in `x`. -/
def holders (s : State) (pos c : Nat) (x : List (Nat × Nat)) : List (Node × Placed) :=
  (allNodes s pos).filterMap fun (gid, i, _, n) =>
    match n.place with
    | some p => if !inSet x gid i && decide (p.lc ≤ c) && decide (c < p.lc + p.n) then some (n, p) else none
    | none => none

/-- Tiles kept for a retry on logical core `c` (R363), but for those of the node itself. -/
def keptTiles (s : State) (pos c : Nat) (self : Nat × Nat) : List (Nat × Nat) :=
  (allNodes s pos).filterMap fun (gid, i, _, n) =>
    match n.must with
    | some p =>
      if n.tiles && (gid, i) != self && decide (p.lc ≤ c) && decide (c < p.lc + p.n) then some (p.tb, n.atiles) else none
    | none => none

/-- Context x of logical core c is free, or held by a node of `xs` (R59, R63). -/
def ctxFree (s : State) (pos c x : Nat) (xs : List (Nat × Nat)) : Bool :=
  (holders s pos c xs).all fun (_, p) => p.n == 1 && p.ctx != x

def vregFree (s : State) (pos c r : Nat) (xs : List (Nat × Nat)) : Bool :=
  (holders s pos c xs).all fun (_, p) =>
    let t := s.ctx (lcKey s pos c * 4 + p.ctx)
    !(decide (t.vBase ≤ r) && decide (r < t.vBase + t.vSize))

def bankFree (s : State) (pos c b : Nat) (xs : List (Nat × Nat)) : Bool :=
  let k := lcKey s pos c
  match (sget Bank.reset (s.core k).banks b).owner with
  | none => true
  | some x => inSet xs (s.ctx (k * 4 + x)).gid (s.ctx (k * 4 + x)).idx

def tileFree (s : State) (pos c t : Nat) (xs : List (Nat × Nat)) (self : Nat × Nat) : Bool :=
  ((holders s pos c xs).all fun (n, p) => !(decide (p.tb ≤ t) && decide (t < p.tb + n.atiles)))
    && (keptTiles s pos c self).all fun (tb, n) => !(decide (tb ≤ t) && decide (t < tb + n))

/-- FIRSTRUN (R59): the lowest base of a run of `n`, 0 for none. -/
def firstRun (size n : Nat) (free : Nat → Bool) : Option Nat :=
  if n = 0 then some 0 else (List.range (size + 1 - n)).find? fun b => allTo n fun i => free (b + i)

/-! ## Eligibility and FIT -/

/-- The current size of the registers of a node's request: at a resume the SIZE it had (R168). -/
def wantV (n : Node) : Nat := match n.must with
  | some p => p.vn
  | none => n.vregs

/-- A core is eligible for a node (R57, R215), the nodes of `xs` counted as gone. -/
def eligible (s : State) (pos c : Nat) (g : Graph) (n : Node) (self : Nat × Nat) (xs : List (Nat × Nat)) : Bool :=
  let e := (s.chip pos).lc c
  let k := s.core (coreKey pos e.pcore)
  e.valid && e.owned && e.part == g.part && (e.cstate == 0 || (e.cstate == 1 && decide (40 ≤ n.prio)))
    && ((holders s pos c xs).all fun h => h.2.n == 1)
    && (!n.harts || !(k.owner.isSome || k.ownSaved) || (k.ownerGid, k.ownerIdx) == self)

/-- The bases that the members c to c + m − 1 offer in context x, or the ones to which the node must return. -/
def tryAt (s : State) (pos c m : Nat) (g : Graph) (n : Node) (self : Nat × Nat) (xs : List (Nat × Nat)) : Option Placed :=
  let cs := (List.range m).map (c + ·)
  let v := fun r => cs.all fun c => vregFree s pos c r xs
  let b := fun r => cs.all fun c => bankFree s pos c r xs
  let t := fun r => cs.all fun c => tileFree s pos c r xs self
  if !(cs.all fun c => eligible s pos c g n self xs) then none
  else
    let ctxOk := fun x => if m = 1 then ctxFree s pos c x xs else cs.all fun c => (List.range 4).all fun y => ctxFree s pos c y xs
    match n.must with
    | some p =>
      if p.lc = c ∧ ctxOk p.ctx ∧ (allTo p.vn fun i => v (p.vb + i)) ∧ (allTo n.sbanks fun i => b (p.bb + i))
          ∧ (allTo n.atiles fun i => t (p.tb + i)) then some p else none
    | none =>
      match (List.range (if m = 1 then 4 else 1)).find? ctxOk, firstRun 640 n.vregs v, firstRun 32 n.sbanks b,
          firstRun 64 n.atiles t with
      | some x, some vb, some bb, some tb =>
        some { lc := c, ctx := x, vb := vb, vn := n.vregs, bb := bb, tb := tb, n := m, granted := false, ct := 0 }
      | _, _, _, _ => none

/-- FIT (R59, R63): the first core, or aligned group of cores, that offers what the node asks for. -/
def fit (s : State) (pos : Nat) (gid idx : Nat) (g : Graph) (n : Node) (xs : List (Nat × Nat)) : Option Placed :=
  let m := n.cores
  ((List.range (32 / m)).map (· * m)).findSome? fun c => tryAt s pos c m g n (gid, idx) xs

/-! ## Save records (R321) -/

/-- The largest save record of a node (Table 15-6): each variable part on a 4 KiB boundary, F counted, one layout per member. -/
def recLen (n : Node) : Nat :=
  let up := fun x => (x + 0xFFF) / 0x1000 * 0x1000
  let one := 0x2000 + up ((n.fdepth + 1) * 1024) + up (640 * 128) + 0x40000 + n.atiles * 0x4000 + n.sbanks * 0x20000
  (n.cores * one + 0xFFFF) / 0x10000 * 0x10000

/-- The save pool of a chiplet: base and size (Table 15-5). -/
def poolOf (s : State) (pos : Nat) : Nat × Nat :=
  let w := (s.eng pos).savepool.toNat
  (bitsOf w 45 21 * 0x200000, bitsOf w 63 46 * 0x200000)

/-- Allot a record of `len` bytes, first fit in 64 KiB units, beside the records held and those in `extra`. -/
def allotRec (s : State) (pos len : Nat) (extra : List (Nat × Nat)) : Option Nat :=
  let (base, size) := poolOf s pos
  let held := extra ++ (allNodes s pos).filterMap fun (_, _, _, n) => n.rec?.map fun r => (r.addr, r.len)
  ((List.range (size / 0x10000)).map fun i => base + i * 0x10000).find? fun a =>
    decide (a + len ≤ base + size) && held.all fun (b, m) => !overlap a len b m

/-- Allot a record for every victim; none where they do not all fit. -/
def allotAll (s : State) (pos : Nat) : List (Nat × Nat) → List (Nat × Nat) → Option (List ((Nat × Nat) × Nat × Nat))
  | [], _ => some []
  | v :: vs, extra =>
    match s.node? pos v.1 v.2 with
    | none => none
    | some n =>
      if n.rec?.isSome then allotAll s pos vs extra
      else match allotRec s pos (recLen n) extra with
        | none => none
        | some a => (allotAll s pos vs ((a, recLen n) :: extra)).map fun r => (v, a, recLen n) :: r

/-- Note the records allotted. -/
def giveRecs (s : State) (pos : Nat) (rs : List ((Nat × Nat) × Nat × Nat)) : State :=
  rs.foldl (fun s (v, a, l) =>
    modNode s pos v.1 v.2 fun n => { n with rec? := some { addr := a, len := l, ctxs := [], objs := [], fheld := [], held := [] } }) s

/-! ## Pre-emption (R61) -/

/-- A running node of the partition with priority at most q. -/
def runningUpTo (s : State) (pos part q : Nat) : List (Nat × Nat) :=
  (allNodes s pos).filterMap fun (gid, i, g, n) =>
    if g.part == part && n.st == 3 && decide (n.prio ≤ q) then some (gid, i) else none

/-- The node holds something of a placement on one of its cores: its context, or a register, bank or tile of it. -/
def holdsPart (s : State) (pos : Nat) (h : Node) (p : Placed) (v : Nat × Nat) : Bool :=
  match s.node? pos v.1 v.2 with
  | none => false
  | some n =>
    match n.place with
    | none => false
    | some q =>
      overlap p.lc p.n q.lc q.n &&
        (p.n != 1 || q.n != 1 || p.ctx == q.ctx
          || (let t := s.ctx (lcKey s pos q.lc * 4 + q.ctx)
              overlap p.vb p.vn t.vBase t.vSize)
          || anyTo h.sbanks (fun i => (sget Bank.reset (s.core (lcKey s pos q.lc)).banks (p.bb + i)).owner == some q.ctx)
          || overlap p.tb h.atiles q.tb n.atiles)

/-- The choice of a reserving head: the first q whose victims free a place and can all be saved (R61, R321). -/
def choose (s : State) (pos gid idx : Nat) (g : Graph) (n : Node) : State :=
  if (poolOf s pos).2 = 0 then s
  else
    let qs := (List.range n.prio).filter fun q =>
      (allNodes s pos).any fun (_, _, g2, m) => g2.part == g.part && m.st == 3 && m.prio == q
    let pick := qs.findSome? fun q =>
      let xs := runningUpTo s pos g.part q
      match fit s pos gid idx g n xs with
      | none => none
      | some p =>
        let vs := xs.filter (holdsPart s pos n p)
        (allotAll s pos vs []).map fun rs => (vs, rs)
    match pick with
    | none => s
    | some (vs, rs) => vs.foldl (fun s v => askPreempt s pos v.1 v.2) (giveRecs s pos rs)

/-! ## Serving (R60) -/

/-- A node that waits in a ready queue. -/
def waiting (g : Graph) (n : Node) : Bool :=
  n.st == 2 && n.place.isNone && g.live && g.gstate != 4 && !g.ending

/-- The order of ready nodes: priority, then ready CT, then (GID, INDEX). -/
def before (a b : Nat × Nat × Graph × Node) : Bool :=
  let (ga, ia, _, na) := a
  let (gb, ib, _, nb) := b
  if na.prio ≠ nb.prio then decide (nb.prio < na.prio)
  else if na.readyCt ≠ nb.readyCt then decide (na.readyCt < nb.readyCt)
  else decide (ga < gb) || (ga == gb && decide (ia < ib))

/-- The first of a list in that order. -/
def firstOf : List (Nat × Nat × Graph × Node) → Option (Nat × Nat × Graph × Node)
  | [] => none
  | a :: r => match firstOf r with
    | none => some a
    | some b => some (if before b a then b else a)

/-- The node that a partition serves: its reserving head, unless one of higher priority is ready (R60). -/
def headOf (s : State) (pos part : Nat) : Option (Nat × Nat × Graph × Node) :=
  let rs := (allNodes s pos).filter fun (_, _, g, n) => g.part == part && waiting g n
  match sget? (s.eng pos).reserve part with
  | none => firstOf rs
  | some (gid, idx) =>
    match rs.find? fun (a, b, _, _) => a == gid && b == idx with
    | none => firstOf rs
    | some h => match firstOf (rs.filter fun (_, _, _, n) => decide (h.2.2.2.prio < n.prio)) with
      | some t => some t
      | none => some h

/-- The on-chip memories of a core read zero, their sectors written afresh (R56, R335, R67). -/
def zeroCore (s : State) (k : Nat) : State :=
  let lo := winBase k
  { s with mem := s.mem.filter fun x => !(decide (lo ≤ x.1) && decide (x.1 < lo + 0x1000000))
           bad := s.bad.filter fun x => !(decide (lo ≤ x) && decide (x < lo + 0x1000000))
           weak := s.weak.filter fun x => !(decide (lo ≤ x) && decide (x < lo + 0x1000000))
           scrubQ := s.scrubQ.filter fun x => !(decide (lo ≤ x) && decide (x < lo + 0x1000000)) }

/-- A core returns to its state after initialisation: its on-chip memories read zero and its store holds no block (R56, R335,
R67). -/
def reinitCore (s : State) (k : Nat) : State :=
  (zeroCore s k).modCore k fun c =>
    { c with istore := [], objs := [], fbank := [], fDep := 0, peer := [], queues := [], inScan := false }

/-- Zero the vector registers of an allotment (R167, R58). -/
def zeroRegs (s : State) (k vb vn : Nat) : State := s.writeMem (vregAddr k vb) (List.replicate (128 * vn) 0)

/-- Take an allotment on one member core (R59, R215, R335): a scan is aborted, the context gets its registers, the banks their
owner, and a node with hart programs the harts. -/
def takeCore (s : State) (pos gid idx : Nat) (n : Node) (p : Placed) (i : Nat) : State :=
  let c := p.lc + i
  let k := lcKey s pos c
  let s1 := if ((s.chip pos).lc c).cstate = 1 then
      (reinitCore s k).modChip pos fun h => { h with lcmap := sput h.lcmap c { h.lc c with cstate := 0 } }
    else s
  let s2 := zeroRegs s1 k p.vb p.vn
  let s3 := s2.modCtx (k * 4 + p.ctx) fun t => { t with vBase := p.vb, vSize := p.vn, gid := gid, idx := idx, st := .idle }
  let s4 := s3.modCore k fun h =>
    { h with banks := (List.range n.sbanks).foldl (fun m b =>
        sput m (p.bb + b) { sget Bank.reset m (p.bb + b) with owner := some p.ctx, inuse := false }) h.banks }
  if n.harts then
    s4.modCore k fun h =>
      { h with owner := some p.ctx, ownSaved := false, ownerGid := gid, ownerIdx := idx
               queues := if h.ownSaved then h.queues else [] }
  else s4

/-- The placement record (Table 17-3, KIND 7). -/
def placeRec (s : State) (pos gid idx : Nat) (p : Placed) : Rec :=
  { kind := 7, sub := 0, lcore := 0x7F, ctx := 0, agent := 2, a := BitVec.ofNat 64 (gid * 4096 + idx),
    b := BitVec.ofNat 64 (p.vb * 2 ^ 42 + p.bb * 2 ^ 32 + p.tb * 2 ^ 24 + p.ctx * 2 ^ 7 + logicalCore s (lcKey s pos p.lc)) }

/-- Place a node (R59): it holds its allotment, leaves the reservation, and asks for its grant (R10). -/
def placeNode (s : State) (pos gid idx : Nat) (g : Graph) (n : Node) (p : Placed) : State :=
  let s1 := (List.range p.n).foldl (fun s i => takeCore s pos gid idx n p i) s
  let s2 := modNode s1 pos gid idx fun n =>
    { n with place := some { p with granted := false, ct := s.ctOf pos }, tiles := false }
  let s3 := modGe s2 pos fun e =>
    { e with reserve := if sget? e.reserve g.part == some (gid, idx) then sdel e.reserve g.part else e.reserve
             lastPlace := some (s.ctOf pos) }
  logDecision s3 pos g.part (placeRec s pos gid idx p)

/-- A head that does not fit reserves, and chooses its victims once (R60, R61). -/
def reserveHead (s : State) (pos : Nat) (h : Nat × Nat × Graph × Node) : State :=
  let (gid, idx, g, n) := h
  if sget? (s.eng pos).reserve g.part = some (gid, idx) then s
  else choose (modGe s pos fun e => { e with reserve := sput e.reserve g.part (gid, idx) }) pos gid idx g n

/-- In a replay a partition places only as logged (R360): the node of the next placement record, where it is ready and those
resources are free. -/
def replayPlace (s : State) (pos part : Nat) : Option (Nat × Nat × Nat × Graph × Node × Placed) :=
  match nextRec s pos fun w1 a _ => recKind w1 == 7 && partOf? s pos (a / 4096) == some part with
  | none => none
  | some (i, _, a, b) =>
    match s.graph? pos (a / 4096), s.node? pos (a / 4096) (a % 4096) with
    | some g, some n =>
      let lc := bitsOf b 6 0 % 32
      let p : Placed := { lc := lc, ctx := bitsOf b 8 7, vb := bitsOf b 51 42, vn := wantV n, bb := bitsOf b 36 32
                          tb := bitsOf b 29 24, n := n.cores, granted := false, ct := 0 }
      if waiting g n then
        (tryAt s pos lc n.cores g { n with must := some p } (a / 4096, a % 4096) []).map fun q =>
          (i, a / 4096, a % 4096, g, n, q)
      else none
    | _, _ => none

/-- The best of the heads that can be placed. -/
def bestPlace : List ((Nat × Nat × Graph × Node) × Placed × Option Nat) → Option ((Nat × Nat × Graph × Node) × Placed × Option Nat)
  | [] => none
  | a :: r => match bestPlace r with
    | none => some a
    | some b => some (if before b.1 a.1 then b else a)

/-- One turn of the dispatcher (R60). -/
def placeTurn (s : State) (pos : Nat) : State :=
  let due := match (s.eng pos).lastPlace with
    | some t => decide (t + 8 ≤ s.ctOf pos)
    | none => true
  if !due then s
  else
    let parts := (List.range 8).filter fun p => (allNodes s pos).any fun (_, _, g, n) => g.part == p && waiting g n
    let heldOnes := parts.filter (s.chip pos).holds
    let s0 := if heldOnes = [] then s else noteHold s pos
    let logged := (parts.filter (s.chip pos).replays).filterMap fun p =>
      (replayPlace s pos p).map fun (i, gid, idx, g, n, q) => ((gid, idx, g, n), q, some i)
    let heads := (parts.filter fun p => !(s.chip pos).holds p && !(s.chip pos).replays p).filterMap (headOf s pos)
    let can := heads.filterMap fun h => (fit s pos h.1 h.2.1 h.2.2.1 h.2.2.2 []).map fun p => (h, p, (none : Option Nat))
    let s1 := (heads.filter fun h => (fit s pos h.1 h.2.1 h.2.2.1 h.2.2.2 []).isNone).foldl (fun s h => reserveHead s pos h) s0
    match bestPlace (can ++ logged) with
    | none => s1
    | some (h, p, none) => placeNode s1 pos h.1 h.2.1 h.2.2.1 h.2.2.2 p
    | some (h, p, some i) => consumeRec (placeNode s1 pos h.1 h.2.1 h.2.2.1 h.2.2.2 p) pos i

/-- NODE_PLACEMENT (R60): the releases of the cycle are applied first (R59). -/
def execNodePlacement (s : State) : Out :=
  let pos := s.focus.arg.pos
  if noReports s pos then engDone (placeTurn s pos) pos else .next s

/-! ## Current grants (R68, R69) -/

/-- The ISHARE of a partition in half-amperes of the quota, times 64. -/
def ishare64 (s : State) (pos part : Nat) : Nat := (sget Part.reset (s.chip pos).parts part).ishare * (s.eng pos).quota

/-- Requests that wait for a grant. -/
def requests (s : State) (pos : Nat) : List (Nat × Nat × Graph × Node) :=
  (allNodes s pos).filter fun (_, _, _, n) => match n.place with
    | some p => !p.granted
    | none => false

def reqCt (n : Node) : Nat := match n.place with
  | some p => p.ct
  | none => 0

/-- The order of requests (R69). -/
def reqBefore (a b : Nat × Nat × Graph × Node) : Bool :=
  before (a.1, a.2.1, a.2.2.1, { a.2.2.2 with readyCt := reqCt a.2.2.2 })
    (b.1, b.2.1, b.2.2.1, { b.2.2.2 with readyCt := reqCt b.2.2.2 })

/-- Sort requests into their order. -/
def insertReq (a : Nat × Nat × Graph × Node) : List (Nat × Nat × Graph × Node) → List (Nat × Nat × Graph × Node)
  | [] => [a]
  | b :: r => if reqBefore a b then a :: b :: r else b :: insertReq a r

def sortReqs (l : List (Nat × Nat × Graph × Node)) : List (Nat × Nat × Graph × Node) := l.foldl (fun r a => insertReq a r) []

/-- At TSTATE 2 or 3 requests of class 5 to 7 are withheld (R378). -/
def tooHot (s : State) (pos : Nat) (n : Node) : Bool := decide (2 ≤ (s.chip pos).power.tstate) && decide (5 ≤ n.cls)

/-- The class current of a request fits in the free quota. -/
def fitsQuota (s : State) (pos : Nat) (n : Node) : Bool :=
  n.cls == 0 || (!tooHot s pos n && decide (heldAmps s pos (fun _ => true) + n.amps ≤ (s.eng pos).quota))

/-- The request stays within its partition's share with its class added. -/
def withinShare (s : State) (pos : Nat) (g : Graph) (n : Node) : Bool :=
  decide (64 * (heldAmps s pos (fun g2 => g2.part == g.part) + n.amps) ≤ ishare64 s pos g.part)

/-- The request that the client grants next: a class 0 request, the first of the order where it fits, or one that fits within
its share (R69). -/
def nextGrant (s : State) (pos : Nat) : Option (Nat × Nat × Graph × Node) :=
  let rs := (sortReqs (requests s pos)).filter fun (_, _, g, _) => !(s.chip pos).holds g.part
  let ok := fun (gid idx : Nat) (g : Graph) =>
    if (s.chip pos).replays g.part then
      match nextRec s pos fun w1 a _ => recKind w1 == 8 && partOf? s pos (a / 4096) == some g.part with
      | some (_, _, a, _) => a == gid * 4096 + idx
      | none => false
    else true
  let rs1 := rs.filter fun (gid, idx, g, _) => ok gid idx g
  match rs1.find? fun (_, _, _, n) => n.cls == 0 with
  | some r => some r
  | none => match rs1 with
    | [] => none
    | h :: t =>
      if fitsQuota s pos h.2.2.2 then some h
      else t.find? fun (_, _, g, n) => fitsQuota s pos n && withinShare s pos g n

/-- Grant a request (R69, Table 17-3 KIND 8). -/
def grant (s : State) (pos gid idx : Nat) (g : Graph) (n : Node) : State :=
  let lc := match n.place with
    | some p => p.lc
    | none => 0
  let r : Rec := { kind := 8, sub := n.cls, lcore := 0x7F, ctx := 0, agent := 3, a := BitVec.ofNat 64 (gid * 4096 + idx)
                   b := BitVec.ofNat 64 (logicalCore s (lcKey s pos lc)) }
  let s1 := logDecision s pos g.part r
  let s2 := modNode s1 pos gid idx fun n =>
    { n with place := n.place.map fun p => { p with granted := true, ct := s.ctOf pos } }
  if (s.chip pos).replays g.part then
    match nextRec s pos fun w1 a _ => recKind w1 == 8 && a == gid * 4096 + idx with
    | some (i, _, _, _) => consumeRec s2 pos i
    | none => s2
  else s2

/-- CURRENT_GRANT (R69): a release of the same engine cycle is applied first. -/
def execCurrentGrant (s : State) : Out :=
  let pos := s.focus.arg.pos
  if !noReports s pos then .next s
  else
  let stalled := (requests s pos).any fun (_, _, g, _) => (s.chip pos).holds g.part
  let s0 := if stalled then noteHold s pos else s
  match nextGrant s0 pos with
  | some (gid, idx, g, n) => engDone (grant s0 pos gid idx g n) pos
  | none => .next s0

/-- Victims for a shortfall, taken while their class current does not cover it: ascending priority, then youngest grant. -/
def coverShort (need : Nat) : List (Nat × Nat × Graph × Node) → List (Nat × Nat)
  | [] => []
  | (gid, idx, _, n) :: r => if need = 0 then [] else (gid, idx) :: coverShort (need - n.amps) r

/-- The order of victims of a shortfall. -/
def victimBefore (a b : Nat × Nat × Graph × Node) : Bool :=
  let na := a.2.2.2
  let nb := b.2.2.2
  if na.prio ≠ nb.prio then decide (na.prio < nb.prio)
  else if reqCt na ≠ reqCt nb then decide (reqCt nb < reqCt na)
  else decide (a.1 < b.1) || (a.1 == b.1 && decide (a.2.1 < b.2.1))

def insertVictim (a : Nat × Nat × Graph × Node) : List (Nat × Nat × Graph × Node) → List (Nat × Nat × Graph × Node)
  | [] => [a]
  | b :: r => if victimBefore a b then a :: b :: r else b :: insertVictim a r

/-- The victims of a request that has waited 2,000 counts (R69, R321), those ahead of it asking for `ahead` half-amperes. -/
def shortfall (s : State) (pos : Nat) (n : Node) (ahead : Nat) : State :=
  if (poolOf s pos).2 = 0 then s
  else
    let free := (s.eng pos).quota - heldAmps s pos fun _ => true
    let leaving := (allNodes s pos).foldl (fun z (_, _, _, m) => if m.asked.isSome then z + m.amps else z) 0
    let need := ahead + n.amps - free - leaving
    let above := fun g : Graph => decide (ishare64 s pos g.part < 64 * heldAmps s pos fun g2 => g2.part == g.part)
    let cands := (allNodes s pos).filter fun (_, _, g, m) =>
      m.st == 3 && decide (m.prio < n.prio) && m.asked.isNone && above g && (allotRec s pos (recLen m) []).isSome
    let vs := coverShort need (cands.foldl (fun r a => insertVictim a r) [])
    vs.foldl (fun s v => match allotAll s pos [v] [] with
      | some rs => askPreempt (giveRecs s pos rs) pos v.1 v.2
      | none => s) s

/-- The requests that have waited 2,000 counts, in their order; withheld ones choose no victims (R378). -/
def overdue (s : State) (pos : Nat) : List Node :=
  ((sortReqs (requests s pos)).filter fun (_, _, _, n) =>
    n.cls != 0 && decide (reqCt n + 2000 ≤ s.ctOf pos) && !tooHot s pos n).map fun r => r.2.2.2

/-- CURRENT_SHORTFALL (R69): every request that has waited 2,000 counts chooses its victims. -/
def execCurrentShortfall (s : State) : Out :=
  let pos := s.focus.arg.pos
  .next ((overdue s pos).foldl (fun (acc : State × Nat) n => (shortfall acc.1 pos n acc.2, acc.2 + n.amps)) (s, 0)).1

/-- The quota that each chiplet has of the configured budget, in half-amperes (R374). -/
def State.share (s : State) : Nat := match s.conf with
  | some f => f.quota
  | none => 240

/-- What the quotas of the other chiplets take of the budget: a closed chiplet's quota is not given to them (R336). -/
def quotaBeside (s : State) (pos : Nat) : Nat :=
  ((List.range 4).filter (· != pos)).foldl (fun z q => z + (if (s.chip q).br.closed then s.share else (s.eng q).quota)) 0

/-- QUOTA_CHANGE (R68): the quorum sets a quota of `n` half-amperes: at most 140 A, the configured budget over the package (R374), and
a lower one only once the grants held are below it. A closed chiplet has none. -/
def execQuotaChange (s : State) : Out :=
  let a := s.focus.arg
  let held := heldAmps s a.pos fun _ => true
  if !(s.chip a.pos).br.closed ∧ a.n ≤ 280 ∧ quotaBeside s a.pos + a.n ≤ 4 * s.share ∧ ((s.eng a.pos).quota ≤ a.n ∨ held < a.n) then
    .next (modGe s a.pos fun e => { e with quota := a.n })
  else .next s

/-! ## Instruction blocks (R71) -/

/-- The block of an image address. -/
def blockOf (pa : Nat) : Nat := pa / 4096 * 4096

/-- The slot of the instruction store that holds a block, noted as fetched last. -/
def blockSlot (c : CoreSt) (b : Nat) : Option Nat := (c.istore.find? fun (x : Nat × Nat) => x.2 == b).map (·.1)

/-- The blocks at the current PC of the contexts of a core: never evicted. -/
def pcBlocks (s : State) (k : Nat) : List Nat :=
  (List.range 4).filterMap fun x =>
    let c := s.ctx (k * 4 + x)
    if c.st = .idle then none else some (blockOf ((curImage s (k * 4 + x)).1 + 64 * c.pc))

/-- Fill a block: into an unused slot, or the least recently fetched that may go; false where none may. -/
def fillBlock (s : State) (k b : Nat) (keep : List Nat) : State × Bool :=
  let c := s.core k
  if (blockSlot c b).isSome then (s, true)
  else
    let free := (List.range 64).find? fun i => c.istore.all fun (x : Nat × Nat) => x.1 != i
    let slot := match free with
      | some i => some i
      | none => (c.istore.find? fun (x : Nat × Nat) => !(keep.contains x.2)).map (·.1)
    match slot with
    | none => (s, false)
    | some i =>
      let s1 := s.noteRead b 4096
      let s2 := s1.writeMem (winBase k + 0x600000 + 4096 * i) (s1.mem.readBytes b 4096)
      (s2.modCore k fun c => { c with istore := (c.istore.filter fun (x : Nat × Nat) => x.1 != i) ++ [(i, b)] }, true)

/-- Before the first bundle, the dispatcher fills the image's blocks in ascending order, as far as it can free blocks and read
them. -/
def fillImage (s : State) (k : Nat) (n : Node) : State :=
  let b0 := blockOf n.img
  let cnt := (n.img + 64 * n.ilen - 1) / 4096 + 1 - b0 / 4096
  let bs := (List.range cnt).map fun i => b0 + 4096 * i
  let keep := pcBlocks s k ++ bs
  bs.foldl (fun s b => if s.readBad b 4096 then s else (fillBlock s k b keep).1) s

/-- The block that a context waits for. -/
def missingBlock (s : State) (ck : Nat) : Nat := blockOf ((curImage s ck).1 + 64 * (s.ctx ck).pc)

/-- INSTRUCTION_BLOCK_FILL (R71): the missing block is filled and the context becomes ready; of a block that cannot be read the
context is told, and it traps with cause 0x0F before the bundle (Table 16-1, R308). -/
def execInstructionBlockFill (s : State) : Out :=
  let a := s.focus.arg
  let ck := ctxKey a.pos a.core a.ctx
  let k := ckCore ck
  let c := s.ctx ck
  if !c.live then .next s
  else
    let b := missingBlock s ck
    if (blockSlot (s.core k) b).isSome then .next s
    else if s.readBad b 4096 then
      .next ((s.noteRead b 4096).modCtx ck fun c => { c with fillBad := some b, st := if c.st = .blocked then .ready else c.st })
    else
      let s1 := (fillBlock s k b (pcBlocks s k)).1
      .next (s1.modCtx ck fun c => { c with st := if c.st = .blocked then .ready else c.st })

/-! ## The start of a node (R10, R16, R64, R230) -/

/-- Load one hart's stores and start it (R230). A program or data image that cannot be read fails the node. -/
def startHart (s : State) (k : Nat) (n : Node) (node : Nat) (storer : Bool) : State × Bool :=
  let ist := winBase k + (if storer then 0x650000 else 0x640000)
  let dat := winBase k + (if storer then 0x658000 else 0x648000)
  let put := fun (s : State) (h : Hart) => s.modCore k fun c => if storer then { c with storer := h } else { c with loader := h }
  if n.hlen storer = 0 then (put s { Hart.reset with finished := true }, true)
  else if s.readBad (n.himg storer) (4 * n.hlen storer) ∨ s.readBad (n.dimg storer) (n.dlen storer) then (put s Hart.reset, false)
  else
    let s1 := (s.noteRead (n.himg storer) (4 * n.hlen storer)).noteRead (n.dimg storer) (n.dlen storer)
    let s2 := s1.writeMem ist (s1.mem.readBytes (n.himg storer) (4 * n.hlen storer))
    let s3 := s2.writeMem dat (s2.mem.readBytes (n.dimg storer) (n.dlen storer) ++ List.replicate (8192 - n.dlen storer) 0)
    let r := fun (m : SMap W32) (i v : Nat) => sput m i (BitVec.ofNat 32 v)
    let regs := r (r (r [] 10 (n.pblk % 2 ^ 32)) 11 (n.pblk / 2 ^ 32)) 12 node
    (put s3 { Hart.reset with running := true, regs := regs }, true)

/-- The load address of the most recently sealed resident image of a partition (Table 15-2). -/
def resBaseOf (s : State) (part : Nat) : Nat :=
  match newestImage (s.images.filter fun i => i.kind == 2 && i.part == part) with
  | some i => i.base
  | none => 0

/-- The context of member `i` at its first bundle (R16, R64, Table 8-7); DBGCTL is the context's own (R325). -/
def freshCtx (s : State) (pos gid idx : Nat) (g : Graph) (n : Node) (p : Placed) (i : Nat) : Ctx :=
  let lead := logicalCore s (lcKey s pos p.lc)
  let args := (List.range 6).foldl (fun m j => sput m (258 + j) (n.p j)) (sput [] 257 (BitVec.ofNat 64 n.pblk))
  let d := s.ctx (lcKey s pos (p.lc + i) * 4 + p.ctx)
  { Ctx.reset with
    dbgStep := d.dbgStep, dbgDrain := d.dbgDrain, dbgStepped := d.dbgStepped
    st := .ready, pc := n.entry, imgBase := n.img, imgLen := n.ilen, node := BitVec.ofNat 64 (gid * 4096 + idx)
    part := g.part, cls := n.cls, gid := gid, idx := idx
    memb := if p.n = 1 then 0 else BitVec.ofNat 64 i
    cons := if p.n = 1 then 0 else BitVec.ofNat 64 (n.csize * 128 + lead)
    vBase := p.vb, vSize := p.vn, bBase := p.bb, bCount := n.sbanks, tBase := p.tb, tCount := n.atiles
    fdepth := n.fdepth, pbound := n.pbound, sregs := args, npdef := BitVec.ofNat 6 n.npdef, dom := BitVec.ofNat 3 n.dom
    rowprog := if n.rvalid then BitVec.ofNat 64 n.rrow else 0
    tvec := BitVec.ofNat 64 (resBaseOf s g.part) &&& 0x3FFFFFFFFFC0 }

/-- The consort of a placement on a member core. -/
def joinConsort (s : State) (pos : Nat) (p : Placed) (k : Nat) : State :=
  if p.n = 1 then s
  else s.modCore k fun c =>
    { c with consort := some { members := placeCtxs s pos p, fed := [], sizes := List.replicate p.n p.vn } }

/-- Start a node on its members (R10): frame memory down to FDEPTH is zero (R31), blocks are filled, the harts start. It runs once its
lead has issued its first bundle (R64). -/
def startNode (s : State) (pos gid idx : Nat) (g : Graph) (n : Node) (p : Placed) : State :=
  let (s1, ok) := (List.range p.n).foldl (fun (acc : State × Bool) i =>
    let s := acc.1
    let k := lcKey s pos (p.lc + i)
    let ck := k * 4 + p.ctx
    let s2 := s.setCtx ck (freshCtx s pos gid idx g n p i)
    let s3 := s2.writeMem (winBase k + 0x580000 + 0x10000 * p.ctx) (List.replicate ((n.fdepth + 1) * 1024) 0)
    let s4 := joinConsort (fillImage s3 k n) pos p k
    if n.harts then
      let (s5, a) := startHart s4 k n (gid * 4096 + idx) false
      let (s6, b) := startHart s5 k n (gid * 4096 + idx) true
      (s6, acc.2 && a && b)
    else (s4, acc.2)) (s, true)
  if ok then s1 else failCtx s1 ((placeCtxs s pos p).headD 0) 0x0F 0

/-- The contexts of a placed node have not been started, and no report of their end waits. -/
def notStarted (s : State) (pos gid idx : Nat) (p : Placed) : Bool :=
  (placeCtxs s pos p).all (fun ck => (s.ctx ck).st == .idle)
    && (s.chip pos).reports.all (fun r => !(r.gid == gid && r.idx == idx))
    && (s.eng pos).walkQ.all fun q => match q with
      | .report r => !(r.gid == gid && r.idx == idx)
      | .cancel _ _ _ _ => true

/-- The node that an event names, where it is ready with a granted allotment and has not been started there. -/
def grantedNode (s : State) : Option (Nat × Nat × Nat × Graph × Node × Placed) :=
  let a := s.focus.arg
  match s.graph? a.pos a.gid, s.node? a.pos a.gid a.idx with
  | some g, some n =>
    match n.place with
    | some p =>
      if n.dispatched && g.gstate != 4 && !g.ending && notStarted s a.pos a.gid a.idx p then some (a.pos, a.gid, a.idx, g, n, p)
      else none
    | none => none
  | _, _ => none

def isSaved (n : Node) : Bool := match n.rec? with
  | some r => r.ctxs != []
  | none => false

/-- NODE_START (R10). -/
def execNodeStart (s : State) : Out :=
  match grantedNode s with
  | some (pos, gid, idx, g, n, p) => if isSaved n then .next s else engDone (startNode s pos gid idx g n p) pos
  | none => .next s

/-! ## Saving (R322, R324) -/

/-- Everything that a draining context and its harts have started has finished; the copies of its harts have landed. -/
def drained (s : State) (ck : Nat) : Bool :=
  let c := s.ctx ck
  let k := s.core (ckCore ck)
  let x := ckCtx ck
  let own := k.owner == some x
  c.queuesEmpty && c.outst.isEmpty && c.inflight.isEmpty && c.late.isEmpty && c.async.isEmpty
    && k.copies.all (fun o => !(o.ctx == x && (o.hart.isNone || own))) && k.engine.all (fun o => o.ctx != x)
    && (s.posts.all fun p => p.src != ck || p.after.isEmpty) && (s.objMsgs.all fun m => m.ck != ck)

/-- Bytes of a list of words. -/
def saveWords (ws : List W64) : List Byte := wordsBytes ws

/-- The special registers at 0x0040 of the record, in order. -/
def savedSrs (c : Ctx) (slack : W64) (fret : W64) : List W64 :=
  let n := fun x : Nat => BitVec.ofNat 64 x
  let ui := BitVec.ofNat 64 (bit01 c.ui.en * 2 ^ 49 + bit01 c.ui.inh * 2 ^ 48 + c.ui.pend % 256 * 2 ^ 40 + c.ui.vec.toNat)
  [c.flags.setWidth 64, c.npdef.setWidth 64, c.dom.setWidth 64, slack, c.rowprog, fret, ui, c.ui.pc.setWidth 64,
   n (c.vBase * 2 ^ 16 + c.vSize), n (c.wp % 256), n (c.wdepth % 64), c.tvec, c.tsave, n c.tl, c.trap1.cause, c.trap2.cause,
   c.trap1.ret, c.trap2.ret, c.trap1.val, c.trap2.val, c.trap1.mask, c.trap2.mask]

/-- The link stack: entry d holds the index in bits 31 to 0 and the window advance above it (R322; log entry 67). -/
def savedLinks (c : Ctx) : List Byte :=
  (List.range 64).flatMap fun d => let e := sget (0, 0) c.link (d + 1); leBytes 8 (e.2 % 8 * 2 ^ 32 + e.1 % 2 ^ 32)

/-- One level of the loop sequencer: trip count, iteration, first bundle and length of the body, the registers and the addends of its
stride registrations (R322; log entry 67). -/
def savedLoop (l : Loop) : List Byte :=
  let st := fun i => l.strides[i]?.getD (0, 0)
  leBytes 4 l.trip ++ leBytes 4 l.iter ++ leBytes 4 (l.loopPc + 1) ++ leBytes 2 (l.last - l.loopPc)
    ++ leBytes 6 ((List.range 8).foldl (fun z i => z + (st i).1 % 64 * 2 ^ (6 * i)) 0)
    ++ (List.range 8).flatMap fun i => leBytes 8 (st i).2.toNat

/-- The loop sequencer: its levels, then the resume count of R121. -/
def savedLoops (c : Ctx) : List Byte :=
  ((List.range 6).flatMap fun i => match c.loops[i]? with
    | some l => savedLoop l
    | none => List.replicate 84 0) ++ leBytes 4 ((c.resume.map (·.count)).getD 0)

/-- A shape register: its levels as in Table 11-13, then FMT and ROA (R322; log entry 67). -/
def savedShape (h : Shape) : List Byte :=
  ((List.range 6).flatMap fun i =>
    leBytes 4 (h.count[i]?.getD 0) ++ leBytes 4 0 ++ leBytes 4 (ofSigned 32 (h.sstr[i]?.getD 0)) ++ leBytes 4 (ofSigned 32 (h.dstr[i]?.getD 0)))
    ++ leBytes 8 h.fmt.toNat ++ leBytes 8 h.roa ++ List.replicate 16 0

/-- The fixed part of the record (Table 15-6), by offset. -/
def fixedPart (s : State) (ck : Nat) (fheld : Bool) : List (Nat × List Byte) :=
  let c := s.ctx ck
  let n := fun x : Nat => BitVec.ofNat 64 x
  let slack := n (c.peak % 32 * 2 ^ 16 + c.slip % 32 * 2 ^ 8 + c.budget % 32)
  let pk := (List.range 4).foldl (fun m i => if (sget Parked.reset c.parked i).parked then m + 2 ^ i else m) 0
  let fret := n (pk * 2 ^ 19 + c.fPair % 4 * 2 ^ 16 + c.fDepth % 2 ^ 15)
  let tok := fun i => BitVec.ofNat 8 ((c.tok (i + 1)).fire % 16 + 16 * bit01 (c.tok (i + 1)).pend)
  let sr := fun i => sget 0 c.sregs i
  [(0, saveWords [n (0x4C4A4358 * 2 ^ 32 + c.pc % 2 ^ 32), c.node, n (s.ctOf (ckPos ck)),
      n (bit01 (!c.compPhase) + 2 * bit01 c.arrived + 4 * bit01 fheld)]),
   (0x40, saveWords (savedSrs c slack fret)),
   (0x100, (List.range 63).map tok),
   (0x200, saveWords ((List.range 15).map (fun i => sr (257 + i)) ++ (List.range 24).map fun i => sr (272 + i))),
   (0x400, saveWords ((List.range 256).map sr)),
   (0xC00, savedLinks c), (0xE00, savedLoops c),
   (0x1200, (List.range 16).flatMap fun i => savedShape (sget Shape.reset c.shapes i)),
   (0x1000, (List.range 16).flatMap (fun i => leBytes 16 ((c.mstack.reverse[i]?.getD 0).toNat)) ++ leBytes 8 c.mstack.length),
   (0x1110, (List.range 7).flatMap fun i => leBytes 16 (c.m (i + 1)).toNat),
   (0x1A00, (List.range 16).flatMap fun i => leBytes 32 (sget 0 c.descs i).toNat),
   (0x1C00, List.replicate 0x400 0)]

/-- The variable parts of a record that starts at `a`: source address and length of frame memory, registers, tiles and banks,
with the address of each in the record, and the address of F. -/
def varParts (ck : Nat) (c : Ctx) (a : Nat) (fheld : Bool) : List (Nat × Nat × Nat) × Nat :=
  let k := ckCore ck
  let up := fun x => (x + 0xFFF) / 0x1000 * 0x1000
  let f0 := a + 0x2000
  let fl := (c.fdepth + 1) * 1024
  let v0 := f0 + up fl
  let x0 := v0 + up (128 * c.vSize)
  let t0 := x0 + (if fheld then 0x40000 else 0)
  let b0 := t0 + c.tCount * 0x4000
  ([(winBase k + 0x580000 + 0x10000 * ckCtx ck, fl, f0), (vregAddr k c.vBase, 128 * c.vSize, v0),
    (tileAddr k c.tBase, c.tCount * 0x4000, t0), (winBase k + c.bBase * 0x20000, c.bCount * 0x20000, b0)], x0)

/-- Copy bytes of memory. -/
def moveBytes (s : State) (src n dst : Nat) : State := s.writeMem dst (s.mem.readBytes src n)

/-- Write the record of one context at `a`. -/
def writeRecord (s : State) (ck a : Nat) (fheld : Bool) : State :=
  let c := s.ctx ck
  let s1 := (fixedPart s ck fheld).foldl (fun s (o, bs) => s.writeMem (a + o) bs) s
  let (ps, fa) := varParts ck c a fheld
  let s2 := ps.foldl (fun s (src, n, dst) => moveBytes s src n dst) s1
  if fheld then s2.writeMem fa (bankBytes (s.core (ckCore ck)).fbank) else s2

/-- What a save of a context reads, and what it writes in its record at `a`: addresses and lengths (R327, R328). -/
def saveSpans (s : State) (ck a : Nat) (fheld : Bool) : List (Nat × Nat) × List (Nat × Nat) :=
  let (ps, fa) := varParts ck (s.ctx ck) a fheld
  let fr := fun x : Nat => if fheld then [(x, 0x40000)] else []
  ((scalarSector ck 0, 0x940) :: ps.map (fun x => (x.1, x.2.1)) ++ fr (fretBase (ckCore ck)),
   (fixedPart s ck fheld).map (fun x => (a + x.1, x.2.length)) ++ ps.map (fun x => (x.2.2, x.2.1)) ++ fr fa)

/-- Note what a save or a restore reads and writes. -/
def noteSpans (s : State) (rw : List (Nat × Nat) × List (Nat × Nat)) : State :=
  rw.2.foldl (fun s x => s.noteRefused x.1 x.2) (rw.1.foldl (fun s x => s.noteRead x.1 x.2) s)

/-- A save or a restore meets an uncorrectable sector (R327, R328). -/
def spansBad (s : State) (rw : List (Nat × Nat) × List (Nat × Nat)) : Bool :=
  (rw.1.any fun x => s.readBad x.1 x.2) || rw.2.any fun x => s.writeBad x.1 x.2

/-- The registered objects homed in a context's banks, but for those that another save has frozen (R324). -/
def bankObjs (s : State) (ck : Nat) : List Obj :=
  let k := s.core (ckCore ck)
  k.objs.filter fun o => !o.frozen && (sget Bank.reset k.banks (o.addr % 2 ^ 24 / 0x20000)).owner == some (ckCtx ck)

/-- The banks that a context holds. -/
def heldBanks (s : State) (ck : Nat) : List Nat :=
  (List.range 32).filter fun b =>
    let v := sget Bank.reset (s.core (ckCore ck)).banks b
    v.owner == some (ckCtx ck) && v.inuse

/-- Save one context at `a`, freeze its objects and pause its harts (R322, R324). -/
def saveCtx (s : State) (ck a : Nat) : State × Ctx × List Obj × Bool :=
  let k := ckCore ck
  let x := ckCtx ck
  let fheld := (s.core k).fOwner == some x && decide (0 < (s.core k).fDep)
  let objs := bankObjs s ck
  let s1 := writeRecord s ck a fheld
  let s2 := s1.modCore k fun h =>
    { h with objs := h.objs.map fun o => if objs.any (fun q => q.addr == o.addr) then { o with frozen := true } else o
             ownSaved := h.ownSaved || h.owner == some x
             loader := if h.owner == some x then { h.loader with paused := true } else h.loader
             storer := if h.owner == some x then { h.storer with paused := true } else h.storer
             owner := if h.owner == some x then none else h.owner }
  (s2, s.ctx ck, objs, fheld)

/-- The node's context has reached its pre-emption point: log that it came late (R61). -/
def lateSlip (s : State) (pos gid idx ck : Nat) : State :=
  match s.node? pos gid idx with
  | none => s
  | some n => match n.asked with
    | some t =>
      let d := s.now ck - t
      if n.pbound < d then
        slip s pos 4 (some gid) 2 (BitVec.ofNat 64 (gid * 4096 + idx)) (BitVec.ofNat 64 (d - n.pbound))
      else s
    | none => s

/-- What the turn of a context has brought its node to, from the context before: its lead has issued the first bundle, and the node
runs (R10, R64); or the lead has reached the pre-emption point (R61). -/
def afterTurn (s : State) (ck : Nat) (c0 : Ctx) : State :=
  let c := s.ctx ck
  let pos := ckPos ck
  let s1 :=
    if c.bundleNo ≠ c0.bundleNo ∧ c.gid = c0.gid ∧ c.idx = c0.idx ∧ (s.node? pos c.gid c.idx).any (·.dispatched) then
      settleDead (markRunning s pos c.gid c.idx (logicalCore s (ckCore ck)) (ckCtx ck)) pos
    else s
  if c0.st ≠ .draining ∧ c.st = .draining then lateSlip s1 pos c.gid c.idx ck else s1

/-- The saved contexts of a placement with their records: of member `i` at `a` + `i` parts of the record. -/
def recParts (s : State) (pos : Nat) (p : Placed) (r : SaveRec) : List (Nat × Nat) :=
  let per := r.len / Nat.max 1 p.n / 0x1000 * 0x1000
  (placeCtxs s pos p).zipIdx.map fun (ck, i) => (ck, r.addr + i * per)

/-- The saved node returns to ready at its earlier ready CT; its place must be the same again (R59, R62). -/
def saveNode (s : State) (pos gid idx : Nat) (p : Placed) (r : SaveRec) : State :=
  let cks := placeCtxs s pos p
  let (s1, cs, os, fs) := (recParts s pos p r).foldl (fun (acc : State × List Ctx × List (List Obj) × List Bool) (ck, a) =>
    let (s2, c, o, f) := saveCtx acc.1 ck a
    (s2, acc.2.1 ++ [c], acc.2.2.1 ++ [o], acc.2.2.2 ++ [f])) (s, [], [], [])
  let vn := (s.ctx (cks.headD 0)).vSize
  let s2 := freePlace s1 pos gid idx
  modNode s2 pos gid idx fun n =>
    { n with st := 2, must := some { p with vn := vn }, rec? := some { r with ctxs := cs, objs := os, fheld := fs, held := cks.map (heldBanks s) } }

/-- A context holds F (R257). -/
def holdsF (s : State) (ck : Nat) : Bool :=
  (s.core (ckCore ck)).fOwner == some (ckCtx ck) && decide (0 < (s.core (ckCore ck)).fDep)

/-- Save a node in its record; one whose save meets an uncorrectable sector is killed with FCAUSE 0x0F (log entry 122). -/
def saveInto (s : State) (pos gid idx : Nat) (p : Placed) (r : SaveRec) : State :=
  let spans := (recParts s pos p r).map fun (ck, a) => saveSpans s ck a (holdsF s ck)
  let s1 := spans.foldl noteSpans s
  let ck := (placeCtxs s pos p).headD 0
  if spans.any (spansBad s) then failCtx s1 ck 0x0F (s1.ctx ck).rowprog else saveNode s1 pos gid idx p r

/-- CONTEXT_SAVE (R322, R24): the context has drained at its point. A cone node of the walk becomes cancelled; any other is saved,
and one without a record is killed (R321). -/
def execContextSave (s : State) : Out :=
  let a := s.focus.arg
  match s.node? a.pos a.gid a.idx with
  | none => .next s
  | some n =>
    match n.place with
    | none => .next s
    | some p =>
      let cks := placeCtxs s a.pos p
      if !(n.st == 3 && cks.all fun ck => (s.ctx ck).st == .draining && drained s ck) then .next s
      else
        match (s.eng a.pos).walk with
        | some w =>
          if inWalk s a.pos a.gid a.idx then engDone (cancelNode s a.pos w a.idx true) a.pos
          else save s a.pos a.gid a.idx n p (cks.headD 0)
        | none => save s a.pos a.gid a.idx n p (cks.headD 0)
where
  save (s : State) (pos gid idx : Nat) (n : Node) (p : Placed) (ck : Nat) : Out :=
    match n.rec? with
    | some r => engDone (saveInto s pos gid idx p r) pos
    | none =>
      match allotRec s pos (recLen n) [] with
      | some a => engDone (saveInto s pos gid idx p { addr := a, len := recLen n, ctxs := [], objs := [], fheld := [], held := [] }) pos
      | none => engDone (failCtx s ck 0x0F (s.ctx ck).rowprog) pos

/-! ## Restoring (R323) -/

/-- Restore one context from its record at `a`; it holds the banks that it held (log entry 16), and DBGCTL is its own (R325). -/
def restoreCtx (s : State) (ck a : Nat) (c : Ctx) (objs : List Obj) (fheld : Bool) (held : List Nat) : State :=
  let k := ckCore ck
  let x := ckCtx ck
  let (ps, fa) := varParts ck c a fheld
  let s1 := ps.foldl (fun s (dst, n, src) => moveBytes s src n dst) s
  let d := s.ctx ck
  let s2 := s1.setCtx ck
    { c with st := .ready, preempt := none, closing := false, async := [], fetched := none, fillBad := none, trapDue := none
             objReq := none, dbgStep := d.dbgStep, dbgDrain := d.dbgDrain, dbgStepped := d.dbgStepped }
  let mine := objs.map fun o => { o with addr := winBase k + o.addr % 2 ^ 24, frozen := false }
  let s3 := s2.modCore k fun h =>
    { h with objs := (h.objs.filter fun o => !(o.frozen && mine.any (fun q => q.addr == o.addr))) ++ mine
             banks := held.foldl (fun m b => sput m b { sget Bank.reset m b with inuse := true }) h.banks
             loader := if h.owner == some x then { h.loader with paused := false } else h.loader
             storer := if h.owner == some x then { h.storer with paused := false } else h.storer }
  if fheld then
    let bank := bankOfBytes s3 fa
    s3.modCore k fun h => { h with fbank := bank, fDep := c.fDepth, fOwner := some x }
  else s3

/-- What a restore of a context reads and writes: its record, and its resources. -/
def restoreSpans (ck a : Nat) (c : Ctx) (fheld : Bool) : List (Nat × Nat) × List (Nat × Nat) :=
  let (ps, fa) := varParts ck c a fheld
  ((a, 0x2000) :: ps.map (fun x => (x.2.2, x.2.1)) ++ (if fheld then [(fa, 0x40000)] else []), ps.map fun x => (x.1, x.2.1))

/-- CONTEXT_RESTORE (R323): a placed and granted node with a record resumes, once F is free where it held F; it runs once its lead has
issued. One whose record cannot be read is killed with FCAUSE 0x0F (log entry 122). -/
def execContextRestore (s : State) : Out :=
  match grantedNode s with
  | none => .next s
  | some (pos, gid, idx, _, n, p) =>
    match n.rec? with
    | none => .next s
    | some r =>
      let cks := placeCtxs s pos p
      let fFree := (cks.zip r.fheld).all fun (ck, f) => !f || (s.core (ckCore ck)).fOwner.isNone
      if r.ctxs = [] ∨ !fFree then .next s
      else
        let ms := (recParts s pos p r).zip (r.ctxs.zip (r.objs.zip (r.fheld.zip r.held)))
        let spans := ms.map fun ((ck, a), c, _, f, _) => restoreSpans ck a c f
        let s1 := spans.foldl noteSpans s
        if spans.any (spansBad s) then
          let rp := ((r.ctxs.head?).map (·.rowprog)).getD 0
          .next (s1.modChip pos fun h => { h with reports := h.reports ++
            [{ gid := gid, idx := idx, cause := 0x0F, rrow := rp, rvalid := rp.getLsbD 31 }] })
        else
          let s2 := ms.foldl (fun s ((ck, a), c, o, f, b) => joinConsort (restoreCtx s ck a c o f b) pos p (ckCore ck)) s1
          engDone (modNode s2 pos gid idx fun n => { n with rec? := none }) pos

/-! ## Spares (R56, R333) -/

/-- Change an entry of LCMAP. -/
def modLc (s : State) (pos c : Nat) (f : LcEnt → LcEnt) : State :=
  s.modChip pos fun h => { h with lcmap := sput h.lcmap c (f (h.lc c)) }

/-- Nodes with an allotment on a logical core. -/
def nodesOn (s : State) (pos c : Nat) : List (Nat × Nat × Graph × Node) :=
  (allNodes s pos).filter fun (_, _, _, n) => match n.place with
    | some p => decide (p.lc ≤ c) && decide (c < p.lc + p.n)
    | none => false

/-- In a quarantine a saved node that still owns the harts of physical core `k` is killed with FCAUSE 0x0E, because they cannot move
(R333, R215): it passes through running to failed (log entry 112). -/
def killSaved (s : State) (pos k : Nat) : State :=
  let c := s.core (coreKey pos k)
  if !c.ownSaved then s
  else match s.node? pos c.ownerGid c.ownerIdx with
    | none => s
    | some n =>
      let rp := ((n.rec?.bind fun r => r.ctxs.head?).map (·.rowprog)).getD 0
      (modNode s pos c.ownerGid c.ownerIdx fun n => { n with st := 3 }).modChip pos fun h =>
        { h with reports := h.reports ++
            [{ gid := c.ownerGid, idx := c.ownerIdx, cause := 0x0E, rrow := rp, rvalid := rp.getLsbD 31 }] }

/-- Steps 1 and 2 of a substitution (R56, R321, R333): nothing more is placed; a running node is pre-empted, or killed where it
cannot be saved or, in a quarantine, has hart programs; a node that has not started gives its allotment back. -/
def beginSubst (s : State) (pos c : Nat) (quarantine : Bool) : State :=
  let s1 := modLc s pos c fun e => { e with cstate := 2 }
  let s2 := if quarantine then killSaved s1 pos ((s.chip pos).lc c).pcore else s1
  (nodesOn s2 pos c).foldl (fun s (gid, idx, _, n0) =>
    match n0.place with
    | none => s
    | some p =>
      let s := if (placeCtxs s pos p).any fun ck => (s.ctx ck).st != .idle then runFirst s pos gid idx else s
      let n := (s.node? pos gid idx).getD n0
      if n.st ≠ 3 then freePlace s pos gid idx
      else if n.asked.isSome ∧ !(quarantine ∧ n.harts) then s
      else
        let ck := (placeCtxs s pos p).headD 0
        let cause := if quarantine then 0x0E else 0x0F
        if quarantine ∧ n.harts then killCtx s ck cause
        else match allotAll s pos [(gid, idx)] [] with
          | some rs => askPreempt (giveRecs s pos rs) pos gid idx
          | none => killCtx s ck cause) s2

/-- A spare: the lowest unretired physical core that no entry in service maps. A scan of it ends with the substitution. -/
def spareOf (s : State) (pos : Nat) : Option Nat :=
  let c := s.chip pos
  (List.range 34).find? fun k => !bitOf c.br.retired k && allTo 32 (fun n => !((c.lc n).pcore == k))

/-- An address of a core's window, in another core's. -/
def rebase (k a : Nat) : Nat := winBase k + a % 2 ^ 24

/-- What a core keeps for a saved node goes to the spare: its harts with their registers and its queues (R215; log entry 69), its frozen
objects and what waits for them (R324). -/
def inherit (o h : CoreSt) (k ct : Nat) : CoreSt :=
  { CoreSt.reset with
    cycle := h.cycle, idleSince := ct, lastScan := h.lastScan, ownSaved := o.ownSaved, ownerGid := o.ownerGid
    ownerIdx := o.ownerIdx, loader := o.loader, storer := o.storer, queues := if o.ownSaved then o.queues else []
    objs := (o.objs.filter (·.frozen)).map fun x => { x with addr := rebase k x.addr }
    waitObjs := o.waitObjs.map fun m => { m with addr := rebase k m.addr }
    reqs := o.reqs.map fun m => { m with addr := rebase k m.addr } }

/-- Steps 3 and 4 (R56): VALID is cleared and the new core written, the old core is retired. With no spare left the logical core leaves
service. The scores and TRIP return to zero (R332). -/
def unmapCore (s : State) (pos c : Nat) : State :=
  let old := ((s.chip pos).lc c).pcore
  let ko := coreKey pos old
  let s1 := modBr s pos fun b => { b with retired := b.retired ||| 2 ^ old }
  match spareOf s1 pos with
  | none => modLc s1 pos c fun e => { e with cstate := 3, valid := false }
  | some k =>
    let kn := coreKey pos k
    let s2 := s1.modCore kn fun h => inherit (s1.core ko) h kn (s.ctOf pos)
    let s3 := (reinitCore s2 ko).modCore ko fun h => { CoreSt.reset with cycle := h.cycle, lastScan := h.lastScan }
    modLc s3 pos c fun e => { e with valid := false, pcore := k }

/-- Steps 5 and 6 (R56): the spare's memories read zero, and it takes the logical core's place. -/
def mapSpare (s : State) (pos c : Nat) : State :=
  modLc (zeroCore s (coreKey pos ((s.chip pos).lc c).pcore)) pos c fun e => { e with valid := true, cstate := 0 }

/-- Steps 3 to 6, of which 5 and 6 follow in a step of their own. -/
def endSubst (s : State) (pos c : Nat) : State :=
  if ((s.chip pos).lc c).valid then unmapCore s pos c else mapSpare s pos c

/-- SPARE_SUBSTITUTION (R56): the Bridge begins one, or, once no node holds the core, takes its next steps. -/
def execSpareSubstitution (s : State) : Out :=
  let a := s.focus.arg
  let e := (s.chip a.pos).lc a.idx
  if 32 ≤ a.idx ∨ e.cstate = 3 then .next s
  else if e.cstate ≠ 2 then engDone (beginSubst s a.pos a.idx false) a.pos
  else if nodesOn s a.pos a.idx = [] then engDone (endSubst s a.pos a.idx) a.pos
  else .next s

/-- QUARANTINE (R333): a core with a TRIP bit. -/
def execQuarantine (s : State) : Out :=
  let a := s.focus.arg
  let e := (s.chip a.pos).lc a.idx
  if 32 ≤ a.idx ∨ !e.valid ∨ e.cstate = 2 ∨ (s.core (coreKey a.pos e.pcore)).trip = 0 then .next s
  else engDone (beginSubst s a.pos a.idx true) a.pos

/-! ## Partition reset (R67) -/

/-- The copies and M operations of a partition on a chiplet, by core and identity. -/
def partOps (s : State) (p pos : Nat) : List (Nat × Nat) :=
  (List.range 34).flatMap fun i =>
    let k := coreKey pos i
    let c := s.core k
    (c.copies.filter fun o => o.part == p).map (fun o => (k, o.id)) ++ (c.engine.filter fun o => o.part == p).map fun o => (k, o.id)

/-- A message of an operation that a reset ends: it lands nothing (R67). -/
def ZOp.void : ZOp → ZOp
  | .write pa _ node copy => .write pa [] node copy
  | .lx pa _ ef _ _ node keep => .lx pa [] ef false none node keep
  | .peer ck id b pa cidx part isInt _ => .peer ck id b pa cidx part isInt []
  | .read pa n t => .read pa n t
  | .resp t bs ok => .resp t bs ok
  | .amo pa op n x e node => .amo pa op n x e node
  | .token g i k w => .token g i k w
  | .cancel g i w r => .cancel g i w r
  | .post x => .post x
  | .obj m => .obj m
  | .refuse m c => .refuse m c
  | .peerRes ck id c fl => .peerRes ck id c fl
  | .mirror pa bs => .mirror pa bs

/-- A message belongs to one of some operations. -/
def Tag.isOf (ops : List (Nat × Nat)) : Tag → Bool
  | .copy k id _ => ops.contains (k, id)
  | .eng k id _ => ops.contains (k, id)
  | .acc _ _ _ => false
  | .mir _ _ _ => false
  | .none => false

/-- The messages of some operations of chiplet `pos` land nothing any more (R67 step 3): those that wait do not leave, those sent carry no
bytes. -/
def voidMsgs (s : State) (pos : Nat) (ops : List (Nat × Nat)) : State :=
  s.modChip pos fun c =>
    { c with tx := c.tx.map fun (i, t) =>
        let seqs := (t.unacked.filter fun m => m.tag.isOf ops).map (·.seq)
        (i, { t with unacked := t.unacked.map fun m => if m.tag.isOf ops then { m with op := m.op.void } else m
                     wire := t.wire.map fun w => if seqs.contains w.seq then { w with op := w.op.void } else w
                     wait := t.wait.filter fun x => !x.2.isOf ops }) }

/-- Reset a partition on one chiplet. -/
def resetPartOn (s : State) (p pos : Nat) : State :=
  let s1 := voidMsgs (modGe s pos fun e => { e with portOwn := e.portOwn.filter fun x => x.2 != p }) pos (partOps s p pos)
  let gids := (s1.eng pos).graphs.filterMap fun (gid, g) => if g.part == p then some gid else none
  let s2 := gids.foldl (fun s gid => stopGraph s pos gid) s1
  let s3 := (List.range 32).foldl (fun s c =>
    let e := (s.chip pos).lc c
    if e.owned ∧ e.part = p ∧ e.valid then reinitCore s (coreKey pos e.pcore) else s) s2
  (List.range 34).foldl (fun s k => s.modCore (coreKey pos k) fun h =>
    { h with tlb := h.tlb.filter fun t => t.part != p
             ctlb := h.ctlb.filter fun t => t.part != p
             atlb := h.atlb.filter fun t => t.part != p
             btlb := h.btlb.filter fun t => t.part != p }) s3

/-- Reset partition `p` in every chiplet. -/
def resetPart (s : State) (p : Nat) : State := (List.range 4).foldl (fun s pos => resetPartOn s p pos) s

/-- Take the first waiting write of a control register that satisfies a test out of a chiplet's list. -/
def takeCtl (s : State) (pos : Nat) (p : CtlWrite → Bool) : Option (CtlWrite × State) :=
  let q := (s.chip pos).ctlQ
  match q.findIdx? p with
  | some i => match q[i]? with
    | some w => some (w, s.modChip pos fun c => { c with ctlQ := ldel c.ctlQ i })
    | none => none
  | none => none

/-- PARTITION_RESET (R67): a write of 1 to bit n of PRST; `flag` takes up a write that a resident context made. -/
def execPartitionReset (s : State) : Out :=
  let a := s.focus.arg
  if a.flag then
    match takeCtl s a.pos fun w => w.off == 0x1801000 with
    | some (w, s1) => .next ((setBitsOf 8 w.v).foldl resetPart s1)
    | none => .next s
  else if a.n < 8 then .next (resetPart s a.n) else .next s

end Sys2Proof.Machine
end

