-- ==== Sys2Proof/Machine/Scalar.lean ====
section
/-!
DEFINITION. Scalar arithmetic: the RRR and RI operations of the S slot, and SMIR (R147 to R152).
-/
namespace Sys2Proof.Machine
open Sys2Proof

/-- A condition as a word. -/
def flagW (w : Nat) (b : Bool) : BitVec w := if b then 1 else 0

/-- Set bits among the low `w`. -/
def popCount : Nat → Nat → Nat
  | 0, _ => 0
  | w + 1, n => n % 2 + popCount w (n / 2)

/-- Zero bits below the lowest set one among the low `w`; `w` where there is none. -/
def trailZeros : Nat → Nat → Nat
  | 0, _ => 0
  | w + 1, n => if n % 2 = 1 then 0 else 1 + trailZeros w (n / 2)

/-- Zero bits above the highest set one among the low `w`. -/
def leadZeros : Nat → Nat → Nat
  | 0, _ => 0
  | w + 1, n => if n.testBit w then 0 else 1 + leadZeros w n

/-- What an RRR operation computes (Table 8-2), its minimum bound (Table 8-1), whether it reads B and D, and whether a
zero divisor traps (R150). -/
structure SDef where
  fn    : SFn
  min   : Nat
  useB  : Bool
  useD  : Bool
  isDiv : Bool

/-- The divisor is zero at the operation's width (R150). -/
def zeroDivisor (f : Rrr) (e : Env) : Bool := (e.s (s6 f.b)).toNat % 2 ^ sWidthD f.ef == 0

/-- An RRR scalar operation in slot S, or in slot VB under SMIR (R81, R147, R149, R150). -/
def sParts (slot : Nat) (word : W64) (xOk : Bool) (bad : Option Nat) (t : SDef) (f : Rrr) : Parts :=
  { slot := slot, word := word,
    zeroOk := rrrPlain f && f.msk == 0 && xOk && s6Ok f.d && s6Ok f.a && s6Ok f.b && (t.useB || f.b == 0)
    bad := if (sWidth f.ef).isNone then some 0x04 else bad
    latBad := latReg f.lat t.min
    dsts := [.s (s6 f.d)]
    srcS := [s6 f.a, s6 f.b] ++ if t.useD then [s6 f.d] else []
    fault := fun e => if t.isDiv && zeroDivisor f e then some (0x07, word) else none
    eff := fun e s => writeS s e.ck (s6 f.d)
      (atWidth (sWidthD f.ef) t.fn (e.s (s6 f.a)) (e.s (s6 f.b)) (e.s (s6 f.d))) (bnd f.lat) }

/-- An RRR operation in the S slot. -/
def sRrr (op : BitVec 8) (t : SDef) (f : Rrr) : Parts := sParts 0 (rrrWord op f) (f.x == 0) none t f

/-- ADD: Scalar add, wrapping (R149, Table 8-2). -/
def addDef : SDef := { fn := fun _ a b _ => a + b, min := 1, useB := true, useD := false, isDiv := false }
def addParts (f : Rrr) : Parts := sRrr 0x01 addDef f
def execAdd (p : Pfx) (f : Rrr) (s : State) : Out := issueOne p (addParts f) s

/-- SUB: Scalar subtract, wrapping (R149, Table 8-2). -/
def subDef : SDef := { fn := fun _ a b _ => a - b, min := 1, useB := true, useD := false, isDiv := false }
def subParts (f : Rrr) : Parts := sRrr 0x02 subDef f
def execSub (p : Pfx) (f : Rrr) (s : State) : Out := issueOne p (subParts f) s

/-- MUL: Low W bits of the scalar product (R149, Table 8-2). -/
def mulDef : SDef := { fn := fun _ a b _ => a * b, min := 4, useB := true, useD := false, isDiv := false }
def mulParts (f : Rrr) : Parts := sRrr 0x03 mulDef f
def execMul (p : Pfx) (f : Rrr) (s : State) : Out := issueOne p (mulParts f) s

/-- MULH: High W bits of the signed scalar product (R149, Table 8-2). -/
def mulhDef : SDef := { fn := fun w a b _ => (a.signExtend (2 * w) * b.signExtend (2 * w)).extractLsb' w w, min := 4, useB := true, useD := false, isDiv := false }
def mulhParts (f : Rrr) : Parts := sRrr 0x04 mulhDef f
def execMulh (p : Pfx) (f : Rrr) (s : State) : Out := issueOne p (mulhParts f) s

/-- MULHU: High W bits of the unsigned scalar product (R149, Table 8-2). -/
def mulhuDef : SDef := { fn := fun w a b _ => (a.setWidth (2 * w) * b.setWidth (2 * w)).extractLsb' w w, min := 4, useB := true, useD := false, isDiv := false }
def mulhuParts (f : Rrr) : Parts := sRrr 0x05 mulhuDef f
def execMulhu (p : Pfx) (f : Rrr) (s : State) : Out := issueOne p (mulhuParts f) s

/-- DIV: Signed division rounded toward zero; a zero divisor traps with cause 0x07 (R149, Table 8-2). -/
def divDef : SDef := { fn := fun _ a b _ => a.sdiv b, min := 24, useB := true, useD := false, isDiv := true }
def divParts (f : Rrr) : Parts := sRrr 0x06 divDef f
def execDiv (p : Pfx) (f : Rrr) (s : State) : Out := issueOne p (divParts f) s

/-- DIVU: Unsigned division; a zero divisor traps with cause 0x07 (R149, Table 8-2). -/
def divuDef : SDef := { fn := fun _ a b _ => a.udiv b, min := 24, useB := true, useD := false, isDiv := true }
def divuParts (f : Rrr) : Parts := sRrr 0x07 divuDef f
def execDivu (p : Pfx) (f : Rrr) (s : State) : Out := issueOne p (divuParts f) s

/-- REM: Signed remainder with the dividend's sign; a zero divisor traps (R149, Table 8-2). -/
def remDef : SDef := { fn := fun _ a b _ => a.srem b, min := 24, useB := true, useD := false, isDiv := true }
def remParts (f : Rrr) : Parts := sRrr 0x08 remDef f
def execRem (p : Pfx) (f : Rrr) (s : State) : Out := issueOne p (remParts f) s

/-- REMU: Unsigned remainder; a zero divisor traps (R149, Table 8-2). -/
def remuDef : SDef := { fn := fun _ a b _ => a.umod b, min := 24, useB := true, useD := false, isDiv := true }
def remuParts (f : Rrr) : Parts := sRrr 0x09 remuDef f
def execRemu (p : Pfx) (f : Rrr) (s : State) : Out := issueOne p (remuParts f) s

/-- AND: Bitwise AND (R149, Table 8-2). -/
def andDef : SDef := { fn := fun _ a b _ => a &&& b, min := 1, useB := true, useD := false, isDiv := false }
def andParts (f : Rrr) : Parts := sRrr 0x0A andDef f
def execAnd (p : Pfx) (f : Rrr) (s : State) : Out := issueOne p (andParts f) s

/-- OR: Bitwise OR (R149, Table 8-2). -/
def orDef : SDef := { fn := fun _ a b _ => a ||| b, min := 1, useB := true, useD := false, isDiv := false }
def orParts (f : Rrr) : Parts := sRrr 0x0B orDef f
def execOr (p : Pfx) (f : Rrr) (s : State) : Out := issueOne p (orParts f) s

/-- XOR: Bitwise XOR (R149, Table 8-2). -/
def xorDef : SDef := { fn := fun _ a b _ => a ^^^ b, min := 1, useB := true, useD := false, isDiv := false }
def xorParts (f : Rrr) : Parts := sRrr 0x0C xorDef f
def execXor (p : Pfx) (f : Rrr) (s : State) : Out := issueOne p (xorParts f) s

/-- ANDN: A AND NOT B (R149, Table 8-2). -/
def andnDef : SDef := { fn := fun _ a b _ => a &&& ~~~b, min := 1, useB := true, useD := false, isDiv := false }
def andnParts (f : Rrr) : Parts := sRrr 0x0D andnDef f
def execAndn (p : Pfx) (f : Rrr) (s : State) : Out := issueOne p (andnParts f) s

/-- SHL: Shift left by B mod W (R149, Table 8-2). -/
def shlDef : SDef := { fn := fun w a b _ => a <<< (b.toNat % w), min := 1, useB := true, useD := false, isDiv := false }
def shlParts (f : Rrr) : Parts := sRrr 0x0E shlDef f
def execShl (p : Pfx) (f : Rrr) (s : State) : Out := issueOne p (shlParts f) s

/-- SHR: Logical shift right by B mod W (R149, Table 8-2). -/
def shrDef : SDef := { fn := fun w a b _ => a >>> (b.toNat % w), min := 1, useB := true, useD := false, isDiv := false }
def shrParts (f : Rrr) : Parts := sRrr 0x0F shrDef f
def execShr (p : Pfx) (f : Rrr) (s : State) : Out := issueOne p (shrParts f) s

/-- SRA: Arithmetic shift right by B mod W (R149, Table 8-2). -/
def sraDef : SDef := { fn := fun w a b _ => a.sshiftRight (b.toNat % w), min := 1, useB := true, useD := false, isDiv := false }
def sraParts (f : Rrr) : Parts := sRrr 0x10 sraDef f
def execSra (p : Pfx) (f : Rrr) (s : State) : Out := issueOne p (sraParts f) s

/-- ROTL: Rotate left by B mod W (R149, Table 8-2). -/
def rotlDef : SDef := { fn := fun w a b _ => a <<< (b.toNat % w) ||| a >>> (w - b.toNat % w), min := 1, useB := true, useD := false, isDiv := false }
def rotlParts (f : Rrr) : Parts := sRrr 0x11 rotlDef f
def execRotl (p : Pfx) (f : Rrr) (s : State) : Out := issueOne p (rotlParts f) s

/-- MIN: Signed minimum (R149, Table 8-2). -/
def minDef : SDef := { fn := fun _ a b _ => if a.sle b then a else b, min := 1, useB := true, useD := false, isDiv := false }
def minParts (f : Rrr) : Parts := sRrr 0x12 minDef f
def execMin (p : Pfx) (f : Rrr) (s : State) : Out := issueOne p (minParts f) s

/-- MAX: Signed maximum (R149, Table 8-2). -/
def maxDef : SDef := { fn := fun _ a b _ => if b.sle a then a else b, min := 1, useB := true, useD := false, isDiv := false }
def maxParts (f : Rrr) : Parts := sRrr 0x13 maxDef f
def execMax (p : Pfx) (f : Rrr) (s : State) : Out := issueOne p (maxParts f) s

/-- MINU: Unsigned minimum (R149, Table 8-2). -/
def minuDef : SDef := { fn := fun _ a b _ => if a.ule b then a else b, min := 1, useB := true, useD := false, isDiv := false }
def minuParts (f : Rrr) : Parts := sRrr 0x14 minuDef f
def execMinu (p : Pfx) (f : Rrr) (s : State) : Out := issueOne p (minuParts f) s

/-- MAXU: Unsigned maximum (R149, Table 8-2). -/
def maxuDef : SDef := { fn := fun _ a b _ => if b.ule a then a else b, min := 1, useB := true, useD := false, isDiv := false }
def maxuParts (f : Rrr) : Parts := sRrr 0x15 maxuDef f
def execMaxu (p : Pfx) (f : Rrr) (s : State) : Out := issueOne p (maxuParts f) s

/-- SEQ: Sets 1 if equal, else 0 (R149, Table 8-2). -/
def seqDef : SDef := { fn := fun w a b _ => flagW w (a == b), min := 1, useB := true, useD := false, isDiv := false }
def seqParts (f : Rrr) : Parts := sRrr 0x16 seqDef f
def execSeq (p : Pfx) (f : Rrr) (s : State) : Out := issueOne p (seqParts f) s

/-- SNE: Sets 1 if not equal (R149, Table 8-2). -/
def sneDef : SDef := { fn := fun w a b _ => flagW w (a != b), min := 1, useB := true, useD := false, isDiv := false }
def sneParts (f : Rrr) : Parts := sRrr 0x17 sneDef f
def execSne (p : Pfx) (f : Rrr) (s : State) : Out := issueOne p (sneParts f) s

/-- SLT: Sets 1 if signed less than (R149, Table 8-2). -/
def sltDef : SDef := { fn := fun w a b _ => flagW w (a.slt b), min := 1, useB := true, useD := false, isDiv := false }
def sltParts (f : Rrr) : Parts := sRrr 0x18 sltDef f
def execSlt (p : Pfx) (f : Rrr) (s : State) : Out := issueOne p (sltParts f) s

/-- SLTU: Sets 1 if unsigned less than (R149, Table 8-2). -/
def sltuDef : SDef := { fn := fun w a b _ => flagW w (a.ult b), min := 1, useB := true, useD := false, isDiv := false }
def sltuParts (f : Rrr) : Parts := sRrr 0x19 sltuDef f
def execSltu (p : Pfx) (f : Rrr) (s : State) : Out := issueOne p (sltuParts f) s

/-- SLE: Sets 1 if signed less or equal (R149, Table 8-2). -/
def sleDef : SDef := { fn := fun w a b _ => flagW w (a.sle b), min := 1, useB := true, useD := false, isDiv := false }
def sleParts (f : Rrr) : Parts := sRrr 0x1A sleDef f
def execSle (p : Pfx) (f : Rrr) (s : State) : Out := issueOne p (sleParts f) s

/-- SLEU: Sets 1 if unsigned less or equal (R149, Table 8-2). -/
def sleuDef : SDef := { fn := fun w a b _ => flagW w (a.ule b), min := 1, useB := true, useD := false, isDiv := false }
def sleuParts (f : Rrr) : Parts := sRrr 0x1B sleuDef f
def execSleu (p : Pfx) (f : Rrr) (s : State) : Out := issueOne p (sleuParts f) s

/-- SEL: Selects A if D is nonzero, else B (R149, Table 8-2). -/
def selDef : SDef := { fn := fun _ a b d => if d != 0 then a else b, min := 1, useB := true, useD := true, isDiv := false }
def selParts (f : Rrr) : Parts := sRrr 0x1C selDef f
def execSel (p : Pfx) (f : Rrr) (s : State) : Out := issueOne p (selParts f) s

/-- CLZ: Counts leading zero bits (R149, Table 8-2). -/
def clzDef : SDef := { fn := fun w a _ _ => BitVec.ofNat w (leadZeros w a.toNat), min := 1, useB := false, useD := false, isDiv := false }
def clzParts (f : Rrr) : Parts := sRrr 0x1D clzDef f
def execClz (p : Pfx) (f : Rrr) (s : State) : Out := issueOne p (clzParts f) s

/-- CTZ: Counts trailing zero bits (R149, Table 8-2). -/
def ctzDef : SDef := { fn := fun w a _ _ => BitVec.ofNat w (trailZeros w a.toNat), min := 1, useB := false, useD := false, isDiv := false }
def ctzParts (f : Rrr) : Parts := sRrr 0x1E ctzDef f
def execCtz (p : Pfx) (f : Rrr) (s : State) : Out := issueOne p (ctzParts f) s

/-- POPC: Counts one bits (R149, Table 8-2). -/
def popcDef : SDef := { fn := fun w a _ _ => BitVec.ofNat w (popCount w a.toNat), min := 1, useB := false, useD := false, isDiv := false }
def popcParts (f : Rrr) : Parts := sRrr 0x1F popcDef f
def execPopc (p : Pfx) (f : Rrr) (s : State) : Out := issueOne p (popcParts f) s

/-- The S operation that SMIR mirrors, by X[7:0] (R81). -/
def mirrored (x : Nat) : Option SDef :=
  match x with
  | 0x01 => some addDef
  | 0x02 => some subDef
  | 0x03 => some mulDef
  | 0x04 => some mulhDef
  | 0x05 => some mulhuDef
  | 0x06 => some divDef
  | 0x07 => some divuDef
  | 0x08 => some remDef
  | 0x09 => some remuDef
  | 0x0A => some andDef
  | 0x0B => some orDef
  | 0x0C => some xorDef
  | 0x0D => some andnDef
  | 0x0E => some shlDef
  | 0x0F => some shrDef
  | 0x10 => some sraDef
  | 0x11 => some rotlDef
  | 0x12 => some minDef
  | 0x13 => some maxDef
  | 0x14 => some minuDef
  | 0x15 => some maxuDef
  | 0x16 => some seqDef
  | 0x17 => some sneDef
  | 0x18 => some sltDef
  | 0x19 => some sltuDef
  | 0x1A => some sleDef
  | 0x1B => some sleuDef
  | 0x1C => some selDef
  | 0x1D => some clzDef
  | 0x1E => some ctzDef
  | 0x1F => some popcDef
  | _ => none

/-- SMIR: the S operation that X names, in VB, on the same scalar registers (R81, R147). -/
def smirParts (f : Rrr) : Parts :=
  let t := (mirrored f.x.toNat).getD addDef
  sParts 2 (rrrWord 0xE0 f) true (if (mirrored f.x.toNat).isNone then some 0x01 else none) t f
def execSmir (p : Pfx) (f : Rrr) (s : State) : Out := issueOne p (smirParts f) s

/-! ## Immediate operations -/

/-- What an RI operation computes from its immediate and its registers (Table 8-4). -/
structure IDef where
  fn   : Ri → SFn
  min  : Nat
  useA : Bool
  useD : Bool
  /-- the immediate's bits that must be zero are zero, and the cause of a value out of range -/
  zero : Ri → Bool := fun _ => true
  bad  : Ri → Option Nat := fun _ => none

/-- IMM22 sign-extended to a width. -/
def immW (f : Ri) (w : Nat) : BitVec w := f.imm.signExtend w

/-- An RI operation of the S slot (R151, R152). -/
def sRi (op : BitVec 8) (t : IDef) (f : Ri) : Parts :=
  { slot := 0, word := riWord op f,
    zeroOk := riPlain f && s6Ok f.d && s6Ok f.a && (t.useA || f.a == 0) && t.zero f
    bad := if (sWidth f.ef).isNone then some 0x04 else t.bad f
    latBad := latReg f.lat t.min
    dsts := [.s (s6 f.d)]
    srcS := (if t.useA then [s6 f.a] else []) ++ if t.useD then [s6 f.d] else []
    eff := fun e s => writeS s e.ck (s6 f.d)
      (atWidth (sWidthD f.ef) (t.fn f) (e.s (s6 f.a)) 0 (e.s (s6 f.d))) (bnd f.lat) }

/-- The shift amount IMM22[5:0]; IMM22[21:6] must be zero, and an amount of W or more is illegal (R151). -/
def shAmt (f : Ri) : Nat := f.imm.toNat % 64
def shZero (f : Ri) : Bool := f.imm.toNat < 64
def shBad (f : Ri) : Option Nat := if sWidthD f.ef ≤ shAmt f then some 0x01 else none

/-- The bit field of EXT and INS (R152): LO, width, SX. -/
def fLo (f : Ri) : Nat := bitsOf f.imm.toNat 5 0
def fW (f : Ri) : Nat := bitsOf f.imm.toNat 11 6 + 1
def fSx (f : Ri) : Bool := f.imm.getLsbD 12
def fBad (f : Ri) : Option Nat := if sWidthD f.ef < fLo f + fW f then some 0x01 else none

/-- EXT (R152). -/
def extFn (f : Ri) (w : Nat) (a : BitVec w) : BitVec w :=
  let v := a.toNat / 2 ^ fLo f % 2 ^ fW f
  if fSx f && decide (2 ^ (fW f - 1) ≤ v) then BitVec.ofInt w ((v : Int) - 2 ^ fW f) else BitVec.ofNat w v

/-- INS (R152). -/
def insFn (f : Ri) (w : Nat) (a d : BitVec w) : BitVec w :=
  BitVec.ofNat w (d.toNat - d.toNat / 2 ^ fLo f % 2 ^ fW f * 2 ^ fLo f + a.toNat % 2 ^ fW f * 2 ^ fLo f)

/-- ADDI: Adds a signed immediate (R151, R152, Table 8-4). -/
def addiDef : IDef := { fn := fun f w a _ _ => a + immW f w, min := 1, useA := true, useD := false }
def addiParts (f : Ri) : Parts := sRi 0x20 addiDef f
def execAddi (p : Pfx) (f : Ri) (s : State) : Out := issueOne p (addiParts f) s

/-- ANDI: ANDs with an immediate (R151, R152, Table 8-4). -/
def andiDef : IDef := { fn := fun f w a _ _ => a &&& immW f w, min := 1, useA := true, useD := false }
def andiParts (f : Ri) : Parts := sRi 0x21 andiDef f
def execAndi (p : Pfx) (f : Ri) (s : State) : Out := issueOne p (andiParts f) s

/-- ORI: ORs with an immediate (R151, R152, Table 8-4). -/
def oriDef : IDef := { fn := fun f w a _ _ => a ||| immW f w, min := 1, useA := true, useD := false }
def oriParts (f : Ri) : Parts := sRi 0x22 oriDef f
def execOri (p : Pfx) (f : Ri) (s : State) : Out := issueOne p (oriParts f) s

/-- XORI: XORs with an immediate (R151, R152, Table 8-4). -/
def xoriDef : IDef := { fn := fun f w a _ _ => a ^^^ immW f w, min := 1, useA := true, useD := false }
def xoriParts (f : Ri) : Parts := sRi 0x23 xoriDef f
def execXori (p : Pfx) (f : Ri) (s : State) : Out := issueOne p (xoriParts f) s

/-- SHLI: Shifts left by an immediate (R151, R152, Table 8-4). -/
def shliDef : IDef := { fn := fun f _ a _ _ => a <<< shAmt f, min := 1, useA := true, useD := false, zero := shZero, bad := shBad }
def shliParts (f : Ri) : Parts := sRi 0x24 shliDef f
def execShli (p : Pfx) (f : Ri) (s : State) : Out := issueOne p (shliParts f) s

/-- SHRI: Shifts right logically by an immediate (R151, R152, Table 8-4). -/
def shriDef : IDef := { fn := fun f _ a _ _ => a >>> shAmt f, min := 1, useA := true, useD := false, zero := shZero, bad := shBad }
def shriParts (f : Ri) : Parts := sRi 0x25 shriDef f
def execShri (p : Pfx) (f : Ri) (s : State) : Out := issueOne p (shriParts f) s

/-- SRAI: Shifts right arithmetically by an immediate (R151, R152, Table 8-4). -/
def sraiDef : IDef := { fn := fun f _ a _ _ => a.sshiftRight (shAmt f), min := 1, useA := true, useD := false, zero := shZero, bad := shBad }
def sraiParts (f : Ri) : Parts := sRi 0x26 sraiDef f
def execSrai (p : Pfx) (f : Ri) (s : State) : Out := issueOne p (sraiParts f) s

/-- SLTI: Sets 1 if signed less than the immediate (R151, R152, Table 8-4). -/
def sltiDef : IDef := { fn := fun f w a _ _ => flagW w (decide (a.toInt < immSgn f)), min := 1, useA := true, useD := false }
def sltiParts (f : Ri) : Parts := sRi 0x27 sltiDef f
def execSlti (p : Pfx) (f : Ri) (s : State) : Out := issueOne p (sltiParts f) s

/-- SLTUI: Sets 1 if unsigned less than the immediate (R151, R152, Table 8-4). -/
def sltuiDef : IDef := { fn := fun f w a _ _ => flagW w (a.ult (immW f w)), min := 1, useA := true, useD := false }
def sltuiParts (f : Ri) : Parts := sRi 0x28 sltuiDef f
def execSltui (p : Pfx) (f : Ri) (s : State) : Out := issueOne p (sltuiParts f) s

/-- LI: Loads a sign-extended immediate (R151, R152, Table 8-4). -/
def liDef : IDef := { fn := fun f w _ _ _ => immW f w, min := 1, useA := false, useD := false }
def liParts (f : Ri) : Parts := sRi 0x29 liDef f
def execLi (p : Pfx) (f : Ri) (s : State) : Out := issueOne p (liParts f) s

/-- LIX: Shifts D left by 22 and adds an unsigned immediate (R151, R152, Table 8-4). -/
def lixDef : IDef := { fn := fun f w _ _ d => d <<< 22 + f.imm.setWidth w, min := 1, useA := false, useD := true }
def lixParts (f : Ri) : Parts := sRi 0x2A lixDef f
def execLix (p : Pfx) (f : Ri) (s : State) : Out := issueOne p (lixParts f) s

/-- EXT: Extracts a bit field, zero- or sign-extended (R151, R152, Table 8-4). -/
def extDef : IDef := { fn := fun f w a _ _ => extFn f w a, min := 1, useA := true, useD := false, zero := fun f => f.imm.toNat < 2 ^ 13, bad := fBad }
def extParts (f : Ri) : Parts := sRi 0x2B extDef f
def execExt (p : Pfx) (f : Ri) (s : State) : Out := issueOne p (extParts f) s

/-- INS: Inserts a bit field of A into D (R151, R152, Table 8-4). -/
def insDef : IDef := { fn := fun f w a _ d => insFn f w a d, min := 1, useA := true, useD := true, zero := fun f => f.imm.toNat < 2 ^ 12, bad := fBad }
def insParts (f : Ri) : Parts := sRi 0x2C insDef f
def execIns (p : Pfx) (f : Ri) (s : State) : Out := issueOne p (insParts f) s

/-- MULI: Multiplies by a signed immediate (R151, R152, Table 8-4). -/
def muliDef : IDef := { fn := fun f w a _ _ => a * immW f w, min := 4, useA := true, useD := false }
def muliParts (f : Ri) : Parts := sRi 0x2D muliDef f
def execMuli (p : Pfx) (f : Ri) (s : State) : Out := issueOne p (muliParts f) s

end Sys2Proof.Machine
end

