-- ==== Sys2Proof/Machine/System.lean ====
section
/-!
DEFINITION. The system operations of the S slot: special registers, trapping calls, returns, the end of a node,
invalidation, and the vector allotment (R158 to R168).
-/
namespace Sys2Proof.Machine
open Sys2Proof

/-! ## Special registers -/

/-- The special registers of Table 8-7. -/
inductive Sr where
  | ctxid | core | chip | memb | cons | part | node | ct | tick | frame | allot | wp | wdepth | npdef | dom | flags
  | slackreg | rowprog | fretdepth | chwm (n : Nat) | uivec | uipc | tl | tcause (l : Nat) | tret (l : Nat)
  | tval (l : Nat) | tmask (l : Nat) | tsave | tvec | suspect
  deriving DecidableEq, Repr

/-- The register of a number (Table 8-7). -/
def srOf (n : Nat) : Option Sr :=
  match n with
  | 0x000 => some .ctxid | 0x001 => some .core | 0x002 => some .chip | 0x003 => some .memb | 0x004 => some .cons
  | 0x005 => some .part | 0x006 => some .node | 0x010 => some .ct | 0x011 => some .tick | 0x012 => some .frame
  | 0x020 => some .allot | 0x021 => some .wp | 0x022 => some .wdepth | 0x030 => some .npdef | 0x031 => some .dom
  | 0x032 => some .flags | 0x033 => some .slackreg | 0x034 => some .rowprog | 0x035 => some .fretdepth
  | 0x040 => some (.chwm 0) | 0x041 => some (.chwm 1) | 0x042 => some (.chwm 2) | 0x043 => some (.chwm 3)
  | 0x044 => some (.chwm 4) | 0x045 => some (.chwm 5) | 0x046 => some (.chwm 6) | 0x047 => some (.chwm 7)
  | 0x050 => some .uivec | 0x051 => some .uipc | 0x100 => some .tl
  | 0x101 => some (.tcause 1) | 0x102 => some (.tcause 2) | 0x103 => some (.tret 1) | 0x104 => some (.tret 2)
  | 0x105 => some (.tval 1) | 0x106 => some (.tval 2) | 0x107 => some (.tmask 1) | 0x108 => some (.tmask 2)
  | 0x109 => some .tsave | 0x10A => some .tvec | 0x110 => some .suspect
  | _ => none

/-- The registers that only resident code reaches (Table 8-7, "res"). -/
def srRes (n : Nat) : Bool := decide (0x100 ≤ n)

/-- The registers that MTSR writes (Table 8-7, RW). -/
def Sr.writable : Sr → Bool
  | .npdef | .dom | .flags | .slackreg | .rowprog | .uivec | .uipc | .tsave | .tvec => true
  | .tcause _ | .tret _ | .tval _ | .tmask _ => true
  | .ctxid | .core | .chip | .memb | .cons | .part | .node | .ct | .tick | .frame | .allot | .wp | .wdepth => false
  | .fretdepth | .chwm _ | .tl | .suspect => false

/-- UIVEC (Table 15-4). -/
def UserInt.word (u : UserInt) : W64 :=
  BitVec.ofNat 64 (bit01 u.en * 2 ^ 49 + bit01 u.inh * 2 ^ 48 + u.pend % 256 * 2 ^ 40 + u.vec.toNat)

/-- FRETDEPTH (Table 12-7). -/
def fretWord (c : Ctx) : W64 :=
  let pk := (List.range 4).foldl (fun m n => if (sget Parked.reset c.parked n).parked then m + 2 ^ n else m) 0
  BitVec.ofNat 64 (pk * 2 ^ 19 + c.fPair % 4 * 2 ^ 16 + c.fDepth % 2 ^ 15)

/-- SLACKREG (Table 6-4). -/
def slackWord (c : Ctx) : W64 := BitVec.ofNat 64 (c.peak % 32 * 2 ^ 16 + c.slip % 32 * 2 ^ 8 + c.budget % 32)

/-- The score of a unit of a core: 0 S, 1 VA, 2 VB, 3 M (Table 16-5). -/
def CoreSt.score (c : CoreSt) (u : Nat) : Nat := sget 0 c.suspect u

/-- SUSPECT (Table 16-5). -/
def suspectWord (c : CoreSt) : W64 :=
  BitVec.ofNat 64 (c.trip % 16 * 2 ^ 32 + c.score 3 % 256 * 2 ^ 24 + c.score 2 % 256 * 2 ^ 16 + c.score 1 % 256 * 2 ^ 8
    + c.score 0 % 256)

/-- What a special register reads as in the cycle the bundle issues (R158, R159). -/
def readSr (s : State) (ck : Nat) (r : Sr) : W64 :=
  let c := s.ctx ck
  let k := ckCore ck
  let pos := ckPos ck
  let n := fun x : Nat => BitVec.ofNat 64 x
  match r with
  | .ctxid => n (ckCtx ck)
  | .core => n (logicalCore s k)
  | .chip => n ((s.chip pos).logicalOf pos)
  | .memb => c.memb
  | .cons => c.cons
  | .part => n (c.part % 8)
  | .node => c.node
  | .ct => n (s.ctOf pos)
  | .tick => n (s.ctOf pos / 1500)
  | .frame => n (frameOf s pos c.gid)
  | .allot => n (c.vBase % 1024 * 2 ^ 16 + c.vSize % 1024)
  | .wp => n (c.wp % 256)
  | .wdepth => n (c.wdepth % 64)
  | .npdef => c.npdef.setWidth 64
  | .dom => c.dom.setWidth 64
  | .flags => c.flags.setWidth 64
  | .slackreg => slackWord c
  | .rowprog => c.rowprog
  | .fretdepth => fretWord c
  | .chwm i => sget 0 (s.core k).chwm i
  | .uivec => c.ui.word
  | .uipc => c.ui.pc.setWidth 64
  | .tl => n c.tl
  | .tcause l => (c.trap l).cause
  | .tret l => (c.trap l).ret
  | .tval l => (c.trap l).val
  | .tmask l => (c.trap l).mask
  | .tsave => c.tsave
  | .tvec => c.tvec
  | .suspect => suspectWord (s.core k)

/-- What a write of a special register does (R158): reserved fields are ignored, PEND is W1C (R318), a BUDGET of 17 to
31 writes 16 (Table 6-4); the flags that landed in the cycle of the write, `now`, are ORed into the value of FLAGS (R139). -/
def writeSr (now : Nat) (c : Ctx) (r : Sr) (v : W64) : Ctx :=
  match r with
  | .npdef => { c with npdef := v.setWidth 6 }
  | .dom => { c with dom := v.setWidth 3 }
  | .flags => { c with flags := v.setWidth 7 ||| (if c.flagCy = now then c.flagNew else 0) }
  | .slackreg => { c with budget := Nat.min 16 (v.toNat % 32) }
  | .rowprog => { c with rowprog := v &&& 0xFFF07FFF }
  | .uivec => { c with ui := { c.ui with pend := c.ui.pend &&& (0xFF - bitsOf v.toNat 47 40), vec := v.setWidth 32 } }
  | .uipc => { c with ui := { c.ui with pc := v.setWidth 32 } }
  | .tcause l => c.setTrap l { c.trap l with cause := v &&& 0xFFFDFF }
  | .tret l => c.setTrap l { c.trap l with ret := v &&& 0x1FFFFFFFF }
  | .tval l => c.setTrap l { c.trap l with val := v }
  | .tmask l => c.setTrap l { c.trap l with mask := v &&& 0xFF }
  | .tsave => { c with tsave := v }
  | .tvec => { c with tvec := v &&& 0x3FFFFFFFFFC0 }
  | .ctxid | .core | .chip | .memb | .cons | .part | .node | .ct | .tick | .frame | .allot | .wp | .wdepth => c
  | .fretdepth | .chwm _ | .tl | .suspect => c

/-- The number in IMM22[9:0] (R158). -/
def srNum (f : Ri) : Nat := f.imm.toNat % 1024

/-- System operations in RI format use no EF, and the mode bits are zero (R81). -/
def sysRi (f : Ri) : Bool := riPlain f && f.ef == 0

/-- A read of PEAK sets it to the current slip (R116). -/
def afterRead (c : Ctx) (r : Sr) : Ctx :=
  match r with
  | .slackreg => { c with peak := c.slip }
  | _ => c

/-- An operation whose bound has passed may still set a flag (R139): an engine operation, or an atomic add of floats. -/
def flagsOwed (s : State) (ck : Nat) : Bool :=
  let now := s.now ck
  let past := fun (b : Nat) (a : Option Nat) => match a with
    | some t => b != 0 && decide (t + b ≤ now)
    | none => false
  ((s.core (ckCore ck)).engine.any fun o => o.ctx == ckCtx ck && past o.bound o.acc)
    || (s.ctx ck).outst.any fun a => (match a.kind with
      | .amo 10 _ => true
      | _ => false) && past a.bound a.acc

/-- MFSR (R158). One of FLAGS waits for the flags of operations whose bound has passed (R139). -/
def mfsrParts (f : Ri) : Parts :=
  { slot := 0, word := riWord 0x60 f
    zeroOk := sysRi f && s6Ok f.d && f.a == 0 && decide (f.imm.toNat < 1024)
    bad := if (srOf (srNum f)).isNone then some 0x01 else none
    latBad := latReg f.lat 2
    priv := srRes (srNum f)
    dsts := [.s (s6 f.d)]
    waits := fun e => if srOf (srNum f) = some .flags ∧ flagsOwed e.pre e.ck then some .cond else none
    eff := fun e s =>
      match srOf (srNum f) with
      | some r => writeS (s.modCtx e.ck fun c => afterRead c r) e.ck (s6 f.d) (readSr e.pre e.ck r) (bnd f.lat)
      | none => s }
def execMfsr (p : Pfx) (f : Ri) (s : State) : Out := issueOne p (mfsrParts f) s

/-- MTSR (R158): a register that is RO raises cause 0x01, and so does a DOM of 5 to 7 (Table 8-8). -/
def mtsrParts (f : Ri) : Parts :=
  { slot := 0, word := riWord 0x61 f
    zeroOk := sysRi f && f.d == 0 && s6Ok f.a && decide (f.imm.toNat < 1024)
    bad := match srOf (srNum f) with
      | some r => if r.writable then none else some 0x01
      | none => some 0x01
    latBad := latNone f.lat
    priv := srRes (srNum f)
    srcS := [s6 f.a]
    fault := fun e =>
      if srOf (srNum f) = some .dom ∧ 5 ≤ (e.s (s6 f.a)).toNat % 8 then some (0x01, riWord 0x61 f) else none
    eff := fun e s =>
      match srOf (srNum f) with
      | some r => s.modCtx e.ck fun c => writeSr (e.pre.now e.ck) c r (e.s (s6 f.a))
      | none => s }
def execMtsr (p : Pfx) (f : Ri) (s : State) : Out := issueOne p (mtsrParts f) s

/-! ## Trapping calls and returns -/

/-- The 16-bit code of ECALL, TRAP and BKPT; D, A and IMM22[21:16] are zero (R160). -/
def codeZero (f : Ri) : Bool := sysRi f && f.d == 0 && f.a == 0 && decide (f.imm.toNat < 65536)
def codeOf (f : Ri) : W64 := f.imm.setWidth 64

/-- A trap raised by slot S with the code as its value (Table 8-9). -/
def codeTrap (cause : Nat) (f : Ri) : TrapInfo :=
  { cause := cause, own := 0, tok := 0, isAsync := false, slots := 1, value := codeOf f }

/-- ECALL and TRAP commit in every slot and then trap (R160), late where the writes in flight do not fit the late-write buffer yet
(`takeAfter`, R313). -/
def callTrapParts (op : BitVec 8) (cause : Nat) (f : Ri) : Parts :=
  { slot := 0, word := riWord op f, zeroOk := codeZero f, latBad := latNone f.lat
    after := fun _ => some (codeTrap cause f) }

def ecallParts (f : Ri) : Parts := callTrapParts 0x62 0x1B f
def execEcall (p : Pfx) (f : Ri) (s : State) : Out := issueOne p (ecallParts f) s

def trapParts (f : Ri) : Parts := callTrapParts 0x6B 0x1C f
def execTrap (p : Pfx) (f : Ri) (s : State) : Out := issueOne p (trapParts f) s

/-- BKPT takes no effect in any slot and traps with cause 0x19 (R160). -/
def bkptParts (f : Ri) : Parts :=
  { slot := 0, word := riWord 0x65 f, zeroOk := codeZero f, latBad := latNone f.lat
    fault := fun _ => some (0x19, codeOf f) }
def execBkpt (p : Pfx) (f : Ri) (s : State) : Out := issueOne p (bkptParts f) s

/-- Every field but OP is zero (R161 to R163). -/
def bareRrr (f : Rrr) : Bool :=
  rrrPlain f && f.ef == 0 && f.d == 0 && f.a == 0 && f.b == 0 && f.msk == 0 && f.x == 0

/-- The operation is the only one of its bundle and the Y slot is zero (R161). -/
def Env.solo (e : Env) : Bool := e.alone && e.p == Pfx.zero

/-- TRET (R161, R314): at TL 0, or beside anything else, cause 0x01; with a level of the handler's own still open,
cause 0x13. -/
def tretParts (f : Rrr) : Parts :=
  { slot := 0, word := rrrWord 0x63 f, zeroOk := bareRrr f, latBad := latNone f.lat, priv := true
    fault := fun e =>
      if !e.solo || e.c.tl == 0 then some (0x01, rrrWord 0x63 f)
      else if e.c.loops.any fun l => l.tag.1 == e.c.tl then some (0x13, rrrWord 0x63 f) else none
    post := fun e s => leaveTrap s e.ck }
def execTret (p : Pfx) (f : Rrr) (s : State) : Out := issueOne p (tretParts f) s

/-- UIRET (R161, R319). -/
def uiretParts (f : Rrr) : Parts :=
  { slot := 0, word := rrrWord 0x64 f, zeroOk := bareRrr f, latBad := latNone f.lat
    fault := fun e => if !e.solo || !e.c.ui.inh || e.c.tl != 0 then some (0x01, rrrWord 0x64 f) else none
    post := fun e s => leaveUser s e.ck }
def execUiret (p : Pfx) (f : Rrr) (s : State) : Out := issueOne p (uiretParts f) s

/-! ## Ending, yielding and killing -/

/-- HALT (R162): issues with every slot queue empty; at TL other than 0 cause 0x01; then the context issues nothing
more and the core is free for the next ready context. -/
def haltParts (f : Rrr) : Parts :=
  { slot := 0, word := rrrWord 0x66 f, zeroOk := bareRrr f, latBad := latNone f.lat, needsEmpty := true
    fault := fun e => if e.c.tl ≠ 0 then some (0x01, rrrWord 0x66 f) else none
    post := fun e s => (s.modCtx e.ck fun c => { c with halted := true }).modCore e.k fun k =>
      { k with active := none, lastActive := ckCtx e.ck, cycle := k.cycle + 1 } }
def execHalt (p : Pfx) (f : Rrr) (s : State) : Out := issueOne p (haltParts f) s

/-- YIELD (R163): the context becomes ready and hands the core on, to itself where no other context is ready (`passOn`); in a
consort it only commits. -/
def yieldParts (f : Rrr) : Parts :=
  { slot := 0, word := rrrWord 0x67 f, zeroOk := bareRrr f, latBad := latNone f.lat
    post := fun e s =>
      if (s.core e.k).consort.isSome then s
      else (s.modCtx e.ck fun c => { c with st := .ready }).modCore e.k fun k =>
        { k with active := none, lastActive := ckCtx e.ck, yielded := true } }
def execYield (p : Pfx) (f : Rrr) (s : State) : Out := issueOne p (yieldParts f) s

/-- KILL (R164). -/
def killParts (f : Rrr) : Parts :=
  { slot := 0, word := rrrWord 0x6A f
    zeroOk := rrrPlain f && f.ef == 0 && f.d == 0 && s6Ok f.a && s6Ok f.b && f.msk == 0 && f.x == 0
    latBad := latNone f.lat, priv := true
    srcS := [s6 f.a, s6 f.b]
    post := fun e s => killCtx s (e.k * 4 + (e.s (s6 f.a)).toNat % 4) ((e.s (s6 f.b)).toNat % 256) }
def execKill (p : Pfx) (f : Rrr) (s : State) : Out := issueOne p (killParts f) s

/-! ## Invalidation -/

/-- TLBINV (R165, R205): the invalidation starts, and its token is pending until TLBINV_COMPLETE. -/
def tlbinvParts (f : Rrr) : Parts :=
  let tok := f.x.toNat % 64
  { slot := 0, word := rrrWord 0x68 f
    zeroOk := rrrPlain f && f.ef == 0 && f.d == 0 && s6Ok f.a && s6Ok f.b && f.msk == 0 && !f.x.getLsbD 8
    bad := if bitsOf f.x.toNat 7 6 = 3 then some 0x01 else none
    latBad := latNone f.lat, priv := true
    prods := [tok]
    srcS := [s6 f.a, s6 f.b]
    fault := fun e => if tok ≠ 0 ∧ (e.c.tok tok).pend then some (0x12, BitVec.ofNat 64 tok) else none
    eff := fun e s => (setPend s e.ck tok).modChip (ckPos e.ck) fun c =>
      { c with tlbinvs := c.tlbinvs ++ [{ ck := e.ck, bundle := e.bundle, tok := tok, scope := bitsOf f.x.toNat 7 6,
                                          part := (e.s (s6 f.b)).toNat % 8, va := (e.s (s6 f.a)).toNat, users := none }] } }
def execTlbinv (p : Pfx) (f : Rrr) (s : State) : Out := issueOne p (tlbinvParts f) s

/-- ICINV (R166): one block, named by a 4 KiB-aligned address, or every block of the core. -/
def icinvParts (f : Rrr) : Parts :=
  let all := f.x.getLsbD 0
  { slot := 0, word := rrrWord 0x69 f
    zeroOk := rrrPlain f && f.ef == 0 && f.d == 0 && f.b == 0 && f.msk == 0 && decide (f.x.toNat < 2)
      && (if all then f.a == 0 else s6Ok f.a)
    latBad := latNone f.lat, priv := true
    srcS := if all then [] else [s6 f.a]
    fault := fun e => if !all && (e.s (s6 f.a)).toNat % 4096 != 0 then some (0x08, e.s (s6 f.a)) else none
    eff := fun e s => s.modCore e.k fun k =>
      { k with istore := if all then [] else k.istore.filter fun b => b.2 != (e.s (s6 f.a)).toNat } }
def execIcinv (p : Pfx) (f : Rrr) (s : State) : Out := issueOne p (icinvParts f) s

/-! ## Vector allotment -/

/-- The count of VSHRINK and VGROW, 0 to 640 (R167, R168). -/
def vCount (f : Ri) : Nat := f.imm.toNat
def vBad (f : Ri) : Option Nat := if 640 < vCount f then some 0x01 else none

/-- Discard the writes in flight, and the captured ones, to physical registers from `lo` to below `hi` (R167). -/
def dropVWrites (c : Ctx) (lo hi : Nat) : Ctx :=
  let keep := fun w : Write => match w.dest with
    | .v p => !(decide (lo ≤ p) && decide (p < hi))
    | _ => true
  { c with inflight := c.inflight.filter keep, late := c.late.filter fun l => keep l.w }

/-- VSHRINK (R167). -/
def vshrinkParts (f : Ri) : Parts :=
  { slot := 0, word := riWord 0x6C f
    zeroOk := sysRi f && f.d == 0 && f.a == 0
    bad := vBad f, latBad := latNone f.lat
    fault := fun e => if e.c.vSize < vCount f then some (0x03, riWord 0x6C f) else none
    post := fun e s => s.modCtx e.ck fun c =>
      dropVWrites { c with vSize := c.vSize - vCount f } (c.vBase + c.vSize - vCount f) (c.vBase + c.vSize) }
def execVshrink (p : Pfx) (f : Ri) (s : State) : Out := issueOne p (vshrinkParts f) s

/-- Physical registers `lo` to below `lo + n` of a core belong to no other context's allotment. -/
def vFree (s : State) (k x lo n : Nat) : Bool :=
  allTo 4 fun y =>
    let c := s.ctx (k * 4 + y)
    y == x || c.vSize == 0 || decide (c.vBase + c.vSize ≤ lo) || decide (lo + n ≤ c.vBase)

/-- VGROW succeeds for one context, whose allotment has `size` registers (R168). -/
def growOk (s : State) (ck size n : Nat) : Bool :=
  let b := (s.ctx ck).vBase + size
  n == 0 || (decide (b + n ≤ 640) && vFree s (ckCore ck) (ckCtx ck) b n)

/-- The members of a context's consort with the sizes of their allotments as of the lead's bundle; outside a consort the context
alone (R168). -/
def growSizes (s : State) (ck : Nat) : List (Nat × Nat) :=
  match (s.core (ckCore ck)).consort with
  | some c => if c.members.contains ck then c.members.zip c.sizes else [(ck, (s.ctx ck).vSize)]
  | none => [(ck, (s.ctx ck).vSize)]

/-- Zero `n` physical vector registers from `p` up (R167, R168). -/
def zeroV (s : State) (k p n : Nat) : State := s.writeMem (vregAddr k p) (List.replicate (128 * n) 0)

/-- VGROW (R168): in a consort it succeeds only where it succeeds on every member. -/
def vgrowParts (f : Ri) : Parts :=
  let ok := fun e : Env => match e.ctl with
    | some c => c.taken
    | none => (growSizes e.pre e.ck).all fun (m, z) => growOk e.pre m z (vCount f)
  { slot := 0, word := riWord 0x6D f
    zeroOk := sysRi f && s6Ok f.d && f.a == 0
    bad := vBad f, latBad := latReg f.lat 2
    dsts := [.s (s6 f.d)]
    ctlOf := fun e => some { taken := ok e, target := 0, value := 0 }
    eff := fun e s => writeS s e.ck (s6 f.d) (if ok e then 1 else 0) (bnd f.lat)
    post := fun e s =>
      if ok e ∧ vCount f ≠ 0 then
        let c := s.ctx e.ck
        (zeroV s e.k (c.vBase + c.vSize) (vCount f)).modCtx e.ck fun c => { c with vSize := c.vSize + vCount f }
      else s }
def execVgrow (p : Pfx) (f : Ri) (s : State) : Out := issueOne p (vgrowParts f) s

/-! ## The empty bundle -/

/-- EMPTY_BUNDLE (R76): it issues, applies RA and the loop boundary, and writes nothing. -/
def execEmptyBundle (p : Pfx) (s : State) : Out := .next (issueState p [] none s)

end Sys2Proof.Machine
end

