-- ==== Sys2Proof/Machine/Sync.lean ====
section
/-!
DEFINITION. The Y slot: tokens, barriers, rings, fences, bank hand-over, checks and votes, and the waits on them (R88, R115,
R258 to R293).
-/
namespace Sys2Proof.Machine
open Sys2Proof

/-! ## Fields -/

/-- The tokens of K1 to K3. -/
def synKs (f : Syn) : List Nat := [f.k1.toNat, f.k2.toNat, f.k3.toNat]

/-- A and B are scalar registers or zero; unused K fields are zero; SF stays inside a mask (Table 13-1). -/
def synA (f : Syn) : Bool := s6Ok f.a
def synB (f : Syn) : Bool := s6Ok f.b
def noKs (f : Syn) : Bool := f.k1 == 0 && f.k2 == 0 && f.k3 == 0
def sfIn (f : Syn) (m : BitVec 3) : Bool := (f.sf &&& ~~~m) == 0

/-- The immediate of the SYN immediate form, bits [20:0]. -/
def synImm (f : Syn) : Nat := f.k1.toNat * 2 ^ 15 + f.k2.toNat * 2 ^ 9 + f.k3.toNat * 2 ^ 3 + f.sf.toNat

/-- The fault of a token named twice. -/
def twiceFault (ks : List Nat) : Option (Nat × W64) :=
  let rec go : List Nat → List Nat → Option (Nat × W64)
    | _, [] => none
    | seen, t :: r => if t ≠ 0 ∧ seen.contains t then some (0x12, BitVec.ofNat 64 t) else go (seen ++ [t]) r
  go [] ks

/-- The L and T accesses of earlier bundles that have not performed at scope `x`: a release at the scope waits for them (R264, R270). -/
def earlier (e : Env) (x : Nat) : List Nat := (unperformedAt e.pre e.ck x).map (·.id)

/-! ## SLACK (R115) -/

def slackParts (p : Pfx) (f : Syn) : Parts :=
  { slot := 7, word := synWord 0x30 p f, zeroOk := f.a == 0 && f.b == 0 && decide (synImm f < 32)
    bad := if 16 < synImm f then some 0x01 else none
    eff := fun e s => s.modCtx e.ck fun c => { c with budget := synImm f } }
def execSlack (p : Pfx) (f : Syn) (s : State) : Out := issueOne p (slackParts p f) s

/-! ## Tokens (R260 to R266) -/

/-- TKWAIT (R263). -/
def tkwaitParts (p : Pfx) (f : Syn) : Parts :=
  { slot := 7, word := synWord 0x01 p f, zeroOk := f.a == 0 && f.b == 0 && sfIn f 1
    bad := if f.k1 = 0 then some 0x01 else none
    fault := fun _ => twiceFault (synKs f)
    waits := fun e => if e.c.fired (synKs f) then none else some .cond
    eff := fun e s => if f.sf.getLsbD 0 then s else consume s e.ck (synKs f) }
def execTkwait (p : Pfx) (f : Syn) (s : State) : Out := issueOne p (tkwaitParts p f) s

/-- The context that a remote post names: a context in [1:0] of a logical core in [8:2] (R264); none where no core has that
number. -/
def postTarget (s : State) (ck : Nat) (t : W64) : Option Nat :=
  let l := bitsOf t.toNat 8 2
  let pos := (s.chip (ckPos ck)).posOf (l / 32)
  let e := (s.chip pos).lc (l % 32)
  if e.valid then some (ctxKey pos e.pcore (t.toNat % 4)) else none

/-- A post to a core that R194 does not let the context reach. -/
def postRefused (s : State) (ck : Nat) (t : W64) : Bool :=
  match postTarget s ck t with
  | none => true
  | some d => !(s.ctx ck).res && !ownedBy s (ckCore d) (s.ctx ck).part

/-- A post of token `tok` of context `d` that waits for the accesses before it at the bundle's scope (R264). -/
def postOf (e : Env) (d tok : Nat) : Post :=
  { ck := d, tok := tok, src := e.ck, after := earlier e e.scope, scope := e.scope, bundle := e.bundle }

/-- Post a token of the context itself at once, or when the accesses before it have performed. -/
def postOwn (s : State) (e : Env) (tok : Nat) : State :=
  if (earlier e e.scope).isEmpty then fireUp (passStores s e.ck e.bundle e.scope) e.ck tok
  else { s with posts := s.posts ++ [postOf e e.ck tok] }

/-- TKPOST (R264). -/
def tkpostParts (p : Pfx) (f : Syn) : Parts :=
  let word := synWord 0x02 p f
  let rem := f.sf.getLsbD 0
  { slot := 7, word := word
    zeroOk := (if rem then synA f else f.a == 0) && f.b == 0 && f.k2 == 0 && f.k3 == 0 && sfIn f 1
    bad := if f.k1 = 0 then some 0x01 else none
    srcS := if rem then [s6 f.a] else []
    fault := fun e =>
      let t := e.s (s6 f.a)
      if !rem then none
      else if postRefused e.pre e.ck t then some (0x0A, word)
      else if 512 ≤ t.toNat then some (0x01, word) else none
    eff := fun e s =>
      if rem then
        match postTarget e.pre e.ck (e.s (s6 f.a)) with
        | some d => { s with posts := s.posts ++ [postOf e d f.k1.toNat] }
        | none => s
      else postOwn s e f.k1.toNat }
def execTkpost (p : Pfx) (f : Syn) (s : State) : Out := issueOne p (tkpostParts p f) s

/-- TKCLR (R265, R266). -/
def tkclrParts (p : Pfx) (f : Syn) : Parts :=
  { slot := 7, word := synWord 0x03 p f, zeroOk := f.a == 0 && f.b == 0 && f.sf == 0
    bad := if f.k1 = 0 then some 0x01 else none
    fault := fun e => (twiceFault (synKs f)).or
      (((synKs f).find? fun t => t != 0 && (e.c.tok t).pend).map fun t => (0x12, BitVec.ofNat 64 t))
    eff := fun e s => (synKs f).foldl (fun s t =>
      if t = 0 then s else s.modCtx e.ck fun c => c.setTok t { c.tok t with fire := 0 }) s }
def execTkclr (p : Pfx) (f : Syn) (s : State) : Out := issueOne p (tkclrParts p f) s

/-! ## Barriers and rings (R259, R275 to R285) -/

/-- The outcome of the address of a barrier or ring (R259): it must name scratchpad of a core. -/
def objOut (e : Env) (align n : Nat) (va : W64) : Aout :=
  let q : Acc := { ck := e.ck, part := e.c.part, res := e.c.res, need := pteR + pteW, isWrite := true, amo := false
                   copy := false, dom := none }
  match addrOut e.pre (e.pre.core e.k).tlb q e.c.walkRes false align n va with
  | .ok pa (.window k off) => if areaOf off = .pad then .ok pa (.window k off) else .err 4 0x0A true
  | .ok pa (.held p l off) => if areaOf off = .pad then .ok pa (.held p l off) else .err 4 0x0A true
  | .ok _ _ => .err 4 0x0A true
  | .miss => .miss
  | .err r c u => if r = 5 then .err 4 0x0A true else .err r c u

/-- The physical address of an object that was translated; none while its alias is held (R56). -/
def objPa (o : Aout) : Option Nat :=
  match o with
  | .ok pa (.window k off) => some ((Place.window k off).addr pa)
  | .ok _ _ | .miss | .err _ _ _ => none

def ObjKind.align : ObjKind → Nat
  | .barrier => 32
  | .ring => 64

/-- The object that an operation names. -/
def objOf (kind : ObjKind) (f : Syn) (e : Env) : Aout := objOut e kind.align kind.fieldBytes (e.s (s6 f.a))

/-- The object is homed in the issuing core. -/
def homedHere (e : Env) (pa : Nat) : Bool := homeCore pa == e.k

/-- An operation on an object issues (R259): one on the issuing core that nothing holds is carried out at once, any other
travels to the home core. -/
def sendObj (s : State) (m : ObjMsg) : State :=
  let (id, s1) := s.takeId
  let m := { m with id := id }
  if homeCore m.addr = ckCore m.ck ∧ m.after.isEmpty ∧ !objWaits s m.addr then
    (performObj (if m.op = 1 then s1 else passStores s1 m.ck m.bundle m.scope) m).1
  else { s1 with objMsgs := s1.objMsgs ++ [m] }

/-- The message of an operation on an object at the bundle's scope (R259): 0 BARA, 1 BARX, 2 RREL, 3 REOS, 4 BARW, 5 RACQ. BARA, RREL
and REOS are releases. -/
def objMsg (e : Env) (kind : ObjKind) (op pa : Nat) (va : W64) (arg cnt : Nat) (prod direct : Bool) : ObjMsg :=
  { id := 0, ck := e.ck, kind := kind, op := op, addr := pa, va := va, arg := arg, cnt := cnt, prod := prod, direct := direct
    after := if op = 1 ∨ 4 ≤ op then [] else earlier e e.scope, node := e.c.node.toNat, scope := e.scope, bundle := e.bundle }

/-- An operation on an object that does not block. Its refusal on the issuing core is synchronous (R276). -/
def objParts (opc : BitVec 8) (kind : ObjKind) (p : Pfx) (f : Syn) (zero : Bool) (src : List Nat)
    (bad : Env → Bool) (mk : Env → Nat → ObjMsg) : Parts :=
  let word := synWord opc p f
  { slot := 7, word := word, zeroOk := zero
    srcS := src
    fault := fun e =>
      (addrFault word [(e.s (s6 f.a), objOf kind f e)]).or
        (if bad e then some (0x01, word)
        else match objPa (objOf kind f e) with
          | some pa =>
            if homedHere e pa ∧ !objWaits e.pre pa then
              (wouldRefuse e.pre (mk e pa)).map fun c => (c, if c = 0x0F then e.s (s6 f.a) else word)
            else none
          | none => none)
    forgets := fun e s => dropTrans s e.ck [(e.s (s6 f.a), objOf kind f e)]
    waits := fun e => match objOf kind f e with
      | .miss => some (.walk (e.s (s6 f.a)) false)
      | .ok _ (.held _ _ _) => some .cond
      | .ok _ _ | .err _ _ _ => none
    eff := fun e s => match objPa (objOf kind f e) with
      | some pa => sendObj s (mk e pa)
      | none => s }

/-- BARA (R277). -/
def baraParts (p : Pfx) (f : Syn) : Parts :=
  objParts 0x08 .barrier p f (synA f && f.b == 0 && noKs f && f.sf == 0) [s6 f.a] (fun _ => false)
    fun e pa => objMsg e .barrier 0 pa (e.s (s6 f.a)) 0 0 false false
def execBara (p : Pfx) (f : Syn) (s : State) : Out := issueOne p (baraParts p f) s

/-- BARX (R277). -/
def barxParts (p : Pfx) (f : Syn) : Parts :=
  objParts 0x0A .barrier p f (synA f && synB f && noKs f && f.sf == 0) [s6 f.a, s6 f.b]
    (fun e => decide (2 ^ 48 ≤ (e.s (s6 f.b)).toNat))
    fun e pa => objMsg e .barrier 1 pa (e.s (s6 f.a)) 0 (e.s (s6 f.b)).toNat false false
def execBarx (p : Pfx) (f : Syn) (s : State) : Out := issueOne p (barxParts p f) s

/-- The stage or producer number and the count of RREL and REOS. -/
def ringArg (e : Env) (f : Syn) : Nat := (e.s (s6 f.b)).toNat % 8
def ringCnt (e : Env) (f : Syn) : Nat := (e.s (s6 f.b)).toNat / 2 ^ 16
def ringHoleBad (e : Env) (f : Syn) : Bool := bitsOf (e.s (s6 f.b)).toNat 15 3 != 0

/-- RREL (R282): SF[0] is the role, 0 a producer; SF[1] is DIRECT. -/
def rrelParts (p : Pfx) (f : Syn) : Parts :=
  let prod := !f.sf.getLsbD 0
  objParts 0x29 .ring p f (synA f && synB f && noKs f && sfIn f 3) [s6 f.a, s6 f.b]
    (fun e => ringHoleBad e f || (!prod && ringCnt e f != 0))
    fun e pa => objMsg e .ring 2 pa (e.s (s6 f.a)) (ringArg e f) (ringCnt e f) prod (f.sf.getLsbD 1)
def execRrel (p : Pfx) (f : Syn) (s : State) : Out := issueOne p (rrelParts p f) s

/-- REOS (R283). -/
def reosParts (p : Pfx) (f : Syn) : Parts :=
  objParts 0x2A .ring p f (synA f && synB f && noKs f && f.sf == 0) [s6 f.a, s6 f.b] (fun e => ringHoleBad e f)
    fun e pa => objMsg e .ring 3 pa (e.s (s6 f.a)) (ringArg e f) (ringCnt e f) true false
def execReos (p : Pfx) (f : Syn) (s : State) : Out := issueOne p (reosParts p f) s

/-- The home core cannot be reached: its link is down or closed. -/
def objFar (e : Env) (pa : Nat) : Bool :=
  match objPa (.ok pa (.window (homeCore pa) (pa % 2 ^ 24))) with
  | some _ => (farCause e.pre (corePos e.k) (.window (homeCore pa) (pa % 2 ^ 24))).isSome
  | none => false

/-- Two requests ask for the same. -/
def ObjMsg.sameReq (r m : ObjMsg) : Bool := r.op == m.op && r.addr == m.addr && r.arg == m.arg && r.prod == m.prod

/-- The answer to the request that the bundle has made at another core: none while there is none (R259). -/
def answered (e : Env) (m : ObjMsg) : Option Bool :=
  match e.c.objReq with
  | some (r, a) => if r.sameReq m then a else none
  | none => none

/-- Make the request, once (R259): an older one of other operands is withdrawn. -/
def request (s : State) (ck : Nat) (m : ObjMsg) : State :=
  if (s.ctx ck).objReq.any fun (r, _) => r.sameReq m then s
  else
    let (id, s1) := (dropReq s ck).takeId
    let m1 := { m with id := id }
    let s2 := s1.modCtx ck fun c => { c with objReq := some (m1, none) }
    { s2 with objMsgs := s2.objMsgs ++ [m1] }

/-- The refusal of a blocking operation on an object of the issuing core. -/
def blockRefusal (e : Env) (kind : ObjKind) (pa stage : Nat) : Option Nat :=
  if objWaits e.pre pa then none
  else match objRefused e.pre kind pa with
    | some c => some c
    | none => match kind with
      | .barrier => none
      | .ring => if ringNst e.pre pa ≤ stage then some 0x01 else none

/-- A blocking operation on an object (BARW, RACQ, PHASE). On the issuing core it waits for `ready`, and a refusal is synchronous; to
another core a request `req` travels, and its answer lets the bundle issue (R259); a refusal from there is an asynchronous cause 0x01,
taken before the bundle issues (R276). `first` happens when the bundle first reaches issue, `act` when it issues on the issuing core,
`done` wherever it issues. -/
def blockParts (opc : BitVec 8) (kind : ObjKind) (p : Pfx) (f : Syn) (zero : Bool) (bad : Env → Bool) (stage : Env → Nat)
    (ready : Env → Nat → Bool) (req : Env → Nat → ObjMsg) (first act : Env → Nat → State → State)
    (done : Env → State → State) : Parts :=
  let word := synWord opc p f
  let va := fun e : Env => e.s (s6 f.a)
  { slot := 7, word := word, zeroOk := zero
    srcS := [s6 f.a, s6 f.b]
    fault := fun e =>
      (addrFault word [(va e, objOf kind f e)]).or
        (if bad e then some (0x01, word)
        else match objPa (objOf kind f e) with
          | some pa =>
            if homedHere e pa then (blockRefusal e kind pa (stage e)).map fun c => (c, if c = 0x0F then va e else word)
            else none
          | none => none)
    forgets := fun e s => dropTrans s e.ck [(va e, objOf kind f e)]
    waits := fun e =>
      match objOf kind f e with
      | .miss => some (.walk (va e) false)
      | .err _ _ _ => none
      | .ok _ _ => match objPa (objOf kind f e) with
        | none => some .cond
        | some pa =>
          if homedHere e pa then if objWaits e.pre pa ∨ !ready e pa then some .cond else none
          else if (answered e (req e pa)).isSome then none else some .cond
    arrive := fun e s =>
      match objPa (objOf kind f e) with
      | none => s
      | some pa =>
        if homedHere e pa then if objWaits e.pre pa then s else first e pa (register s kind pa)
        else if objFar e pa then s
        else request (first e pa s) e.ck (req e pa)
    eff := fun e s =>
      let s1 := match objPa (objOf kind f e) with
        | some pa => if homedHere e pa then act e pa (register s kind pa) else s
        | none => s
      done e (s1.modCtx e.ck fun c => { c with objReq := none }) }

/-- BARW (R279). -/
def barwParts (p : Pfx) (f : Syn) : Parts :=
  blockParts 0x09 .barrier p f (synA f && synB f && noKs f && f.sf == 0)
    (fun e => decide (2 ^ 16 ≤ (e.s (s6 f.b)).toNat)) (fun _ => 0)
    (fun e pa => phasePassed e.pre pa (e.s (s6 f.b)).toNat)
    (fun e pa => objMsg e .barrier 4 pa (e.s (s6 f.a)) (e.s (s6 f.b)).toNat 0 false false)
    (fun _ _ s => s) (fun _ _ s => s) (fun _ s => s)
def execBarw (p : Pfx) (f : Syn) (s : State) : Out := issueOne p (barwParts p f) s

/-- RACQ (R281). -/
def racqParts (p : Pfx) (f : Syn) : Parts :=
  let prod := !f.sf.getLsbD 0
  let stage := fun e : Env => (e.s (s6 f.b)).toNat % 8
  blockParts 0x28 .ring p f (synA f && synB f && noKs f && sfIn f 1)
    (fun e => decide (8 ≤ (e.s (s6 f.b)).toNat)) stage
    (fun e pa => stageReady e.pre pa (stage e) prod)
    (fun e pa => objMsg e .ring 5 pa (e.s (s6 f.a)) (stage e) 0 prod false)
    (fun _ _ s => s) (fun e pa s => acquireStage (touchObj s pa) pa (stage e) prod e.c.node.toNat) (fun _ s => s)
def execRacq (p : Pfx) (f : Syn) (s : State) : Out := issueOne p (racqParts p f) s

/-- The scope of a domain (Table 13-9). -/
def domScope (d : Nat) : Nat :=
  match d with
  | 0 | 1 => 0
  | 2 => 1
  | 3 => 2
  | _ => 3

/-- The context enters the phase kind that PHASE names (R291). -/
def setPhase (f : Syn) (e : Env) (s : State) : State :=
  s.modCtx e.ck fun c => { c with compPhase := !f.sf.getLsbD 0, arrived := false }

/-- PHASE (R291): without a barrier it only switches; with one it arrives once, and waits for the phase. -/
def phaseParts (p : Pfx) (f : Syn) : Parts :=
  let zero := synA f && synB f && noKs f && sfIn f 1
  if f.a = 0 then
    { slot := 7, word := synWord 0x32 p f, zeroOk := zero, srcS := [s6 f.b], eff := setPhase f }
  else
    blockParts 0x32 .barrier p f zero (fun e => decide (2 ^ 16 ≤ (e.s (s6 f.b)).toNat)) (fun _ => 0)
      (fun e pa => e.c.arrived && phasePassed e.pre pa (e.s (s6 f.b)).toNat)
      (fun e pa => { objMsg e .barrier 4 pa (e.s (s6 f.a)) (e.s (s6 f.b)).toNat 0 false false with scope := domScope e.c.dom.toNat })
      (fun e pa s =>
        if e.c.arrived then s
        else
          let x := domScope e.c.dom.toNat
          sendObj (s.modCtx e.ck fun c => { c with arrived := true })
            { objMsg e .barrier 0 pa (e.s (s6 f.a)) 0 0 false false with scope := x, after := earlier e x })
      (fun _ _ s => s) (setPhase f)
def execPhase (p : Pfx) (f : Syn) (s : State) : Out := issueOne p (phaseParts p f) s

/-! ## DRAIN and FENCE (R271, R272) -/

/-- A copy-engine operation of the context itself, not of its harts. -/
def ownCopy (x : Nat) (o : CopyOp) : Bool := o.ctx == x && o.hart.isNone

/-- DRAIN (R271) waits for each access at the wider of its own scope and the bundle's. -/
def drainWaits (e : Env) : Bool :=
  e.c.unperformed.any fun b => !performedAt e.pre e.ck b (Nat.max e.scope b.scope)

def drainParts (p : Pfx) (f : Syn) : Parts :=
  let eng := f.sf.getLsbD 0
  { slot := 7, word := synWord 0x10 p f, zeroOk := f.a == 0 && f.b == 0 && noKs f && sfIn f 1
    waits := fun e =>
      let c := e.c
      let k := e.pre.core e.k
      let busy := !c.mq.isEmpty || !c.cq.isEmpty || k.engine.any (fun o => o.ctx == ckCtx e.ck)
        || k.copies.any (ownCopy (ckCtx e.ck))
      if drainWaits e || (eng && busy) then some .cond else none
    eff := fun e s => e.c.unperformed.foldl (fun s b => markSeen s e.ck (Nat.max e.scope b.scope) fun y => y.id == b.id) s }
def execDrain (p : Pfx) (f : Syn) (s : State) : Out := issueOne p (drainParts p f) s

def fenceParts (p : Pfx) (f : Syn) : Parts :=
  let kind := f.sf.toNat % 4
  { slot := 7, word := synWord 0x11 p f, zeroOk := f.a == 0 && f.b == 0 && noKs f && sfIn f 3
    bad := if kind = 3 then some 0x01 else none
    eff := fun e s => s.modCtx e.ck fun c =>
      { c with fences := c.fences ++ [{ bundle := e.bundle, kind := kind, scope := e.scope }] } }
def execFence (p : Pfx) (f : Syn) (s : State) : Out := issueOne p (fenceParts p f) s

/-! ## Banks (R286 to R288) -/

/-- The operations of a context that read or write bank `b` of its core (R286): its accesses, its copies and those of its harts, its
matrix operand reads. -/
def liveOps (s : State) (ck b : Nat) : List Nat :=
  let x := ckCtx ck
  let k := ckCore ck
  let at_ := winBase k + b * 0x20000
  ((s.ctx ck).outst.filter fun a => touches s (ckPos ck) a at_ 0x20000).map (·.id)
    ++ ((s.core k).copies.filter fun o => o.ctx == x && inBank k b (o.spans s k)).map (·.id)
    ++ ((s.core k).engine.filter fun o => o.ctx == x && !o.loaded && inBank k b (o.readSpans s k)).map (·.id)

/-- TAIL of a bank: an operation counted at its hand-over is still under way (R286). -/
def tailLive (s : State) (k : Nat) (b : Bank) : Bool :=
  b.tail.any fun id => (s.core k).copies.any (fun o => o.id == id) || (s.core k).engine.any (fun o => o.id == id && !o.loaded)
    || anyTo 4 fun x => (s.ctx (k * 4 + x)).outst.any fun a => a.id == id

/-- The banks of a mask, by their numbers on the core. -/
def maskBanks (c : Ctx) (m : W64) : List Nat := (setBitsOf 32 m.toNat).map (c.bBase + ·)

/-- The faults of a bank mask (R286). -/
def maskFault (c : Ctx) (m word : W64) : Option (Nat × W64) :=
  if 2 ^ 32 ≤ m.toNat then some (0x01, word) else if 2 ^ c.bCount ≤ m.toNat then some (0x11, word) else none

/-- Registered objects of a bank that returns to the free pool are registered no more (R276). -/
def dropObjs (s : State) (k b : Nat) : State :=
  s.modCore k fun c => { c with objs := c.objs.filter fun o => !(homeCore o.addr == k && bankOf o.addr == b) }

/-- Give a bank back (R288). -/
def giveBank (s : State) (ck b : Nat) : State :=
  let live := liveOps s ck b
  let k := ckCore ck
  if (sget Bank.reset (s.core k).banks b).owner = some (ckCtx ck) then
    (dropObjs s k b).modCore k fun c =>
      let v := sget Bank.reset c.banks b
      { c with banks := sput c.banks b { v with owner := none, inuse := false, tail := v.tail ++ live } }
  else s

/-- BREL (R288). -/
def brelParts (p : Pfx) (f : Syn) : Parts :=
  let word := synWord 0x18 p f
  { slot := 7, word := word, zeroOk := synA f && f.b == 0 && noKs f && sfIn f 1
    srcS := [s6 f.a]
    fault := fun e => maskFault e.c (e.s (s6 f.a)) word
    eff := fun e s => (maskBanks e.c (e.s (s6 f.a))).foldl (fun s b =>
      if f.sf.getLsbD 0 then giveBank s e.ck b
      else s.modCore e.k fun c =>
        let v := sget Bank.reset c.banks b
        { c with banks := if v.owner = some (ckCtx e.ck) then sput c.banks b { v with inuse := false } else c.banks }) s }
def execBrel (p : Pfx) (f : Syn) (s : State) : Out := issueOne p (brelParts p f) s

/-- BACQ (R287). -/
def bacqParts (p : Pfx) (f : Syn) : Parts :=
  let word := synWord 0x19 p f
  { slot := 7, word := word, zeroOk := synA f && f.b == 0 && noKs f && f.sf == 0
    srcS := [s6 f.a]
    fault := fun e => maskFault e.c (e.s (s6 f.a)) word
    waits := fun e =>
      if (maskBanks e.c (e.s (s6 f.a))).all fun b =>
          let v := sget Bank.reset (e.pre.core e.k).banks b
          v.owner == some (ckCtx e.ck) && v.hold == 0 && !tailLive e.pre e.k v then none else some .cond
    eff := fun e s => (maskBanks e.c (e.s (s6 f.a))).foldl (fun s b =>
      s.modCore e.k fun c =>
        let v := sget Bank.reset c.banks b
        { c with banks := sput c.banks b { v with inuse := true, tail := [] } }) s }
def execBacq (p : Pfx) (f : Syn) (s : State) : Out := issueOne p (bacqParts p f) s

/-! ## Checks and votes (R125, R292) -/

def chkeqParts (p : Pfx) (f : Syn) : Parts :=
  let word := synWord 0x20 p f
  { slot := 7, word := word, zeroOk := synA f && synB f && noKs f && f.sf == 0
    srcS := [s6 f.a, s6 f.b]
    fault := fun e => if e.s (s6 f.a) = e.s (s6 f.b) then none else some (0x0E, word) }
def execChkeq (p : Pfx) (f : Syn) (s : State) : Out := issueOne p (chkeqParts p f) s

def chkvParts (p : Pfx) (f : Syn) : Parts :=
  let word := synWord 0x21 p f
  { slot := 7, word := word, zeroOk := noKs f && f.sf == 0
    vregs := [f.a.toNat, f.b.toNat]
    srcV := [f.a.toNat, f.b.toNat]
    fault := fun e => if e.v f.a.toNat = e.v f.b.toNat then none else some (0x0E, word) }
def execChkv (p : Pfx) (f : Syn) (s : State) : Out := issueOne p (chkvParts p f) s

def chkaParts (p : Pfx) (f : Syn) : Parts :=
  let word := synWord 0x22 p f
  { slot := 7, word := word, zeroOk := synA f && f.b == 0 && noKs f && sfIn f 1
    srcS := [s6 f.a]
    fault := fun e => match if f.sf.getLsbD 0 then e.eaT else e.eaL with
      | none => some (0x01, word)
      | some a => if e.s (s6 f.a) = a then none else some (0x0E, word) }
def execChka (p : Pfx) (f : Syn) (s : State) : Out := issueOne p (chkaParts p f) s

/-- The registers of VOTE's second and third values, and whether it votes on vectors. -/
def voteB (f : Syn) : Nat := synImm f / 2 ^ 11
def voteC (f : Syn) : Nat := synImm f / 2 % 2 ^ 10
def voteV (f : Syn) : Bool := synImm f % 2 == 1

/-- The three values. -/
def voteVals (f : Syn) (e : Env) : VReg × VReg × VReg :=
  if voteV f then (e.v f.a.toNat, e.v (voteB f), e.v (voteC f))
  else ((e.s f.a.toNat).setWidth 1024, (e.s (voteB f)).setWidth 1024, (e.s (voteC f)).setWidth 1024)

/-- VOTE (R292): the first value comes from S or VA, the second from VB; a wrong one of them is corrected or scored. -/
def voteParts (p : Pfx) (f : Syn) : Parts :=
  let word := synWord 0x23 p f
  let vec := voteV f
  let rs := [f.a.toNat, voteB f, voteC f]
  { slot := 7, word := word, zeroOk := vec || rs.all fun n => decide (n < 64)
    priv := true
    vregs := if vec then rs else []
    srcS := if vec then [] else rs
    srcV := if vec then rs else []
    dsts := if vec then [.v f.a.toNat] else [.s f.a.toNat]
    fault := fun e =>
      let (x, y, z) := voteVals f e
      if (x = y ∧ y = z) ∨ y = z ∨ x = z then none else some (0x0E, word)
    eff := fun e s =>
      let (x, y, z) := voteVals f e
      if x = y ∧ y = z then s
      else if y = z then
        let s1 := suspectUp s e.k (if vec then 1 else 0)
        if vec then writeV s1 e.ck f.a.toNat laneV y 2 0 else writeS s1 e.ck f.a.toNat (y.setWidth 64) 2
      else suspectUp s e.k 2 }
def execVote (p : Pfx) (f : Syn) (s : State) : Out := issueOne p (voteParts p f) s

/-! ## Time and user interrupts (R293) -/

def twaitParts (p : Pfx) (f : Syn) : Parts :=
  { slot := 7, word := synWord 0x31 p f, zeroOk := synA f && f.b == 0 && noKs f && f.sf == 0
    srcS := [s6 f.a]
    waits := fun e => if e.pre.ctOf (ckPos e.ck) < (e.s (s6 f.a)).toNat then some .cond else none }
def execTwait (p : Pfx) (f : Syn) (s : State) : Out := issueOne p (twaitParts p f) s

def uienParts (p : Pfx) (f : Syn) : Parts :=
  { slot := 7, word := synWord 0x34 p f, zeroOk := f.a == 0 && f.b == 0 && noKs f && sfIn f 1
    eff := fun e s => s.modCtx e.ck fun c => { c with ui := { c.ui with en := f.sf.getLsbD 0 } } }
def execUien (p : Pfx) (f : Syn) (s : State) : Out := issueOne p (uienParts p f) s

end Sys2Proof.Machine
end

