-- ==== Sys2Proof/Machine/Start.lean ====
section
/-!
DEFINITION. The start of a graph: its checks, its nodes, and the mirror of it (R14, R18, R31, R48, R343, R344).
-/
namespace Sys2Proof.Machine
open Sys2Proof

/-! ## Task types (R31, R48) -/

/-- Bytes lie wholly inside one sealed image of a kind and partition (R48). -/
def inImage (s : State) (kind part a n : Nat) : Bool :=
  s.images.any fun i =>
    i.kind == kind && i.part == part && decide (i.base ≤ a) && decide (a + n ≤ i.base + i.len)

/-- Words of a task-type entry as a node that has only them. -/
def ttNode (tt : List W64) : Node :=
  { w := [], tt := tt, succ := [], counts := [], srcs := [], st := 0, rused := 0, stamp := 0, frame := 0, ctx := 0, lcore := 0
    fcause := 0, rvalid := false, rrow := 0, readyCt := 0, place := none, must := none, tiles := false, rec? := none
    asked := none, dlSeen := false, overWith := false }

/-- The images that an entry names are sealed, of their kinds and of the partition (R48). -/
def ttImages (s : State) (part : Nat) (tt : List W64) : Bool :=
  let n := ttNode tt
  inImage s 3 part n.img (64 * n.ilen)
    && (n.hlen false == 0 || inImage s 4 part (n.himg false) (4 * n.hlen false))
    && (n.hlen true == 0 || inImage s 4 part (n.himg true) (4 * n.hlen true))

/-- An entry usable by a graph of a partition (R31): else code 0x06. -/
def ttUsable (s : State) (pos part i : Nat) : Option (List W64) :=
  match sget? (s.eng pos).ttypes i with
  | some t => if t.part = part ∧ bitOf (wAt t.w 1) 56 ∧ ttImages s part t.w then some t.w else none
  | none => none

/-- A field of an entry is out of range, or a reserved field is not zero (Table 2-7). -/
def ttBad (tt : List W64) : Bool :=
  let n := ttNode tt
  let r := fun i hi lo => bitsOf (wAt tt i) hi lo != 0
  r 0 63 59 || r 1 63 58 || r 2 63 60 || r 3 63 60 || r 4 63 20 || r 5 63 60 || r 6 63 60 || r 7 63 0
    || decide (n.ilen < 1) || decide (4096 < n.ilen) || n.img % 64 != 0 || decide (4 < n.dom) || decide (n.npdef < 1)
    || decide (8 < n.npdef) || decide (4 < bitsOf (wAt tt 1) 43 41) || decide (64 < n.atiles) || decide (32 < n.sbanks)
    || decide (640 < n.vregs) || decide (n.ilen ≤ n.entry) || decide (8192 < n.hlen false) || decide (8192 < n.hlen true)
    || n.himg false % 4 != 0 || n.himg true % 4 != 0 || decide (n.pbound < 1) || decide (8192 < n.dlen false)
    || decide (8192 < n.dlen true)

/-! ## Codes (Table 2-2) -/

/-- The code written for the conditions met: any other than 0x07 before it, the lowest first (R14). -/
def pickCode (cs : List (Bool × Nat)) : Option Nat :=
  let met := (cs.filter (·.1)).map (·.2)
  match met.filter (· != 7) with
  | [] => if met = [] then none else some 7
  | c :: r => some (r.foldl Nat.min c)

/-- The words of a structure. -/
def readWords (s : State) (a n : Nat) : List W64 := (List.range n).map fun i => s.read64 (a + 8 * i)

/-- The code of a header (R14). -/
def headerCode (s : State) (pos : Nat) (w : List W64) : Option Nat :=
  let gid := bitsOf (wAt w 0) 7 0
  let n := bitsOf (wAt w 0) 19 8
  let held := (s.eng pos).graphs.foldl (fun z (_, g) => z + g.ncount) 0
  let per := bitsOf (wAt w 3) 19 0
  let r := fun i hi lo => bitsOf (wAt w i) hi lo != 0
  pickCode [(n == 0 || decide (4096 < held + n), 1),
    (bitsOf (wAt w 1) 45 0 % 128 != 0 || bitsOf (wAt w 2) 45 0 % 128 != 0, 2),
    (r 0 63 46 || r 1 63 46 || r 2 63 46 || r 3 63 40 || r 6 63 32 || r 7 63 0, 7),
    (per != 0 && (decide (per < 1000) || decide (1000000 < per)), 10),
    ((List.range 4).any fun q => match s.graph? q gid with
      | some g => g.live
      | none => false, 11)]

/-- The code of a node record (R14). -/
def recordCode (s : State) (pos part per i : Nat) (n : Node) : Option Nat :=
  let r := fun k hi lo => bitsOf (wAt n.w k) hi lo != 0
  let tt := ttUsable s pos part (bitsOf (wAt n.w 0) 35 28)
  pickCode [(bitsOf (wAt n.w 2) 57 46 != 0 && bitsOf (wAt n.w 2) 45 0 % 4 != 0, 2),
    (bitsOf (wAt n.w 0) 11 0 != i, 3),
    (tt.isNone, 6),
    (r 0 63 61 || r 0 21 20 || r 0 15 12 || r 1 63 49 || r 2 63 58 || r 3 63 56 || r 7 63 0 || r 14 63 48 || r 15 63 0
      || r 5 31 26 || r 5 23 23 || r 5 15 8 || r 6 63 33
      || n.policy == 3 || decide (16 < n.req) || decide (47 < n.prio) || decide (4 < n.csize) || n.chmask == 0
      || n.ckpt % 4096 != 0 || (match tt with
        | some t => ttBad t
        | none => false), 7),
    (((n.timed || n.dl) && per == 0) || (n.dl && decide (n.deadline ≤ n.release))
      || (n.dl && per != 0 && decide (per < n.deadline)), 8),
    (match tt with
      | some t => bitsOf (wAt t 1) 43 41 != n.csize
      | none => false, 9)]

/-- The source word of a slot of a node, in memory. -/
def srcWord (s : State) (toks idx k : Nat) : Nat := s.readNat (toks + 128 * idx + 8 + 4 * k) 4

/-- The code of a successor entry of node i (R14). -/
def succCode (s : State) (gid n toks i e : Nat) : Option Nat :=
  let t := bitsOf e 11 0
  let own := bitsOf e 23 16 == gid
  let badIdx := decide (t ≤ i) || decide (n ≤ t)
  pickCode [(bitsOf e 31 24 != 0, 7), (own && badIdx, 4),
    (own && !badIdx && srcWord s toks t (bitsOf e 15 12) != senderWord gid gid i, 12)]

/-- A source word has bits set that its KIND does not use (R18). -/
def srcBad (w : Nat) : Bool :=
  match bitsOf w 31 30 with
  | 0 => bitsOf w 29 0 != 0
  | 3 => bitsOf w 29 22 != 0 || bitsOf w 19 8 != 0
  | _ => bitsOf w 29 28 != 0 || bitsOf w 19 12 != 0

/-- The code of a token entry (R14). Code 0x05 compares the record's REQ with the entry's slots, and is found with the entry, after the
successor entries (log entry 103). -/
def tokenCode (s : State) (toks i : Nat) (n : Node) : Option Nat :=
  let used := countTo 16 n.used
  pickCode [(n.req != used, 5),
    (n.srcs.any srcBad || (List.range 7).any fun k => s.readNat (toks + 128 * i + 72 + 8 * k) 8 != 0, 7)]

/-! ## Reading and starting -/

/-- The node that a record and a token entry describe, not yet armed; FCAUSE, RROW and the other RO fields are as at start
(Table 2-3). -/
def readNode (s : State) (pos part nodes toks i : Nat) : Node :=
  let w := readWords s (nodes + 128 * i) 16
  let n0 := { ttNode ((ttUsable s pos part (bitsOf (wAt w 0) 35 28)).getD []) with w := w }
  let c := s.readNat (toks + 128 * i) 8
  { n0 with
    succ := (List.range (bitsOf (wAt w 2) 57 46)).map fun k => s.readNat (bitsOf (wAt w 2) 45 0 + 4 * k) 4
    counts := (List.range 16).map fun k => bitsOf c (4 * k + 3) (4 * k)
    srcs := (List.range 16).map fun k => srcWord s toks i k
    stamp := s.ctOf pos }

/-- The first failure among the nodes: the index and the code. -/
def nodesCode (s : State) (pos gid part per n toks : Nat) : List (Nat × Node) → Option (Nat × Nat)
  | [] => none
  | (i, nd) :: rest =>
    match ((recordCode s pos part per i nd).or (nd.succ.findSome? (succCode s gid n toks i))).or (tokenCode s toks i nd) with
    | some c => some (i, c)
    | none => nodesCode s pos gid part per n toks rest

/-- A structure of the graph lies in an uncorrectable sector (Table 16-1). -/
def graphUnread (s : State) (hdr n nodes toks : Nat) (ns : List (Nat × Node)) : Bool :=
  s.readBad hdr 64 || s.readBad nodes (128 * n) || s.readBad toks (128 * n)
    || ns.any fun x => x.2.succ != [] && s.readBad (bitsOf (wAt x.2.w 2) 45 0) (4 * x.2.succ.length)

/-- Refuse a graph: GSTATE 5, REFUSE, REFNODE, and vector 4 (R14). -/
def refuseGraph (s : State) (pos hdr node code : Nat) : State :=
  let s1 := (writeField s hdr 25 23 5).1
  let s2 := (writeField s1 hdr 33 26 code).1
  fireVector (writeField s2 hdr 45 34 node).1 pos 4

/-- The reserved RO fields of a node record (Table 2-3). -/
def resvFields : List (Bool × Nat × Nat × Nat × Nat) :=
  [(false, 5, 31, 26, 0), (false, 5, 23, 23, 0), (false, 5, 15, 8, 0), (false, 6, 63, 33, 0)]

/-- Write every RO field of a node and its counts as they are at start (R12). RCVD is that of the counts that software placed
(log entry 99). -/
def initNode (s : State) (pos gid idx : Nat) (g : Graph) (n : Node) : State :=
  let s1 := setGraph s pos gid fun g => { g with nodes := sput g.nodes idx n }
  (nodeFields n ++ resvFields).foldl (fun s (t, i, hi, lo, v) =>
    let (s2, ok) := writeField s ((if t then g.toksA else g.nodesA) + 128 * idx + 8 * i) hi lo v
    if ok then s2 else escalate s2 pos gid) s1

/-- The node is active at the service level and on the logical chiplet that holds its graph (Table 2-4). -/
def activeNode (s : State) (pos : Nat) (n : Node) : Bool :=
  let c := s.chip pos
  bitOf n.slmask c.br.level && bitOf n.chmask (c.logicalOf pos)

/-! ## Mirrors (R343, R344) -/

/-- The carrier whose place a chiplet has. -/
def carrierOf (s : State) (pos : Nat) : Nat := ((List.range 4).find? fun k => carrierPos s pos k == pos).getD 0

/-- The buddy of the graphs that a chiplet holds (Table 16-8). -/
def buddyOf (s : State) (pos : Nat) : Option Nat :=
  let b := (s.chip pos).br
  match b.level with
  | 4 => some (carrierPos s pos ((carrierOf s pos + 1) % 4))
  | 0 => none
  | _ => b.spare

/-- The mirror area of a chiplet: base and size (R343). -/
def mirrorArea (s : State) (pos : Nat) : Nat × Nat :=
  let w := (s.eng pos).mirrorReg.toNat
  (bitsOf w 45 21 * 0x200000, bitsOf w 63 46 * 0x200000)

/-- The bytes of a mirror after its header: graph header, node records, token entries, checkpoint regions. -/
def mirrorBytes (s : State) (g : Graph) : List Byte :=
  s.mem.readBytes g.addr 64 ++ s.mem.readBytes g.nodesA (128 * g.ncount) ++ s.mem.readBytes g.toksA (128 * g.ncount)
    ++ g.nodes.flatMap fun (_, n) => s.mem.readBytes n.ckpt (n.cksize * 4096)

/-- The spans that a snapshot reads: the structures of the graph, then its checkpoint regions. -/
def graphSpans (g : Graph) : List (Nat × Nat) := [(g.addr, 64), (g.nodesA, 128 * g.ncount), (g.toksA, 128 * g.ncount)]
def ckptSpans (g : Graph) : List (Nat × Nat) := g.nodes.map fun (_, n) => (n.ckpt, n.cksize * 4096)

/-- A snapshot meets an uncorrectable sector among the graph's structures; anywhere in what it reads (R327). -/
def graphBad (s : State) (g : Graph) : Bool := (graphSpans g).any fun x => s.readBad x.1 x.2
def mirrorBad (s : State) (g : Graph) : Bool := graphBad s g || (ckptSpans g).any fun x => s.readBad x.1 x.2

/-- The errors that a snapshot's reads meet are recorded (R327). -/
def noteMirror (s : State) (g : Graph) : State :=
  (graphSpans g ++ ckptSpans g).foldl (fun s x => if x.2 = 0 then s else s.noteRead x.1 x.2) s

def mirrorLen (g : Graph) : Nat := 64 + 256 * g.ncount + g.nodes.foldl (fun z (_, n) => z + n.cksize * 4096) 0

/-- The slot that the next mirror of a graph takes at its buddy: the one of its two that is not the newest complete mirror, a
new one while it has fewer, first fit in 4 KiB units; none where it does not fit. -/
def mirrorSlot (s : State) (buddy gid len : Nat) : Option Nat :=
  let all := (s.eng buddy).slots
  let mine := all.filter fun (m : MirSlot) => m.gid == gid && m.len == len
  let newest := (mine.filter (·.done)).foldl (fun (b : Option MirSlot) m => match b with
    | some x => if x.ct < m.ct then some m else some x
    | none => some m) none
  if 2 ≤ mine.length then
    (mine.find? fun m => match newest with
      | some x => x.addr != m.addr
      | none => true).map (·.addr)
  else
    let (base, size) := mirrorArea s buddy
    let others := all.filter fun (m : MirSlot) => m.gid != gid || m.len == len
    ((List.range (size / 4096)).map fun i => base + 4096 * i).find? fun a =>
      decide (a + 64 + len ≤ base + size) && others.all fun m => !overlap a (64 + len) m.addr (64 + m.len)

/-- A slip of kind mirror late (R344). -/
def mirrorLate (s : State) (pos gid : Nat) : State :=
  let fno := match s.graph? pos gid with
    | some g => g.frameno
    | none => 0
  slip s pos 7 (some gid) 1 (BitVec.ofNat 64 gid) (BitVec.ofNat 64 fno)

/-- Begin a mirror of a graph (R343): one still being written is late; one that does not fit is not written, nor one that cannot be
read, which escalates the graph where its structures cannot (Table 16-1; log entry 121). -/
def snapshot (s : State) (pos gid : Nat) : State :=
  match s.graph? pos gid with
  | none => s
  | some g =>
    let late := g.mirror.any fun m => !m.late
    let s1 := if late then mirrorLate (setGraph s pos gid fun g =>
        { g with mirror := g.mirror.map fun m => { m with late := true } }) pos gid
      else s
    match buddyOf s1 pos with
    | none => s1
    | some b =>
      if (mirrorArea s1 b).2 = 0 then s1
      else match mirrorSlot s1 b gid (mirrorLen g) with
        | none => mirrorLate s1 pos gid
        | some a =>
          let s2 := noteMirror s1 g
          if mirrorBad s1 g then mirrorLate (if graphBad s1 g then escalate s2 pos gid else s2) pos gid
          else
            let j : MirrorJob :=
              { ct := s1.ctOf pos, fstart := g.fstart, frameno := g.frameno, bytes := mirrorBytes s1 g, buddy := b, addr := a
                late := false, pend := 0, sent := false, hdr := false, failed := false }
            setGraph s2 pos gid fun g => { g with mirror := g.mirror ++ [j] }

/-- One step of CRC-32C. -/
def crcBit (c : Nat) : Nat := if c % 2 = 1 then c / 2 ^^^ 0x82F63B78 else c / 2
def crcByte (c : Nat) (b : Byte) : Nat :=
  crcBit (crcBit (crcBit (crcBit (crcBit (crcBit (crcBit (crcBit (c ^^^ b.toNat))))))))
/-- CRC-32C of bytes (Table 16-9). -/
def crc32c (bs : List Byte) : Nat := bs.foldl crcByte 0xFFFFFFFF ^^^ 0xFFFFFFFF

/-- The header of a mirror slot, with DONE set or not (Table 16-9). -/
def slotHeader (gid : Nat) (j : MirrorJob) (done : Bool) : List Byte :=
  let n := fun x : Nat => BitVec.ofNat 64 x
  wordsBytes [n (0x4C4A4D52 * 2 ^ 32 + gid), n j.fstart, n j.frameno, n j.ct, n j.bytes.length,
    n (bit01 done * 2 ^ 32 + crc32c j.bytes), 0, 0]

/-- Change a mirror being written. -/
def modJob (s : State) (pos gid ct : Nat) (f : MirrorJob → MirrorJob) : State :=
  setGraph s pos gid fun g => { g with mirror := lmap (fun j : MirrorJob => j.ct == ct) f g.mirror }

/-- A part of a mirror has been written, or not (R344, Table 16-1). -/
def mirrorPart (s : State) (pos gid ct : Nat) (ok : Bool) : State :=
  modJob s pos gid ct fun j => { j with pend := j.pend - 1, failed := j.failed || !ok }

/-- Bytes of a mirror are written at the chiplet that keeps it, unless a sector refuses them (R343, R328). -/
def mirrorStore (s : State) (pa : Nat) (bs : List Byte) : State × Bool :=
  if s.writeBad pa bs.length then (s.noteRefused pa bs.length, false) else (s.writeMem pa bs, true)

/-- Cut bytes at an address into messages of at most 4,096 bytes (R297). -/
def msgParts : Nat → Nat → List Byte → List (Nat × List Byte)
  | 0, _, _ => []
  | fuel + 1, a, bs => if bs = [] then [] else (a, bs.take 4096) :: msgParts fuel (a + 4096) (bs.drop 4096)

/-- Write bytes of a mirror at its buddy: here, or in class-6 messages (R298, R343). -/
def mirrorSend (s : State) (pos gid : Nat) (j : MirrorJob) (a : Nat) (bs : List Byte) : State :=
  let ps := msgParts bs.length a bs
  let s1 := modJob s pos gid j.ct fun j => { j with pend := j.pend + ps.length }
  ps.foldl (fun s p =>
    if j.buddy = pos then
      let (s2, ok) := mirrorStore s p.1 p.2
      mirrorPart s2 pos gid j.ct ok
    else queueMsg s pos j.buddy 6 (.mirror p.1 p.2) (.mir pos gid j.ct)) s1

/-- The buddy's slot at an address: it is being written, or holds the mirror (R344). -/
def setSlot (s : State) (gid : Nat) (j : MirrorJob) (done : Bool) : State :=
  let m : MirSlot := { gid := gid, addr := j.addr, len := j.bytes.length, done := done, ct := j.ct }
  modGe s j.buddy fun e =>
    { e with slots := (e.slots.filter fun x => x.addr != j.addr && (x.gid != gid || x.len == m.len)) ++ [m] }

/-- MIRROR_COMPLETE (R343, R344): the mirror's next part: its data, under a header without DONE; once they are written, its header
with DONE; once that is, the slot is complete. A part that is refused or not delivered leaves it incomplete (Table 16-1). -/
def execMirrorComplete (s : State) : Out :=
  let a := s.focus.arg
  match s.graph? a.pos a.gid with
  | none => .next s
  | some g =>
    match g.mirror with
    | [] => .next s
    | j :: rest =>
      let done := setGraph s a.pos a.gid fun g => { g with mirror := rest }
      let far := j.buddy != a.pos && ((s.link a.pos j.buddy).st == 0 || (s.link a.pos j.buddy).st == 3)
      if j.pend ≠ 0 then .next s
      else if j.failed ∨ (far ∧ !j.hdr) then .next (mirrorLate done a.pos a.gid)
      else if !j.sent then
        let s1 := setSlot (modJob s a.pos a.gid j.ct fun j => { j with sent := true }) a.gid j false
        .next (mirrorSend s1 a.pos a.gid j j.addr (slotHeader a.gid j false ++ j.bytes))
      else if !j.hdr then
        .next (mirrorSend (modJob s a.pos a.gid j.ct fun j => { j with hdr := true }) a.pos a.gid j j.addr (slotHeader a.gid j true))
      else .next (setSlot done a.gid j true)

/-! ## Starting a graph -/

/-- Start a graph from its header (R14): checks, then every node armed or idle. `frameno` is that of a mirror (R346). -/
def startGraph (s : State) (pos hdr frameno : Nat) : State :=
  let w := readWords s hdr 8
  let gid := bitsOf (wAt w 0) 7 0
  let n := bitsOf (wAt w 0) 19 8
  let part := bitsOf (wAt w 0) 22 20
  let nodes := bitsOf (wAt w 1) 45 0
  let toks := bitsOf (wAt w 2) 45 0
  let per := bitsOf (wAt w 3) 19 0
  if s.readBad hdr 64 then evidence (writeField (s.noteRead hdr 64) hdr 25 23 4).1 pos pos 6 none
  else match headerCode s pos w with
    | some c => refuseGraph s pos hdr 0xFFF c
    | none =>
      let ns := (List.range n).map fun i => (i, readNode s pos part nodes toks i)
      if graphUnread s hdr n nodes toks ns then evidence (writeField s hdr 25 23 4).1 pos pos 6 none
      else match nodesCode s pos gid part per n toks ns with
        | some (i, c) => refuseGraph s pos hdr i c
        | none =>
          let g : Graph :=
            { addr := hdr, part := part, ncount := n, nodesA := nodes, toksA := toks, stretch := bitsOf (wAt w 3) 39 20
              period := per, fstart := wAt w 4, gstate := 1, drops := 0, slips := 0, frameno := frameno, cancels := 0
              misroute := 0, nodes := [], held := [], waiting := false, told := false, streak := 0, lastEnd := 0
              ending := false, mirror := [] }
          let s1 := modGe s pos fun e => { e with graphs := sput e.graphs gid g }
          let fs := (0, 45, 34, 0) :: (0, 33, 26, 0) :: graphFields g
          let s2 := fs.foldl (fun s (i, hi, lo, v) =>
            let (s2, ok) := writeField s (hdr + 8 * i) hi lo v
            if ok then s2 else escalate s2 pos gid) s1
          let s3 := ns.foldl (fun s (i, nd) => initNode s pos gid i g nd) s2
          let s4 := ns.foldl (fun s (i, nd) =>
            if activeNode s pos nd then modNode s pos gid i fun n => { n with st := 1 } else s) s3
          let s5 := if per = 0 then snapshot s4 pos gid else s4
          evalReady s5 pos gid

/-! ## The events of the graph engine -/

/-- TOKEN_ARRIVAL (R19, R25, R358, R360). -/
def execTokenArrival (s : State) : Out :=
  let pos := s.focus.arg.pos
  if noReports s pos then engDone (takeToken s pos) pos else .next s

/-- RELEASE_TICK (R20): with every event of the cycle taken, nodes whose release tick has come become ready. -/
def execReleaseTick (s : State) : Out := engDone s s.focus.arg.pos

/-- The tick event of the graph in focus is the first that is due, and nothing of the classes before it waits (R21). -/
def tickTurn (s : State) (e : TickEv) (idx : Nat) : Bool :=
  let a := s.focus.arg
  noTokens s a.pos && tickDue s a.pos == some (a.gid, e, idx)

/-- FRAME_START (R27, R344). -/
def execFrameStart (s : State) : Out :=
  let a := s.focus.arg
  match s.graph? a.pos a.gid with
  | none => .next s
  | some g =>
    if tickTurn s .frame 0 then engDone (snapshot (newFrame s a.pos a.gid g.nextStart) a.pos a.gid) a.pos
    else .next s

/-- NOMINAL_FRAME_END (R27): a frame with a blocking node waits, and GSTATE is 3, or stays 2 or 4 in a graph that walks or has
escalated (log entry 102). -/
def execNominalFrameEnd (s : State) : Out :=
  let a := s.focus.arg
  if tickTurn s .nominal 0 then
    engDone (modGraph s a.pos a.gid fun g => { g with waiting := true, gstate := if g.gstate = 1 then 3 else g.gstate }) a.pos
  else .next s

/-- DEADLINE_MISS (R28). -/
def execDeadlineMiss (s : State) : Out :=
  let a := s.focus.arg
  match s.graph? a.pos a.gid, s.node? a.pos a.gid a.idx with
  | some g, some n =>
    if tickTurn s .deadline a.idx then
      engDone (missDeadline s a.pos a.gid a.idx g n) a.pos
    else .next s
  | _, _ => .next s

/-- STRETCH_FAULT (R29): once per frame; the third frame together is evidence against the chiplet (Table 16-6). -/
def execStretchFault (s : State) : Out :=
  let a := s.focus.arg
  match s.graph? a.pos a.gid with
  | none => .next s
  | some g =>
    let st := s.tick a.pos - (g.fstart + g.period)
    if tickTurn s .stretch 0 then
      let s1 := slip s a.pos 2 (some a.gid) 1 (BitVec.ofNat 64 a.gid) (BitVec.ofNat 64 st)
      let s2 := setGraph s1 a.pos a.gid fun g => { g with told := true, streak := g.streak + 1 }
      let s3 := raiseQevt s2 a.pos 3
      engDone (if 3 ≤ g.streak + 1 then evidence s3 a.pos a.pos 7 none else s3) a.pos
    else .next s

/-- NODE_COMPLETION (R349): the first finished node of the engine (R21). -/
def execNodeCompletion (s : State) : Out :=
  let a := s.focus.arg
  match nodeDone s a.pos a.gid a.idx with
  | some (g, n) =>
    if firstDone s a.pos = some (a.gid, a.idx) then engDone (completeNode s a.pos a.gid a.idx n g.frameno) a.pos else .next s
  | none => .next s

/-- The first of some reports in ascending (graph id, node index), with its place (R21). -/
def firstReport : List (Report × Nat) → Option (Report × Nat)
  | [] => none
  | x :: r => match firstReport r with
    | none => some x
    | some y => some (if y.1.gid < x.1.gid ∨ (y.1.gid = x.1.gid ∧ y.1.idx < x.1.idx) then y else x)

/-- Take a fault report (R23, R26): one that waited and that the walk in progress absorbs, the first that waited for a walk, or the first
that has arrived; during a walk it is absorbed, or waits. -/
def takeReport (s : State) (pos : Nat) : State :=
  let e := s.eng pos
  match absorbed s pos with
  | some i => match e.walkQ[i]? with
    | some (.report r) => absorbReport (modGe s pos fun e => { e with walkQ := ldel e.walkQ i }) pos r
    | _ => s
  | none =>
    match e.walk, e.walkQ with
    | none, .report r :: q => faultNode (modGe s pos fun e => { e with walkQ := q }) pos r
    | _, _ =>
      match firstReport (s.chip pos).reports.zipIdx with
      | none => s
      | some (r, i) =>
        let s1 := s.modChip pos fun c => { c with reports := ldel c.reports i }
        if inWalk s pos r.gid r.idx then absorbReport s1 pos r
        else if e.walk.isSome ∨ e.walkQ ≠ [] then modGe s1 pos fun e => { e with walkQ := e.walkQ ++ [.report r] }
        else faultNode s1 pos r

/-- NODE_FAULT_REPORT (R23, R26), once no completion waits (R21). -/
def execNodeFaultReport (s : State) : Out :=
  let pos := s.focus.arg.pos
  if (firstDone s pos).isNone then engDone (takeReport s pos) pos else .next s

/-- Every running node of the cone but the root has left running. -/
def walkQuiet (s : State) (pos : Nat) (w : WalkSt) : Bool :=
  w.cone.all fun i => w.root == some i || (match s.node? pos w.gid i with
    | some n => n.st != 3
    | none => true)

/-- CONE_WALK_COMPLETE (R24). -/
def execConeWalkComplete (s : State) : Out :=
  let pos := s.focus.arg.pos
  match (s.eng pos).walk with
  | some w =>
    if walkQuiet s pos w ∧ (firstDone s pos).isNone ∧ (absorbed s pos).isNone then engDone (finishWalk s pos w) pos else .next s
  | none => .next s

/-- CANCEL_MESSAGE (R24): the target engine walks the cone of the target node, unless it is already cancelled. -/
def execCancelMessage (s : State) : Out :=
  let pos := s.focus.arg.pos
  let e := s.eng pos
  if (firstDone s pos).isSome then .next s else
  match e.walk, e.walkQ with
  | none, .cancel gid idx src retry :: q =>
    let s1 := modGe s pos fun e => { e with walkQ := q }
    match s.graph? pos gid, s.node? pos gid idx with
    | some g, some n =>
      engDone (if g.live ∧ n.st ≠ 6 then startWalk s1 pos gid idx none retry (some src) none else s1) pos
    | _, _ => engDone s1 pos
  | _, _ => .next s

end Sys2Proof.Machine
end

