-- ==== Sys2Proof/Machine/Tablature.lean ====
section
/-!
DEFINITION. Tablature: TEVT, the recorder's registers as the host writes and reads them, and host posts, recorded and
replayed (R42, R43, R293, R354 to R361).
-/
namespace Sys2Proof.Machine
open Sys2Proof

/-! ## TEVT (R293) -/

/-- The record of a program event (Table 17-3). -/
def tevtRec (e : Env) (f : Syn) : Rec :=
  { kind := 4, sub := 0, lcore := logicalCore e.pre e.k, ctx := ckCtx e.ck, agent := 0,
    a := BitVec.ofNat 64 ((e.s (s6 f.a)).toNat % 65536), b := e.s (s6 f.b) }

/-- The logged event that a replay compares with: the next one of the same context. -/
def tevtNext (e : Env) (r : Rec) : Option (Nat × Nat × Nat × Nat) :=
  let pos := ckPos e.ck
  if (e.pre.chip pos).replays e.c.part then
    nextRec e.pre pos fun w1 _ _ => recKind w1 == 4 && w1 % 65536 == r.low pos % 65536
  else none

/-- The index of the logged event from which this one differs (R360, R361). -/
def tevtDiverges (e : Env) (f : Syn) : Option Nat :=
  let r := tevtRec e f
  match tevtNext e r with
  | some (i, w1, a, b) =>
    if w1 % 2 ^ 32 = r.low (ckPos e.ck) ∧ a = r.a.toNat ∧ b = r.b.toNat then none else some i
  | none => none

def tevtParts (p : Pfx) (f : Syn) : Parts :=
  let word := synWord 0x33 p f
  { slot := 7, word := word, zeroOk := synA f && synB f && noKs f && f.sf == 0
    srcS := [s6 f.a, s6 f.b]
    fault := fun e =>
      if 65536 ≤ (e.s (s6 f.a)).toNat then some (0x01, word)
      else (tevtDiverges e f).map fun i => (0x18, BitVec.ofNat 64 i)
    waits := fun e => if (e.pre.chip (ckPos e.ck)).holds e.c.part then some .cond else none
    arrive := fun e s => if (e.pre.chip (ckPos e.ck)).holds e.c.part then noteHold s (ckPos e.ck) else s
    eff := fun e s =>
      let pos := ckPos e.ck
      match tevtNext e (tevtRec e f) with
      | some (i, _, _, _) => settleEnding (consumeRec s pos i) pos
      | none => logDecision s pos e.c.part (tevtRec e f)
    onFault := fun e s =>
      match tevtDiverges e f with
      | some i => diverge s (ckPos e.ck) i (tevtRec e f)
      | none => s }
def execTevt (p : Pfx) (f : Syn) (s : State) : Out := issueOne p (tevtParts p f) s

/-! ## Host posts (R42, R43) -/

/-- Send one token to every node slot of every running graph of the package that a host token port feeds (R42). -/
def feedPort (s : State) (pos port : Nat) : State :=
  let src := 3 * 2 ^ 30 + pos * 2 ^ 20 + port
  (List.range 4).foldl (fun s q =>
    (s.eng q).graphs.foldl (fun s (gid, g) =>
      if !g.live then s
      else g.nodes.foldl (fun s (idx, n) =>
        (List.range 16).foldl (fun s k =>
          if n.srcs[k]?.getD 0 ≠ src then s
          else if q = pos then modGe s pos fun e => { e with tokQ := e.tokQ ++ [{ gid := gid, idx := idx, slot := k, src := src }] }
          else engineMsg s pos q (.token gid idx k src)) s) s) s) s

/-- Send `n` tokens, one at a time. -/
def feedPorts : Nat → State → Nat → Nat → State
  | 0, s, _, _ => s
  | n + 1, s, pos, port => feedPorts n (feedPort s pos port) pos port

/-- Change a port register. -/
def modPort (s : State) (pos p n : Nat) (f : Port → Port) : State :=
  modGe s pos fun e => { e with ports := sput e.ports (256 * p + n) (f (sget Port.reset e.ports (256 * p + n))) }

/-- The record of a host post (Table 17-3). -/
def postRec (p n count : Nat) : Rec :=
  { kind := 6, sub := 0, lcore := 0x7F, ctx := 0, agent := 7, a := BitVec.ofNat 64 (256 * p + n), b := BitVec.ofNat 64 count }

/-- A post takes effect: POSTS grows and every slot fed receives the tokens. -/
def applyPost (s : State) (pos p n count : Nat) : State :=
  feedPorts count (modPort s pos p n fun r => { r with posts := r.posts + BitVec.ofNat 32 count }) pos n

/-- A write of `v` to port n through page p that is neither a no-op nor held back: accepted, or counted in REJECTS (R42);
while the partition is replayed every post is rejected (R360). -/
def postPort (s : State) (pos p n v : Nat) : State :=
  let count := bitsOf v 3 0
  if bitsOf v 15 5 ≠ 0 ∨ count = 0 ∨ sget? (s.eng pos).portOwn n ≠ some p ∨ (s.chip pos).replays p then
    modPort s pos p n fun r => { r with rejects := Nat.min 0xFFFF (r.rejects + 1) }
  else applyPost (logDecision s pos p (postRec p n count)) pos p n count

/-- A write to a token port: one with COUNT 0 and zero reserved bits does nothing. A post that would be accepted waits for log
space (R358). -/
def portWrite (s : State) (pos off v : Nat) : State :=
  let p := (off - 0x100000) / 0x10000
  let n := off % 0x10000 / 8
  if v % 65536 - v % 32 + v % 16 = 0 then s
  else if (s.chip pos).holds p ∧ sget? (s.eng pos).portOwn n = some p then postCtl (noteHold s pos) pos off 8 v
  else postPort s pos p n v

/-- HOST_TOKEN_POST (R42): a host write of `value` to port n of page m. Writes to one port are applied in arrival order (R43): a
write behind a waiting one waits too. `flag` takes up the first waiting write that can go on. -/
def execHostTokenPost (s : State) : Out :=
  let a := s.focus.arg
  if 4 ≤ a.pos ∨ (s.chip a.pos).br.held then .next s
  else if a.flag then
    match takeCtl s a.pos fun w => tokenPage w.off && !(s.chip a.pos).holds ((w.off - 0x100000) / 0x10000) with
    | some (w, s1) => .next (portWrite s1 a.pos w.off w.v)
    | none => .next s
  else if 8 ≤ a.m ∨ 256 ≤ a.n ∨ !(s.chip a.pos).pcie then .next s
  else
    let off := 0x100000 + 0x10000 * a.m + 8 * a.n
    if (s.chip a.pos).ctlQ.any fun w => w.off == off then .next (postCtl s a.pos off 8 a.value.toNat)
    else .next (portWrite s a.pos off a.value.toNat)

/-- REPLAY_HOST_POST (R360): the next logged host post, at its CT shifted to the start of the replay. -/
def execReplayHostPost (s : State) : Out :=
  let pos := s.focus.arg.pos
  let c := s.chip pos
  match nextRec s pos fun w1 a _ => recKind w1 == 6 && replayed s pos w1 a with
  | some (i, _, a, b) =>
    if c.tbMode = 2 ∧ !c.tbOver ∧ s.readNat (c.recAddr i) 8 + c.eng.repCt ≤ c.ct + c.eng.repFirst then
      engDone (consumeRec (applyPost s pos (a / 256 % 8) (a % 256) (b % 16)) pos i) pos
    else .next s
  | none => .next s

/-! ## The recorder's registers -/

/-- TABLATURE_OFF, TABLATURE_RECORD, TABLATURE_REPLAY (R357, R360): a write of TBCTL whose MODE is `mode`. -/
def setMode (s : State) (mode : Nat) : Out :=
  let a := s.focus.arg
  if 4 ≤ a.pos ∨ !(s.chip a.pos).pcie then .next s
  else engDone (ctlWriteBy s a.pos true 0x3000000 8 (setBits a.value.toNat 19 18 mode)) a.pos

def execTablatureOff (s : State) : Out := setMode s 0
def execTablatureRecord (s : State) : Out := setMode s 1
def execTablatureReplay (s : State) : Out := setMode s 2

/-- A host write of an 8-byte register at a control-window offset of chiplet `pos`. -/
def hostSet (s : State) (off : Nat) (v : W64) : Out :=
  let pos := s.focus.arg.pos
  if 4 ≤ pos ∨ !(s.chip pos).pcie then .next s else .next (ctlWriteBy s pos true off 8 v.toNat)

/-- A host read of an 8-byte register: its value is what the host receives. -/
def hostGet (s : State) (off : Nat) : Out :=
  let pos := s.focus.arg.pos
  if 4 ≤ pos ∨ !(s.chip pos).pcie then .next s
  else
    let (v, s1) := ctlReadBy s pos true off 8
    .next { s1 with hostGot := (0, leBytes 8 v, s.ctOf pos) }

/-- TBRD_WRITE (R357). -/
def execTbrdWrite (s : State) : Out :=
  let a := s.focus.arg
  if 4 ≤ a.pos ∨ !(s.chip a.pos).pcie then .next s else engDone (ctlWriteBy s a.pos true 0x3000018 8 a.value.toNat) a.pos

/-- TBSTAT_WRITE (R357): W1C of REND, DIV and TRUNC. -/
def execTbstatWrite (s : State) : Out := hostSet s 0x3000020 s.focus.arg.value

/-- TBWR_READ (R357): LOST clears. -/
def execTbwrRead (s : State) : Out := hostGet s 0x3000010

/-- LOG_HOLD_RELEASE (R358): FREE has risen above 64, and decisions are stalled no longer. -/
def execLogHoldRelease (s : State) : Out :=
  let pos := s.focus.arg.pos
  let c := s.chip pos
  if c.tbHold ∧ 64 < c.tbFree then .next (s.setChip pos { c with tbHold := false, tbHeld := false }) else .next s

end Sys2Proof.Machine
end

