-- ==== Sys2Proof/Machine/Bundle.lean ====
section
/-!
DEFINITION. Bundles of several operations: the parts of each operation, fetching (R70 to R72, R118), the choice of the context that
issues (R108), and the events that come before a bundle (R308).
-/
namespace Sys2Proof.Machine
open Sys2Proof

/-- The parts of a slot operation; none for what is no slot operation. -/
def partsOf : Instr → Option Parts
  -- BEGIN PARTS
  | .add _ f => some (addParts f)
  | .sub _ f => some (subParts f)
  | .mul _ f => some (mulParts f)
  | .mulh _ f => some (mulhParts f)
  | .mulhu _ f => some (mulhuParts f)
  | .div _ f => some (divParts f)
  | .divu _ f => some (divuParts f)
  | .rem _ f => some (remParts f)
  | .remu _ f => some (remuParts f)
  | .and _ f => some (andParts f)
  | .or _ f => some (orParts f)
  | .xor _ f => some (xorParts f)
  | .andn _ f => some (andnParts f)
  | .shl _ f => some (shlParts f)
  | .shr _ f => some (shrParts f)
  | .sra _ f => some (sraParts f)
  | .rotl _ f => some (rotlParts f)
  | .min _ f => some (minParts f)
  | .max _ f => some (maxParts f)
  | .minu _ f => some (minuParts f)
  | .maxu _ f => some (maxuParts f)
  | .seq _ f => some (seqParts f)
  | .sne _ f => some (sneParts f)
  | .slt _ f => some (sltParts f)
  | .sltu _ f => some (sltuParts f)
  | .sle _ f => some (sleParts f)
  | .sleu _ f => some (sleuParts f)
  | .sel _ f => some (selParts f)
  | .clz _ f => some (clzParts f)
  | .ctz _ f => some (ctzParts f)
  | .popc _ f => some (popcParts f)
  | .addi _ f => some (addiParts f)
  | .andi _ f => some (andiParts f)
  | .ori _ f => some (oriParts f)
  | .xori _ f => some (xoriParts f)
  | .shli _ f => some (shliParts f)
  | .shri _ f => some (shriParts f)
  | .srai _ f => some (sraiParts f)
  | .slti _ f => some (sltiParts f)
  | .sltui _ f => some (sltuiParts f)
  | .li _ f => some (liParts f)
  | .lix _ f => some (lixParts f)
  | .ext _ f => some (extParts f)
  | .ins _ f => some (insParts f)
  | .muli _ f => some (muliParts f)
  | .br _ f => some (brParts f)
  | .bri _ f => some (briParts f)
  | .call _ f => some (callParts f)
  | .calli _ f => some (calliParts f)
  | .ret _ f => some (retParts f)
  | .loop _ f => some (loopParts f)
  | .lstr _ f => some (lstrParts f)
  | .lbrk _ f => some (lbrkParts f)
  | .mfsr _ f => some (mfsrParts f)
  | .mtsr _ f => some (mtsrParts f)
  | .ecall _ f => some (ecallParts f)
  | .tret _ f => some (tretParts f)
  | .uiret _ f => some (uiretParts f)
  | .bkpt _ f => some (bkptParts f)
  | .halt _ f => some (haltParts f)
  | .yield _ f => some (yieldParts f)
  | .tlbinv _ f => some (tlbinvParts f)
  | .icinv _ f => some (icinvParts f)
  | .kill _ f => some (killParts f)
  | .trap _ f => some (trapParts f)
  | .vshrink _ f => some (vshrinkParts f)
  | .vgrow _ f => some (vgrowParts f)
  | .smir _ f => some (smirParts f)
  | .vadd _ u f => some (vaddParts u f)
  | .vsub _ u f => some (vsubParts u f)
  | .vmul _ u f => some (vmulParts u f)
  | .vmulh _ u f => some (vmulhParts u f)
  | .vmad _ u f => some (vmadParts u f)
  | .vmsb _ u f => some (vmsbParts u f)
  | .vdiv _ f => some (vdivParts f)
  | .vrcp _ u f => some (vrcpParts u f)
  | .vrsq _ u f => some (vrsqParts u f)
  | .vsqrt _ u f => some (vsqrtParts u f)
  | .vmin _ u f => some (vminParts u f)
  | .vmax _ u f => some (vmaxParts u f)
  | .vabs _ u f => some (vabsParts u f)
  | .vneg _ u f => some (vnegParts u f)
  | .vavg _ u f => some (vavgParts u f)
  | .vand _ u f => some (vandParts u f)
  | .vor _ u f => some (vorParts u f)
  | .vxor _ u f => some (vxorParts u f)
  | .vandn _ u f => some (vandnParts u f)
  | .vshl _ u f => some (vshlParts u f)
  | .vshr _ u f => some (vshrParts u f)
  | .vsra _ u f => some (vsraParts u f)
  | .vpopc _ u f => some (vpopcParts u f)
  | .vclz _ u f => some (vclzParts u f)
  | .vceq _ u f => some (vceqParts u f)
  | .vcne _ u f => some (vcneParts u f)
  | .vclt _ u f => some (vcltParts u f)
  | .vcle _ u f => some (vcleParts u f)
  | .vcun _ u f => some (vcunParts u f)
  | .vsel _ u f => some (vselParts u f)
  | .vmov _ u f => some (vmovParts u f)
  | .vaddi _ u f => some (vaddiParts u f)
  | .vshli _ u f => some (vshliParts u f)
  | .vshri _ u f => some (vshriParts u f)
  | .vsrai _ u f => some (vsraiParts u f)
  | .vandi _ u f => some (vandiParts u f)
  | .vsplat _ u f => some (vsplatParts u f)
  | .vsplati _ u f => some (vsplatiParts u f)
  | .vext _ u f => some (vextParts u f)
  | .vins _ u f => some (vinsParts u f)
  | .vredadd _ u f => some (vredaddParts u f)
  | .vredmax _ u f => some (vredmaxParts u f)
  | .vredmin _ u f => some (vredminParts u f)
  | .vredand _ u f => some (vredandParts u f)
  | .vredor _ u f => some (vredorParts u f)
  | .vdot4 _ u f => some (vdot4Parts u f)
  | .vshuf _ u f => some (vshufParts u f)
  | .vslide _ u f => some (vslideParts u f)
  | .vrotl _ u f => some (vrotlParts u f)
  | .vzip _ u f => some (vzipParts u f)
  | .vunzip _ u f => some (vunzipParts u f)
  | .mpush _ f => some (mpushParts f)
  | .minv _ f => some (minvParts f)
  | .mpop _ f => some (mpopParts f)
  | .mand _ f => some (mandParts f)
  | .mor _ f => some (morParts f)
  | .mnot _ f => some (mnotParts f)
  | .mcpy _ f => some (mcpyParts f)
  | .mcnt _ f => some (mcntParts f)
  | .vcvt _ f => some (vcvtParts f)
  | .vnarrow _ f => some (vnarrowParts f)
  | .vwiden _ f => some (vwidenParts f)
  | .vqntScale _ f => some (vqntScaleParts f)
  | .vqnt _ f => some (vqntParts f)
  | .vdqnt _ f => some (vdqntParts f)
  | .vdsenc _ f => some (vdsencParts f)
  | .vdsmul _ f => some (vdsmulParts f)
  | .mdsa _ f => some (mdsaParts f)
  | .mdsb _ f => some (mdsbParts f)
  | .mdsk _ f => some (mdskParts f)
  | .mdss _ f => some (mdssParts f)
  | .mma _ f => some (mmaParts f)
  | .mmaz _ f => some (mmazParts f)
  | .mmac _ f => some (mmacParts f)
  | .mmar _ f => some (mmarParts f)
  | .mfret _ f => some (mfretParts f)
  | .mfretr _ f => some (mfretrParts f)
  | .mpark _ f => some (mparkParts f)
  | .munpark _ f => some (munparkParts f)
  | .mmerge _ f => some (mmergeParts f)
  | .mdrain _ f => some (mdrainParts f)
  | .mfclr _ f => some (mfclrParts f)
  | .mzero _ f => some (mzeroParts f)
  | .mrdv _ f => some (mrdvParts f)
  | .mwrv _ f => some (mwrvParts f)
  | .mdrainp _ f => some (mdrainpParts f)
  | .msts _ f => some (mstsParts f)
  | .mstat _ f => some (mstatParts f)
  | .ld _ f => some (ldParts f)
  | .ldaq _ f => some (ldaqParts f)
  | .ldf _ f => some (ldfParts f)
  | .ldv _ f => some (ldvParts f)
  | .ldvs _ f => some (ldvsParts f)
  | .ldvx _ f => some (ldvxParts f)
  | .ldvb _ f => some (ldvbParts f)
  | .qpop _ f => some (qpopParts f)
  | .ldt _ f => some (ldtParts f)
  | .ldvt _ f => some (ldvtParts f)
  | .st _ f => some (stParts f)
  | .strl _ f => some (strlParts f)
  | .stf _ f => some (stfParts f)
  | .stv _ f => some (stvParts f)
  | .stvs _ f => some (stvsParts f)
  | .stvx _ f => some (stvxParts f)
  | .qpush _ f => some (qpushParts f)
  | .amoadd _ f => some (amoaddParts f)
  | .amomin _ f => some (amominParts f)
  | .amomax _ f => some (amomaxParts f)
  | .amominu _ f => some (amominuParts f)
  | .amomaxu _ f => some (amomaxuParts f)
  | .amoand _ f => some (amoandParts f)
  | .amoor _ f => some (amoorParts f)
  | .amoxor _ f => some (amoxorParts f)
  | .amoswap _ f => some (amoswapParts f)
  | .amocas _ f => some (amocasParts f)
  | .amofadd _ f => some (amofaddParts f)
  | .cdset _ f => some (cdsetParts f)
  | .cdfmt _ f => some (cdfmtParts f)
  | .cpy _ f => some (cpyParts f)
  | .cpym _ f => some (cpymParts f)
  | .cpyr _ f => some (cpyrParts f)
  | .chain _ f => some (chainParts f)
  | .cpyw _ f => some (cpywParts f)
  | .lxfer _ f => some (lxferParts f)
  | .lxred _ f => some (lxredParts f)
  | .xamo _ f => some (xamoParts f)
  | .cabort _ f => some (cabortParts f)
  | .tkwait p f => some (tkwaitParts p f)
  | .tkpost p f => some (tkpostParts p f)
  | .tkclr p f => some (tkclrParts p f)
  | .bara p f => some (baraParts p f)
  | .barw p f => some (barwParts p f)
  | .barx p f => some (barxParts p f)
  | .drain p f => some (drainParts p f)
  | .fence p f => some (fenceParts p f)
  | .brel p f => some (brelParts p f)
  | .bacq p f => some (bacqParts p f)
  | .chkeq p f => some (chkeqParts p f)
  | .chkv p f => some (chkvParts p f)
  | .chka p f => some (chkaParts p f)
  | .vote p f => some (voteParts p f)
  | .racq p f => some (racqParts p f)
  | .rrel p f => some (rrelParts p f)
  | .reos p f => some (reosParts p f)
  | .slack p f => some (slackParts p f)
  | .twait p f => some (twaitParts p f)
  | .phase p f => some (phaseParts p f)
  | .tevt p f => some (tevtParts p f)
  | .uien p f => some (uienParts p f)
  -- END PARTS
  | _ => none

/-- The operations of a bundle, in slot order: a slot whose opcode is 0 or not assigned fails its check (R76, R77, R89). -/
def partsIn (b : Bundle) : List Parts :=
  b.ops.map fun (k, w) =>
    match decodeSlot k b.pfx w with
    | some i => (partsOf i).getD (Parts.unassigned k w)
    | none => if opOf w = 0 then Parts.junk k w else Parts.unassigned k w

/-! ## Fetching -/

/-- What a fetch finds: a bundle, a block that is not resident (R71), one that a fill could not read, an index outside the image
(R72), an uncorrectable sector of the instruction store. -/
inductive Fetch where
  | words (ws : List W64)
  | missing
  | unfilled (b : Nat)
  | outside
  | bad (pa : Nat)
  deriving DecidableEq, Repr

/-- The outermost active level whose body holds the pc: its place among the open levels, and the level (R118). -/
def Ctx.outer (c : Ctx) : Option (Nat × Loop) :=
  match c.loops.findIdx? fun l => c.active l with
  | none => none
  | some n => match c.loops[n]? with
    | some l => if l.loopPc < c.pc ∧ c.pc ≤ l.last then some (n, l) else none
    | none => none

/-- The bundle at the pc in the loop buffer. -/
def Ctx.buffered (c : Ctx) : Option (List W64) := c.outer.bind fun x => sget? x.2.buf c.pc

/-- The physical address of the bundle at the pc of a context, and where the instruction store holds it. -/
def bundlePa (s : State) (ck : Nat) : Nat := (curImage s ck).1 + 64 * (s.ctx ck).pc
def storePa (s : State) (ck : Nat) : Option Nat :=
  (blockSlot (s.core (ckCore ck)) (blockOf (bundlePa s ck))).map fun i =>
    winBase (ckCore ck) + 0x600000 + 4096 * i + bundlePa s ck % 4096

/-- Fetch the bundle at the pc (R70 to R72): from the loop buffer, else from the instruction store. -/
def fetchNew (s : State) (ck : Nat) : Fetch :=
  let c := s.ctx ck
  if (curImage s ck).2 ≤ c.pc then .outside
  else match c.buffered with
    | some ws => .words ws
    | none => match storePa s ck with
      | none => if c.fillBad = some (blockOf (bundlePa s ck)) then .unfilled (blockOf (bundlePa s ck)) else .missing
      | some a => if s.readBad a 64 then .bad a else .words (slotWords 8 (s.mem.readBytes a 64))

/-- The bundle that issues next: the one fetched already, which issues unchanged (R107), or a new one. -/
def fetch (s : State) (ck : Nat) : Fetch :=
  match (s.ctx ck).fetched with
  | some ws => .words ws
  | none => fetchNew s ck

/-- Note a fetch: the context keeps the bundle until it issues (R107), its block becomes the most recently fetched (R71), the bundle
enters the loop buffer (R118), and the correctable errors it read are recorded (R327). -/
def noteFetch (s0 : State) (ck : Nat) (ws : List W64) : State :=
  let c := s0.ctx ck
  let s := s0.modCtx ck fun c => { c with fetched := some ws }
  if c.fetched.isSome then s0
  else match c.buffered with
  | some _ => s
  | none =>
    let b := blockOf (bundlePa s ck)
    let s1 := match storePa s ck with
      | some a => s.noteRead a 64
      | none => s
    let s2 := s1.modCore (ckCore ck) fun k =>
      { k with istore := (k.istore.filter fun (x : Nat × Nat) => x.2 != b) ++ k.istore.filter fun (x : Nat × Nat) => x.2 == b }
    match c.outer with
    | none => s2
    | some (n, l) => s2.modCtx ck fun c => { c with loops := lset c.loops n { l with buf := sput l.buf c.pc ws } }

/-- The trap of a fetch outside the image: TVAL is the index (R72). -/
def outsideTrap (c : Ctx) : TrapInfo :=
  { cause := 0x0A, own := 0, tok := 0, isAsync := false, slots := 0, value := BitVec.ofNat 64 c.pc }

/-- The trap of a fetch that meets an uncorrectable sector of the instruction store (log entry 33). -/
def badTrap (pa : Nat) : TrapInfo :=
  { cause := 0x0F, own := 0, tok := 0, isAsync := false, slots := 0, value := BitVec.ofNat 64 pa }

/-! ## The context that issues (R108) -/

/-- The next bundle of a context waits. -/
def heldNext (s : State) (ck : Nat) : Bool :=
  match fetch s ck with
  | .words ws =>
    let b := bundleOf ws
    let ops := partsIn b
    (bundleHeld (envOf s ck b.pfx ops none) ops).isSome
  | .missing => true
  | .unfilled _ | .outside | .bad _ => false

/-- The next bundle of a context misses the translation cache at an address whose walk is not yet asked for. -/
def newWalk (s : State) (ck : Nat) : Bool :=
  match fetch s ck with
  | .words ws =>
    let b := bundleOf ws
    let ops := partsIn b
    match bundleHeld (envOf s ck b.pfx ops none) ops with
    | some (.walk va cp) => (s.ctx ck).walkVa != some (va, cp)
    | _ => false
  | .missing | .unfilled _ | .outside | .bad _ => false

/-- A step trap is due (R326). -/
def Ctx.stepReady (c : Ctx) : Bool := c.stepDue.isSome && c.tl == 0

/-- The context can take the core: its bundle has not been tried, or waits for nothing, or asks for a new walk. -/
def canTake (s : State) (ck : Nat) : Bool :=
  let s1 := settle s ck
  let c := s1.ctx ck
  c.live && (c.st == .ready || c.stalled || c.stepReady || !heldNext s1 ck || newWalk s1 ck)

/-- The context that issues in this cycle: the active one, or else the next in rotation order that can. -/
def holder (s : State) (k : Nat) : Option Nat :=
  let c := s.core k
  match c.active with
  | some x => some (k * 4 + x)
  | none => ((List.range 4).map fun i => k * 4 + (c.lastActive + 1 + i) % 4).find? fun ck => canTake s ck

/-- A context has the core: it takes it, and where another has handed it on by YIELD the dead cycle of a switch passes (R106, R108,
R163). -/
def passOn (s : State) (k ck : Nat) : State :=
  if (s.core k).active = some (ckCtx ck) then s
  else
    (s.modCore k fun c =>
      { c with active := some (ckCtx ck), lastActive := ckCtx ck, yielded := false
               cycle := if c.yielded && ckCtx ck != c.lastActive then c.cycle + 1 else c.cycle }).modCtx ck fun c => { c with st := .active }

/-! ## Events before a bundle (R308) -/

/-- The member of a consort runs a handler of its own (R317, R319). -/
def Ctx.inHandler (c : Ctx) : Bool := c.tl != 0 || c.ui.inh

/-- The context that a step names, at a bundle boundary (R308): it has the core, and its bundle can issue. The members of a consort
are at a boundary of their own only in a handler (R317). -/
def atBoundary (s : State) (ck : Nat) : Bool :=
  let c := s.ctx ck
  c.live && !c.stalled && holder s (ckCore ck) == some ck && ((s.core (ckCore ck)).consort.isNone || c.inHandler)

/-- The context that an event names, and the state with its landed results (R109). -/
def boundaryOf (s : State) : Nat × State :=
  let a := s.focus.arg
  let ck := ctxKey a.pos a.core a.ctx
  (ck, settle s ck)

/-- The state in which a context at a boundary acts: it has the core. -/
def atCore (s : State) (ck : Nat) : State := passOn s (ckCore ck) ck

/-- TRAP_ASYNC (R308, R316): the oldest asynchronous fault that has arrived is taken before the next bundle. -/
def execTrapAsync (s : State) : Out :=
  let (ck, s1) := boundaryOf s
  if atBoundary s1 ck ∧ !(s1.ctx ck).stepReady ∧ !heldNext s1 ck then .next (takeAsync (atCore s1 ck) ck) else .next s

/-- The next bundle raises a synchronous trap of its own, a fetch that fails included. -/
def trapsNext (s : State) (ck : Nat) : Bool :=
  match fetch s ck with
  | .words ws =>
    let b := bundleOf ws
    let ops := partsIn b
    (bundleTrap (envOf s ck b.pfx ops none) ops).isSome
  | .missing | .unfilled _ | .outside | .bad _ => true

/-- USER_INTERRUPT (R319): delivered before a bundle where nothing earlier in the order of R308 applies. -/
def execUserInterrupt (s : State) : Out :=
  let (ck, s1) := boundaryOf s
  let c := s1.ctx ck
  if atBoundary s1 ck ∧ c.userReady ∧ !c.stepReady ∧ !heldNext s1 ck ∧ c.async = [] ∧ !trapsNext s1 ck ∧ !preemptPoint s1 ck then
    .next (enterUser (atCore s1 ck) ck)
  else .next s

/-- STEP_TRAP (R326). -/
def execStepTrap (s : State) : Out :=
  let (ck, s1) := boundaryOf s
  if atBoundary s1 ck ∧ (s1.ctx ck).stepReady then .next (takeStep (atCore s1 ck) ck) else .next s

end Sys2Proof.Machine
end

