-- ==== Sys2Proof/Machine/Zml.lean ====
section
/-!
DEFINITION. ZML messages as bytes: header, payload and trailer, their checks, and what an error on the wire makes of them (R297, R301).
-/
namespace Sys2Proof.Machine
open Sys2Proof

/-! ## Checks -/

/-- CRC-8 with the polynomial x^8 + x^2 + x + 1 from 0 (Table 14-3). -/
def crc8Bit (c : BitVec 8) : BitVec 8 := (c <<< 1) ^^^ (if c.msb then 7 else 0)
def crc8Byte (c : BitVec 8) (b : Byte) : BitVec 8 :=
  crc8Bit (crc8Bit (crc8Bit (crc8Bit (crc8Bit (crc8Bit (crc8Bit (crc8Bit (c ^^^ b))))))))
def crc8 (bs : List Byte) : BitVec 8 := bs.foldl crc8Byte 0

/-- The part of CRC-32C that a difference of two messages of one length leaves: the register from 0, without the final XOR. -/
def crcLin (bs : List Byte) : Nat := bs.foldl crcByte 0

/-! ## The message (R297) -/

/-- The data that an operation carries as its payload. -/
def ZOp.payload (op : ZOp) : List Byte :=
  match op with
  | .write _ bs _ _ => bs
  | .resp _ bs _ => bs
  | .lx _ bs _ _ _ _ _ => bs
  | .mirror _ bs => bs
  | .peer _ _ _ _ _ _ _ cells => cells.flatMap fun c => leBytes 4 c
  | .read _ _ _ | .amo _ _ _ _ _ _ | .token _ _ _ _ | .cancel _ _ _ _ | .post _ | .obj _ | .refuse _ _ | .peerRes _ _ _ _ =>
    Config.zmlBody op

/-- LEN: the payload in 16-byte units. -/
def lenUnits (bs : List Byte) : Nat := (bs.length + 15) / 16

/-- The agent that an address names: the logical core whose window it is, 0 for the other blocks of a chiplet. -/
def agentOfPa (s : State) (pa : Nat) : Nat := if pa < 0x2000000000 then 0 else logicalCore s (coreKey (bitsOf pa 37 36) (bitsOf pa 35 24)) * 2 ^ 16

/-- The agent that a context is: its logical core and its number. -/
def agentOfCtx (s : State) (ck : Nat) : Nat := logicalCore s (ckCore ck) * 2 ^ 16 + ckCtx ck * 2 ^ 14

/-- AGENT of an operation (Table 14-3; log entry 120). -/
def ZOp.agent (s : State) (op : ZOp) : Nat :=
  match op with
  | .write pa _ _ _ | .read pa _ _ | .amo pa _ _ _ _ _ | .lx pa _ _ _ _ _ _ | .peer _ _ _ pa _ _ _ _ => agentOfPa s pa
  | .obj m => agentOfPa s m.addr
  | .refuse m _ => agentOfCtx s m.ck
  | .post p => agentOfCtx s p.ck
  | .peerRes ck _ _ _ => agentOfCtx s ck
  | .resp (.acc ck _ _) _ _ => agentOfCtx s ck
  | .resp (.copy k _ _) _ _ | .resp (.eng k _ _) _ _ => logicalCore s k * 2 ^ 16
  | .resp (.mir _ _ _) _ _ | .resp .none _ _ | .token _ _ _ _ | .cancel _ _ _ _ | .mirror _ _ => 0

/-- A header (Table 14-3). -/
def zmlHeader (src dst cls seq kind len agent cts : Nat) : List Byte :=
  let w0 := src % 4 * 2 ^ 62 + dst % 4 * 2 ^ 60 + cls % 16 * 2 ^ 56 + seq % 2 ^ 16 * 2 ^ 40 + kind % 256 * 2 ^ 32 + len % 512 * 2 ^ 23
    + agent % 2 ^ 23
  let h := leBytes 8 w0 ++ leBytes 7 (cts % 2 ^ 48)
  h ++ [crc8 h]

/-- A message: header, payload in 16-byte units, and the trailer with the CRC-32C. -/
def zmlBytes (src dst cls seq kind agent cts : Nat) (payload : List Byte) : List Byte :=
  let n := lenUnits payload
  let m := zmlHeader src dst cls seq kind n agent cts ++ payload ++ List.replicate (16 * n - payload.length) 0
  m ++ leBytes 16 (crc32c m)

/-- The bytes of a transmission, and of a class-7 message. -/
def wireBytes (s : State) (src dst cls : Nat) (w : ZWire) : List Byte :=
  zmlBytes src dst cls w.seq (Config.zmlKind w.op).toNat (w.op.agent s) w.cts w.op.payload
def ackBytes (src dst : Nat) (a : AckMsg) : List Byte :=
  zmlBytes src dst 7 a.seq (bit01 a.nak * 128 + a.cls % 16) 0 a.cts (Config.zmlAckBody a)

/-! ## Arrival -/

/-- What a receiver finds in a message that errors on the wire have changed (Table 14-5): it is intact; it is discarded, without a NAK or with
one for a class; or the errors escape both checks, which the model leaves out (log entry 113). -/
inductive Arrival where
  | good
  | discard
  | nak (cls : Nat)
  | escapes
  deriving DecidableEq, Repr

/-- What the errors `e`, a pattern over the message's bytes, make of a message of a class with `len` units of payload. Both checks are
linear, so that the pattern alone decides whether they pass (`zml_checks`). -/
def arrival (cls len : Nat) (e : List Byte) : Arrival :=
  if e.all (· == 0) then .good
  else
    let part := fun i n : Nat => (List.range n).map fun j => e.getD (i + j) 0
    let n := 16 + 16 * len
    let c := cls % 16 ^^^ (e.getD 7 0).toNat % 16
    if crc8 (part 0 15) ≠ e.getD 15 0 then .discard
    else if 8 ≤ c then .discard
    else if crcLin (part 0 n) ≠ leValue (part n 4) then if c = 7 then .discard else .nak c
    else if (part 0 n).all (· == 0) then .good
    else .escapes

end Sys2Proof.Machine
end

