-- ==== Sys2Proof/Machine/Links.lean ====
section
/-!
DEFINITION. The links between chiplets: delivery of ZML messages exactly once, their failure, and the state of a link (R294
to R307, R380, R381).
-/
namespace Sys2Proof.Machine
open Sys2Proof

/-! ## Links -/

/-- Change the link of chiplet `pos` to `peer`. -/
def modLink (s : State) (pos peer : Nat) (f : Link → Link) : State :=
  s.modChip pos fun c => { c with links := sput c.links peer (f (sget Link.reset c.links peer)) }

def modTx (s : State) (pos dst cls : Nat) (f : TxStream → TxStream) : State :=
  s.modChip pos fun c => { c with tx := sput c.tx (dst * 8 + cls) (f (sget TxStream.reset c.tx (dst * 8 + cls))) }

def modRx (s : State) (pos src cls : Nat) (f : RxStream → RxStream) : State :=
  s.modChip pos fun c => { c with rx := sput c.rx (src * 8 + cls) (f (sget RxStream.reset c.rx (src * 8 + cls))) }

def State.rxOf (s : State) (pos src cls : Nat) : RxStream := sget RxStream.reset (s.chip pos).rx (src * 8 + cls)

/-- Saturating counters of LKSTAT and LKCNT. -/
def up8 (n : Nat) : Nat := Nat.min 0xFF (n + 1)
def up16 (n : Nat) : Nat := Nat.min 0xFFFF (n + 1)

/-- Two different chiplets. -/
def linkOk (pos peer : Nat) : Bool := decide (pos < 4) && decide (peer < 4) && pos != peer

/-! ## Executing a message (Table 14-4) -/

/-- A party of a barrier that no NODE of its chiplet is: the sender of bytes from another one (R320). -/
def farParty : Nat := 2 ^ 20

/-- Copy bytes that have landed in a scratchpad are credited at the core (R277, R306). -/
def creditAt (s : State) (pa n : Nat) : State :=
  match placeOf s 0 pa with
  | .window _ off => if areaOf off = .pad then credit s pa n farParty else s
  | .dram _ | .chipCtl _ _ | .host _ | .held _ _ _ | .hole => s

/-- The elements of a reduction, added one by one from the first (R305). -/
def lxSum (f : Flt) (w : Nat) : Nat → Nat → Nat → Nat × BitVec 7
  | 0, _, _ => (0, 0)
  | n + 1, x, d =>
    let (v, g) := FOp.add.el f { rm := 0, fi := false, fo := false, sat := false } (x % 2 ^ w) (d % 2 ^ w) 0
    let (r, h) := lxSum f w n (x / 2 ^ w) (d / 2 ^ w)
    (v + 2 ^ w * r, g ||| h)

/-- The format of an element format code of a link reduction (R217). -/
def lxFlt (ef : Nat) : Flt := if ef = 0x0D then f16 else if ef = 0x0E then bf16 else f32

/-- A chunk at its destination: written, or added element by element (R305), and credited (R306); with `keep` the bytes of a younger
copy stay (R221). -/
def lxChunk (s : State) (pos pa : Nat) (bs : List Byte) (ef : Nat) (red node keep : Bool) : State × BitVec 7 × Bool :=
  let pl := placeOf s pos pa
  if keep then (creditAt s pa bs.length, 0, true)
  else if !red then
    let (s1, ok) := memStore s pos pl pa bs node
    (if ok then creditAt s1 pa bs.length else s1, 0, ok)
  else
    match memLoad s pl pa bs.length with
    | (none, s1) => (s1, 0, false)
    | (some old, s1) =>
      let f := lxFlt ef
      let (v, fl) := lxSum f f.width (8 * bs.length / f.width) (leValue bs) (leValue old)
      let (s2, ok) := memStore s1 pos pl pa (leBytes bs.length v) node
      (if ok then creditAt s2 pa bs.length else s2, fl, ok)

/-- Whether a read's waiter still waits: its access, chunk or operand has not been answered, and has not failed. -/
def stillWaits (s : State) (tag : Tag) : Bool :=
  match tag with
  | .acc ck id j => (s.ctx ck).outst.any fun a => a.id == id && a.sent.contains j
  | .copy k id j => match (s.core k).copy? id with
    | some o => match o.chunks[j]? with
      | some c => c.stage == 0 || c.stage == 3 || c.stage == 5
      | none => false
    | none => false
  | .eng k id n => ((s.core k).eng? id).any fun o => o.outs.contains n
  | .mir _ _ _ => false
  | .none => false

/-- The read fails, or what a message carried could not be delivered, with a cause (R300, R380). -/
def waiterFails (s : State) (tag : Tag) (cause : Nat) : State :=
  match tag with
  | .acc ck id j => pieceDone s ck id j none 0 cause
  | .copy k id j => copyFailed s k id j cause
  | .eng k id n => engFailed s k id n cause
  | .mir pos gid ct => mirrorPart s pos gid ct false
  | .none => s

/-- A read's data reach the requester (R380). -/
def deliver (s : State) (tag : Tag) (bs : List Byte) (ok : Bool) : State :=
  if !stillWaits s tag then s
  else if !ok then waiterFails s tag 0x0F
  else match tag with
    | .acc ck id j => pieceDone s ck id j (some bs) 0 0
    | .copy k id j => copyBytes s k id j bs
    | .eng k id n => engGot s k id n { bytes := bs, cause := 0, sector := none }
    | .mir _ _ _ => s
    | .none => s

/-- The refusal of an operation on an object of another core reaches its context: an asynchronous cause (R276). A request that waits for
an answer has it. -/
def objRefusal (s : State) (m : ObjMsg) (cause : Nat) : State :=
  let s1 := s.modCtx m.ck fun c =>
    { c with objReq := c.objReq.map fun (r, a) => if r.id = m.id ∧ 4 ≤ m.op ∧ a.isNone then (r, some false) else (r, a) }
  pushAsync s1 m.ck { cause := cause, own := 0, tok := 0, slots := 0x80, value := m.va, rp := none, id := m.id, bundle := some m.bundle
                      cy := 0 }

/-- The answer to a request reaches its context (R259); one that has been withdrawn meanwhile gives its stage back (R309). -/
def reqAnswered (s : State) (m : ObjMsg) : State :=
  if (s.ctx m.ck).objReq.any fun x => x.1.id == m.id then
    s.modCtx m.ck fun c => { c with objReq := c.objReq.map fun x => ({ x.1 with direct := m.direct, cnt := m.cnt }, some m.direct) }
  else if m.direct then { s with objMsgs := s.objMsgs ++ [{ m with op := 6 }] }
  else s

/-- An operation on a barrier or ring has reached its home core (R259, R276, R324): it waits there, is refused, or is carried out; a
withdrawal takes effect at once; or an answer has reached its context. -/
def objArrives (s : State) (m : ObjMsg) : State :=
  let k := homeCore m.addr
  if m.op = 6 then withdrawReq s m
  else if m.op = 7 then reqAnswered s m
  else if objWaits s m.addr ∨ (s.core k).waitObjs.any fun w => w.addr == m.addr then
    s.modCore k fun c => { c with waitObjs := c.waitObjs ++ [m] }
  else
    let (s1, r) := performObj s m
    match r with
    | none => s1
    | some c =>
      if corePos k = ckPos m.ck then objRefusal s1 m c else queueMsg s1 (corePos k) (ckPos m.ck) 4 (.refuse m c) .none

/-- Execute an operation at chiplet `pos` that chiplet `src` sent: what the acknowledgement carries. -/
def executeMsg (s : State) (pos src : Nat) (op : ZOp) : State × W64 × BitVec 7 × Bool :=
  match op with
  | .write pa bs node copy =>
    let (s1, ok) := memStore s pos (placeOf s pos pa) pa bs node
    (if ok && copy then creditAt s1 pa bs.length else s1, 0, 0, ok)
  | .read pa n tag =>
    match memLoad s (placeOf s pos pa) pa n with
    | (some bs, s1) => (queueMsg s1 pos src 2 (.resp tag bs true) .none, 0, 0, true)
    | (none, s1) => (queueMsg s1 pos src 2 (.resp tag [] false) .none, 0, 0, true)
  | .resp tag bs ok =>
    let s1 := deliver s tag bs ok
    (s1.modChip pos fun c => { c with waitResp := c.waitResp.filter fun w => w.tag != tag }, 0, 0, true)
  | .amo pa o n x e node =>
    match memAmo s pos (placeOf s pos pa) pa o n x e node with
    | (some m, s1) =>
      (s1, BitVec.ofNat 64 m, (amoNew o (8 * n) m (x.toNat % 2 ^ (8 * n)) (e.toNat % 2 ^ (8 * n))).2, true)
    | (none, s1) => (s1, 0, 0, false)
  | .token gid idx slot w =>
    (modGe s pos fun g => { g with tokQ := g.tokQ ++ [{ gid := gid, idx := idx, slot := slot, src := w }] }, 0, 0, true)
  | .cancel gid idx w retry => (modGe s pos fun g => { g with walkQ := g.walkQ ++ [.cancel gid idx w retry] }, 0, 0, true)
  | .post p => (if (s.ctx p.ck).st = .idle then s else fireUp s p.ck p.tok, 0, 0, true)
  | .obj m => (objArrives s m, 0, 0, true)
  | .refuse m c => (objRefusal s m c, 0, 0, true)
  | .lx pa bs ef red wl node keep =>
    let bs1 := match wl with
      | some n => wlUnpack ef n n bs
      | none => bs
    let (s1, fl, ok) := lxChunk s pos pa bs1 ef red node keep
    (s1, 0, fl, ok)
  | .peer ck id bundle pa cidx part isInt cells => (peerPart s ck id bundle pa cidx part isInt cells, 0, 0, true)
  | .peerRes ck id code fl => (peerOutcome s ck id code fl, 0, 0, true)
  | .mirror pa bs =>
    let (s1, ok) := mirrorStore s pa bs
    (s1, 0, 0, ok)

/-! ## The receiver (R301, Table 14-5) -/

/-- Put a class-7 message toward `peer` on the wire. -/
def sendAck (s : State) (pos peer : Nat) (a : AckMsg) : State :=
  s.modChip pos fun c => { c with acks := sput c.acks peer (sget [] c.acks peer ++ [{ a with cts := c.ct }]) }

/-- The next message of (SRC, CLASS) arrives intact. -/
def receive (s : State) (pos src cls seq : Nat) (op : ZOp) : State :=
  let r := s.rxOf pos src cls
  let back := (r.e + 65536 - seq) % 65536
  if seq = r.e then
    let (s1, old, fl, ok) := executeMsg s pos src op
    let a : AckMsg := { cls := cls, seq := seq, nak := false, old := old, fl := fl, ok := ok, cts := 0 }
    let s2 := modRx s1 pos src cls fun r =>
      { r with e := (r.e + 1) % 65536, window := (r.window ++ [a]).drop (r.window.length + 1 - 64), nak := false, gap := false }
    sendAck s2 pos src a
  else if 1 ≤ back ∧ back ≤ 64 then
    let a := (r.window.find? fun a => a.seq == seq).getD
      { cls := cls, seq := seq, nak := false, old := 0, fl := 0, ok := true, cts := 0 }
    sendAck (modLink s pos src fun l => { l with dup := up16 l.dup }) pos src a
  else if r.nak || r.gap then s
  else
    let s1 := modLink s pos src fun l => { l with gaps := up8 l.gaps }
    evidence (modRx s1 pos src cls fun r => { r with gap := true }) pos src 0 none

/-- Take the next transmission of a class off the wire to `pos` from `peer`: its units of payload, what the receiver does with it
intact, and the state without it. A class-7 message that arrives intact is left for the steps that receive one. -/
def takeWire (s : State) (pos peer cls : Nat) : Option (Nat × Option ZWire × State) :=
  if cls = 7 then
    match sget [] (s.chip peer).acks pos with
    | [] => none
    | a :: r => some (lenUnits (Config.zmlAckBody a), none, s.modChip peer fun c => { c with acks := sput c.acks pos r })
  else match (s.txOf peer pos cls).wire with
    | [] => none
    | w :: r => some (lenUnits w.op.payload, some w, modTx s peer pos cls fun t => { t with wire := r })

/-- A message that fails a check is discarded and counted, and a NAK names E of a class where none is outstanding (Table 14-5). -/
def badMsg (s : State) (pos peer : Nat) (nak : Option Nat) : State :=
  let s1 := modLink s pos peer fun l => { l with e2ee := up16 l.e2ee }
  match nak with
  | none => s1
  | some c =>
    let r := s.rxOf pos peer c
    if r.nak then s1
    else sendAck (modRx s1 pos peer c fun r => { r with nak := true }) pos peer
      { cls := c, seq := r.e, nak := true, old := 0, fl := 0, ok := true, cts := 0 }

/-- ZML_RECEIVE (R301): the next transmission of class `cls` from `peer` arrives, with the errors `bytes`. A closed link's messages are
discarded (R336). -/
def execZmlReceive (s : State) : Out :=
  let a := s.focus.arg
  let l := s.link a.pos a.peer
  if !linkOk a.pos a.peer ∨ 7 < a.cls ∨ l.st = 0 ∨ l.st = 1 then .next s
  else match takeWire s a.pos a.peer a.cls with
    | none => .next s
    | some (n, w, s1) =>
      if l.st = 3 then .next s1
      else match arrival a.cls n a.bytes with
        | .good => match w with
          | some w => .next (receive s1 a.pos a.peer a.cls w.seq w.op)
          | none => .next s
        | .discard => .next (badMsg s1 a.pos a.peer none)
        | .nak c => .next (badMsg s1 a.pos a.peer (some c))
        | .escapes => .next s

/-! ## The sender (R299, R300, R302) -/

/-- Messages that waited go out as acknowledgements make room (R299). -/
def refillTx : Nat → State → Nat → Nat → Nat → State
  | 0, s, _, _, _ => s
  | n + 1, s, pos, dst, cls =>
    match (s.txOf pos dst cls).wait with
    | [] => s
    | (op, tag) :: rest =>
      if canSend s pos dst cls then
        refillTx n (sendMsg (modTx s pos dst cls fun t => { t with wait := rest }) pos dst cls op tag) pos dst cls
      else s

/-- What the acknowledgement of a message brings to what waits for it. -/
def onAck (s : State) (pos peer : Nat) (m : TxMsg) (a : AckMsg) : State :=
  match m.op with
  | .read _ _ tag =>
    if stillWaits s tag then
      s.modChip pos fun c => { c with waitResp := c.waitResp ++ [{ peer := peer, tag := tag, since := c.ct }] }
    else s
  | .write _ _ _ _ | .amo _ _ _ _ _ _ | .lx _ _ _ _ _ _ _ | .peer _ _ _ _ _ _ _ _ | .mirror _ _ =>
    match m.tag with
    | .eng k id n => engAck s k id n a.ok 0x0F
    | .mir p gid ct => mirrorPart s p gid ct a.ok
    | .acc ck id j =>
      if a.ok then
        let bs := match m.op with
          | .amo _ _ n _ _ _ => leBytes n a.old.toNat
          | _ => []
        pieceDone s ck id j (some bs) a.fl 0
      else pieceDone s ck id j none 0 0x0F
    | .copy k id j => copyAck s k id j a.old a.fl a.ok
    | .none => s
  | .resp _ _ _ | .token _ _ _ _ | .cancel _ _ _ _ | .post _ | .obj _ | .refuse _ _ | .peerRes _ _ _ _ => s

/-- Take the first class-7 message on its way to `pos` from `peer` that is (or is not) a NAK. -/
def takeAck (s : State) (pos peer : Nat) (nak : Bool) : Option (AckMsg × State) :=
  let l := sget [] (s.chip peer).acks pos
  match l with
  | [] => none
  | a :: rest => if a.nak = nak then some (a, s.modChip peer fun c => { c with acks := sput c.acks pos rest }) else none

/-- ZML_ACK_RECEIVE (R302): the next class-7 message from `peer`, an acknowledgement; one for no message held is discarded. -/
def execZmlAckReceive (s : State) : Out :=
  let a := s.focus.arg
  let l := s.link a.pos a.peer
  if !linkOk a.pos a.peer ∨ l.st = 0 ∨ l.st = 1 then .next s
  else match takeAck s a.pos a.peer false with
    | none => .next s
    | some (k, s1) =>
      if l.st = 3 then .next s1
      else match (s1.txOf a.pos a.peer k.cls).unacked.find? fun m => m.seq == k.seq with
        | none => .next s1
        | some m =>
          let s2 := modTx s1 a.pos a.peer k.cls fun t => { t with unacked := t.unacked.filter fun x => x.seq != k.seq }
          .next (refillTx 64 (onAck s2 a.pos a.peer m k) a.pos a.peer k.cls)

/-- Send a message again (R300). -/
def resend (s : State) (pos peer cls seq : Nat) : State :=
  let ct := s.ctOf pos
  let t := s.txOf pos peer cls
  match t.unacked.find? fun m => m.seq == seq with
  | none => s
  | some m =>
    if 3 ≤ m.resends then s
    else
      let s1 := modTx s pos peer cls fun t =>
        { t with unacked := t.unacked.map fun x => if x.seq = seq then { x with resends := x.resends + 1, sent := ct } else x
                 wire := t.wire ++ [{ seq := seq, op := m.op, cts := m.cts }] }
      modLink s1 pos peer fun l => { l with resend := up16 l.resend }

/-- ZML_NAK_RECEIVE (R301): every unacknowledged message of the class goes out again, from the sequence named. -/
def execZmlNakReceive (s : State) : Out :=
  let a := s.focus.arg
  let l := s.link a.pos a.peer
  if !linkOk a.pos a.peer ∨ l.st = 0 ∨ l.st = 1 then .next s
  else match takeAck s a.pos a.peer true with
    | none => .next s
    | some (k, s1) =>
      if l.st = 3 then .next s1
      else
        let ms := (s1.txOf a.pos a.peer k.cls).unacked.filter fun m => decide ((m.seq + 65536 - k.seq) % 65536 < 32768)
        .next (ms.foldl (fun s m => resend s a.pos a.peer k.cls m.seq) s1)

/-- A message has failed (R300): its load, store or atomic traps with cause 0x15, its copy or M operation stops, its mirror is late, a
failed request of a read fails the read; a delivery failure is evidence, unless the link was closed. -/
def failMsg (s : State) (pos peer : Nat) (m : TxMsg) (accuse : Bool) : State :=
  let s1 := match m.op with
    | .read _ _ tag => if stillWaits s tag then waiterFails s tag 0x15 else s
    | .write _ _ _ _ | .amo _ _ _ _ _ _ | .lx _ _ _ _ _ _ _ | .peer _ _ _ _ _ _ _ _ | .mirror _ _ => waiterFails s m.tag 0x15
    | .resp _ _ _ | .token _ _ _ _ | .cancel _ _ _ _ | .post _ | .obj _ | .refuse _ _ | .peerRes _ _ _ _ => s
  if accuse then evidence s1 pos peer 1 (some pos) else s1

/-- ZML_RESEND_TIMEOUT (R300): the message with sequence number `n` has not been acknowledged within 12,000 counts of its last
transmission. -/
def execZmlResendTimeout (s : State) : Out :=
  let a := s.focus.arg
  if !linkOk a.pos a.peer ∨ (s.link a.pos a.peer).st ≠ 2 then .next s
  else match (s.txOf a.pos a.peer a.cls).unacked.find? fun m => m.seq == a.n with
    | none => .next s
    | some m =>
      if s.ctOf a.pos < m.sent + 12000 then .next s
      else if m.resends < 3 then .next (resend s a.pos a.peer a.cls m.seq)
      else
        let s1 := modTx s a.pos a.peer a.cls fun t => { t with unacked := t.unacked.filter fun x => x.seq != m.seq }
        .next (refillTx 64 (failMsg s1 a.pos a.peer m true) a.pos a.peer a.cls)

/-- READ_RESPONSE_TIMEOUT (R380): response number `n` of those awaited has not come within 60,000 counts. -/
def execReadResponseTimeout (s : State) : Out :=
  let a := s.focus.arg
  match (s.chip a.pos).waitResp[a.n]? with
  | none => .next s
  | some w =>
    if (s.link a.pos w.peer).st ≠ 2 ∨ s.ctOf a.pos < w.since + 60000 then .next s
    else
      let s1 := s.modChip a.pos fun c => { c with waitResp := ldel c.waitResp a.n }
      .next (if stillWaits s1 w.tag then waiterFails s1 w.tag 0x15 else s1)

/-! ## The state of a link (R294 to R296) -/

/-- FLIT_REPLAY (R294): invisible to ZML; CRCE is counted. -/
def execFlitReplay (s : State) : Out :=
  let a := s.focus.arg
  if linkOk a.pos a.peer ∧ (s.link a.pos a.peer).st = 2 then
    .next (modLink s a.pos a.peer fun l => { l with crce := up16 l.crce })
  else .next s

/-- LINK_RETRAIN (R295): both ends hold their flits. -/
def execLinkRetrain (s : State) : Out :=
  let a := s.focus.arg
  if linkOk a.pos a.peer ∧ (s.link a.pos a.peer).st = 2 ∧ (s.link a.peer a.pos).st = 2 then
    let go := fun s p q => modLink s p q fun l => { l with st := 1, retrain := up8 l.retrain, since := s.ctOf p }
    .next (go (go s a.pos a.peer) a.peer a.pos)
  else .next s

/-- One end of a link is active again: its timers go on from where they stopped, that of a message first sent meanwhile from now. -/
def linkBack (s : State) (pos peer lanes : Nat) (w32 : Bool) : State :=
  let since := (s.link pos peer).since
  let go := fun t : Nat => t + (s.ctOf pos - Nat.max since t)
  let s1 := modLink s pos peer fun l => { l with st := 2, w32 := w32, repaired := Nat.min 0xFF (l.repaired + lanes) }
  s1.modChip pos fun c =>
    { c with
      tx := c.tx.map fun (k, t) =>
        if k / 8 = peer then (k, { t with unacked := t.unacked.map fun m => { m with sent := go m.sent } }) else (k, t)
      waitResp := c.waitResp.map fun w => if w.peer = peer then { w with since := go w.since } else w }

/-- RETRAIN_COMPLETE (R295): at x64, or at x32 with `flag`, `n` lanes having been repaired. -/
def execRetrainComplete (s : State) : Out :=
  let a := s.focus.arg
  let l := s.link a.pos a.peer
  if linkOk a.pos a.peer ∧ l.st = 1 ∧ (s.link a.peer a.pos).st = 1 ∧ s.ctOf a.pos ≤ l.since + 60000 then
    .next (linkBack (linkBack s a.pos a.peer a.n a.flag) a.peer a.pos a.n a.flag)
  else .next s

/-- The contributions of cores of chiplet `pos` whose outcome chiplet `peer` owes (R253). -/
def peerWaits (s : State) (pos peer : Nat) : List Tag :=
  s.cores.flatMap fun (k, c) => (c.engine.filter fun o =>
    o.op == 0x1B && o.outs.contains 4 && corePos k == pos && placePos pos (placeOf s pos (o.desc.toNat % 2 ^ 46)) == peer).map fun o =>
      .eng k o.id 4

/-- Every message that an end of a link holds fails, and what was on the wire is gone; so does what waits for an outcome. -/
def failLink (s : State) (pos peer : Nat) (accuse : Bool) : State :=
  let c := s.chip pos
  let mine := fun (x : Nat × TxStream) => x.1 / 8 == peer
  let held := (c.tx.filter mine).flatMap fun (_, t) =>
    t.unacked ++ t.wait.map fun (op, tag) => { seq := 0, op := op, tag := tag, resends := 0, sent := 0, cts := 0 }
  let s1 := s.setChip pos
    { c with
      tx := c.tx.map fun x => if mine x then (x.1, { x.2 with unacked := [], wire := [], wait := [] }) else x
      acks := sdel c.acks peer
      waitResp := c.waitResp.filter fun w => w.peer != peer }
  let s2 := held.foldl (fun s m => failMsg s pos peer m accuse) s1
  let s3 := (c.waitResp.filter fun w => w.peer == peer).foldl (fun s w =>
    if stillWaits s w.tag then waiterFails s w.tag 0x15 else s) s2
  (peerWaits s pos peer).foldl (fun s t => if stillWaits s t then waiterFails s t 0x15 else s) s3

/-- LINK_DOWN (R295): a retrain has not succeeded within 60,000 counts; each end accuses the other. -/
def execLinkDown (s : State) : Out :=
  let a := s.focus.arg
  let l := s.link a.pos a.peer
  if linkOk a.pos a.peer ∧ l.st = 1 ∧ l.since + 60000 ≤ s.ctOf a.pos then
    let down := fun s p q => modLink s p q fun l => { l with st := 0 }
    let s1 := down (down s a.pos a.peer) a.peer a.pos
    let s2 := evidence (evidence s1 a.pos a.peer 2 (some a.pos)) a.peer a.pos 2 (some a.peer)
    .next (failLink (failLink s2 a.pos a.peer true) a.peer a.pos true)
  else .next s

end Sys2Proof.Machine
end

