-- ==== Sys2Proof/Machine/Delivery.lean ====
section
/-!
DEFINITION. What happens to an issued operation before it is finished: landing of results, acceptance from the slot queues,
walks of the page tables, invalidation, aborts, posts, and operations on objects that travel (R109, R111, R203 to R206,
R212, R259, R264, R276, R314).
-/
namespace Sys2Proof.Machine
open Sys2Proof

/-- The key of the context that a step's arguments name. -/
def argCk (s : State) : Nat := ctxKey s.focus.arg.pos s.focus.arg.core s.focus.arg.ctx

/-- A step of a context that the package has. -/
def onCtx (s : State) (f : Nat → State) : Out :=
  let a := s.focus.arg
  if unitOk a.pos a.core a.ctx then .next (f (argCk s)) else .next s

/-! ## Results (R109, R314) -/

/-- The write `n` in flight can land: its value has arrived, and a cycle has passed since its acceptance (R109, R111). -/
def mayLand (s : State) (ck n : Nat) : Bool :=
  (s.ctx ck).inflight.any fun w => w.id == n && w.ready && decide (w.from + 1 ≤ s.now ck)

/-- RESULT_LANDING (R109, R110): the 32-bit groups `m` of write `n` land. -/
def execResultLanding (s : State) : Out :=
  onCtx s fun ck =>
    let a := s.focus.arg
    if mayLand s ck a.n then landId s ck a.n (BitVec.ofNat 32 a.m) else s

/-- LATE_WRITE_REPLAY (R314): an entry of the late-write buffer whose level has been left lands whole; one that the handler
overtook is held no longer and lands nowhere. -/
def execLateWriteReplay (s : State) : Out :=
  onCtx s fun ck =>
    let a := s.focus.arg
    if mayLand s ck a.n then landId s ck a.n (BitVec.allOnes 32) else s

/-! ## Slot queues (R111, R114) -/

/-- SLOT_QUEUE_ACCEPT (R111): the unit of slot `m` (0 M, 1 L, 2 T, 3 C) accepts the oldest entry of its queue, where no order of local
accesses holds it and no context of the core has an older one (R112, R114). -/
def execSlotQueueAccept (s : State) : Out :=
  onCtx s fun ck =>
    let c := s.ctx ck
    let u := s.focus.arg.m
    if (c.head? u).isNone ∨ servesOther s ck u (c.head? u) then s
    else match u with
      | 0 => match c.mq with
        | [] => s
        | o :: r => acceptEng (s.modCtx ck fun c => { c with mq := r }) ck o
      | 1 => match c.lq with
        | [] => s
        | a :: r => acceptAccess (s.modCtx ck fun c => { c with lq := r }) ck a
      | 2 => match c.tq with
        | [] => s
        | a :: r => acceptAccess (s.modCtx ck fun c => { c with tq := r }) ck a
      | _ => match c.cq with
        | [] => s
        | o :: r => acceptCopy (s.modCtx ck fun c => { c with cq := r }) ck o

/-! ## Translation (R203, R206) -/

/-- TRANSLATION_WALK (R203): the walker answers the miss for which the context is blocked. -/
def execTranslationWalk (s : State) : Out :=
  onCtx s fun ck =>
    let c := s.ctx ck
    match c.walkVa, c.walkMig with
    | some (va, copy), none => answerWalk s ck va copy s.focus.arg.n
    | _, _ => s

/-- MIGRATION_REWALK (R206): the walk is repeated every 1,500 counts. -/
def execMigrationRewalk (s : State) : Out :=
  onCtx s fun ck =>
    let c := s.ctx ck
    match c.walkVa, c.walkMig with
    | some (va, copy), some (first, last) =>
      let ct := s.ctOf (ckPos ck)
      if last + 1500 ≤ ct ∧ ct < first + 1500000 then
        let s1 := answerWalk (s.modCtx ck fun c => { c with walkMig := some (first, last + 1500) }) ck va copy s.focus.arg.n
        if (s1.ctx ck).walkVa.isNone then s1.modCtx ck fun c => { c with walkMig := none } else s1
      else s
    | _, _ => s

/-- MIGRATION_TIMEOUT (R206): after 1,500,000 counts the access faults with cause 0x09. -/
def execMigrationTimeout (s : State) : Out :=
  onCtx s fun ck =>
    let c := s.ctx ck
    match c.walkVa, c.walkMig with
    | some (va, _), some (first, _) =>
      if first + 1500000 ≤ s.ctOf (ckPos ck) then
        s.modCtx ck fun c => { c with walkVa := none, walkMig := none, walkRes := some (va.toNat, 0x09)
                                      st := if c.st == .blocked then .ready else c.st }
      else s
    | _, _ => s

/-- A cached translation is covered by an invalidation (R165). -/
def TlbInv.covers (t : TlbInv) (e : TlbEnt) : Bool :=
  match t.scope with
  | 0 => e.part == t.part && decide (e.va ≤ t.va) && decide (t.va < e.va + e.size)
  | 1 => e.part == t.part
  | _ => true

/-- The accesses issued, the copies with chunks under way and the operations with pieces under way that may use a translation of the
partitions covered (R205). -/
def tlbUsers (s : State) (t : TlbInv) : List Nat :=
  let hit := fun p : Nat => t.scope == 2 || p == t.part
  (s.ctxs.flatMap fun (_, c) => ((c.outst ++ c.lq ++ c.tq).filter fun a => hit a.part).map (·.id))
    ++ s.cores.flatMap fun (_, c) => (c.copies.filter fun o => o.inFlight && hit o.part).map (·.id)
      ++ (c.engine.filter fun o => o.outs != [] && hit o.part).map (·.id)

/-- An access that has performed, or a copy or an operation with nothing under way. -/
def userDone (s : State) (id : Nat) : Bool :=
  s.ctxs.all (fun (_, c) => (c.outst ++ c.lq ++ c.tq).all fun a => a.id != id)
    && s.cores.all fun (_, c) => c.copies.all (fun o => o.id != id || !o.inFlight) && c.engine.all fun o => o.id != id || o.outs == []

/-- TLBINV_COMPLETE (R165, R205): the covered entries leave every cache of the package; then, once every access and chunk that
was translated under one has performed, the token fires. -/
def execTlbinvComplete (s : State) : Out :=
  let a := s.focus.arg
  match (s.chip a.pos).tlbinvs[a.n]? with
  | none => .next s
  | some t =>
    match t.users with
    | none =>
      let drop := fun l : List TlbEnt => l.filter fun e => !t.covers e
      let clear := fun (x : Nat × CoreSt) =>
        (x.1, { x.2 with tlb := drop x.2.tlb, ctlb := drop x.2.ctlb, atlb := drop x.2.atlb, btlb := drop x.2.btlb })
      let s1 := { s with cores := s.cores.map clear }
      .next (s1.modChip a.pos fun c => { c with tlbinvs := lset c.tlbinvs a.n { t with users := some (tlbUsers s t) } })
    | some l =>
      if l.all (userDone s) then
        .next (fireToken (s.modChip a.pos fun c => { c with tlbinvs := ldel c.tlbinvs a.n }) t.ck t.tok)
      else .next s

/-! ## Aborts (R212) -/

/-- ACCESS_ABORT (R212): the abort completion of access `n` reaches its context; older ones are queued first. -/
def execAccessAbort (s : State) : Out :=
  onCtx s fun ck =>
    match (s.ctx ck).oldestAbort with
    | some o => if o.id = s.focus.arg.n then abortAccess s ck o.id else s
    | none => s

/-! ## Posts and objects that travel (R259, R264, R276) -/

/-- TOKEN_POST_ARRIVAL (R264): post `n` has nothing left to wait for: it reaches its context, or leaves for another chiplet; one
to an idle context is discarded. The stores that its scope has seen are passed (R268). -/
def execTokenPostArrival (s : State) : Out :=
  let i := s.focus.arg.n
  match s.posts[i]? with
  | none => .next s
  | some p =>
    if !(s.ctx p.src).allDone p.after then .next s
    else
      let s1 := { passStores s p.src p.bundle p.scope with posts := ldel s.posts i }
      if ckPos p.src ≠ ckPos p.ck then .next (engineMsg s1 (ckPos p.src) (ckPos p.ck) (.post p))
      else .next (if (s.ctx p.ck).st = .idle then s1 else fireUp s1 p.ck p.tok)

/-- REMOTE_OBJECT_OPERATION (R259): operation `n` on its way has nothing left to wait for; operations of one context on one object keep
their order, and so do the answers, which travel the other way. The stores that a release's scope has seen are passed (R268). -/
def execRemoteObjectOperation (s : State) : Out :=
  let i := s.focus.arg.n
  match s.objMsgs[i]? with
  | none => .next s
  | some m =>
    let back := fun x : ObjMsg => x.op == 7
    if !(s.ctx m.ck).allDone m.after ∨ (s.objMsgs.take i).any fun x => x.ck == m.ck && x.addr == m.addr && back x == back m then .next s
    else
      let s0 := if m.op = 0 ∨ m.op = 2 ∨ m.op = 3 then passStores s m.ck m.bundle m.scope else s
      let s1 := { s0 with objMsgs := ldel s.objMsgs i }
      let home := corePos (homeCore m.addr)
      let (a, b) := if back m then (home, ckPos m.ck) else (ckPos m.ck, home)
      if a ≠ b then .next (engineMsg s1 a b (.obj m)) else .next (objArrives s1 m)

/-- OBJECT_REGISTRATION (R276, R324): operation `n` that waits at core `core` of its object is carried out once an entry is free
and the object is no longer frozen. -/
def execObjectRegistration (s : State) : Out :=
  let a := s.focus.arg
  let k := coreKey a.pos a.core
  let l := (s.core k).waitObjs
  match l[a.n]? with
  | none => .next s
  | some m =>
    if objWaits s m.addr ∨ (l.take a.n).any fun x => x.addr == m.addr then .next s
    else
      let s1 := s.modCore k fun c => { c with waitObjs := (ldel c.waitObjs a.n).filter fun x => x.addr != m.addr }
      let later := (ldel l a.n).filter fun x => x.addr == m.addr
      .next ((objArrives s1 m).modCore k fun c => { c with waitObjs := c.waitObjs ++ later })

end Sys2Proof.Machine
end

