-- ==== Sys2Proof/Machine/Hart.lean ====
section
/-!
DEFINITION. The loader and storer harts: RV32IMC with Zicsr, Zifencei, Zba and Zbb, and the six custom instructions (R104,
R105, R230 to R232, R285). What a RISC-V instruction computes is PRESUMED from the RISC-V manuals that R104 names.
-/
namespace Sys2Proof.Machine
open Sys2Proof

/-! ## The hart in focus -/

/-- The hart whose instruction runs. -/
def State.hart (s : State) : Hart := if s.focus.storer then (s.core s.fk).storer else (s.core s.fk).loader

/-- Change it. -/
def modHart (s : State) (f : Hart → Hart) : State :=
  s.modCore s.fk fun c => if s.focus.storer then { c with storer := f c.storer } else { c with loader := f c.loader }

/-- Register x0 to x31; x0 reads zero. -/
def Hart.x (h : Hart) (r : RReg) : W32 := if r = 0 then 0 else sget 0 h.regs r.toNat
def Hart.setX (h : Hart) (r : RReg) (v : W32) : Hart := if r = 0 then h else { h with regs := sput h.regs r.toNat v }

/-- The hart is executing: started, not finished, not paused with a saved node (R322). -/
def Hart.live (h : Hart) : Bool := h.running && !h.finished && !h.paused

/-- The instruction is done: rd takes a value and pc moves past `len` bytes. -/
def hartDone (s : State) (len : Nat) (rd : RReg) (v : W32) : State :=
  modHart s fun h => { h.setX rd v with pc := h.pc + BitVec.ofNat 32 len }

/-- The instruction writes no register. -/
def hartNext (s : State) (len : Nat) : State := hartDone s len 0 0

/-- The context that holds the node whose program the hart runs. -/
def hartOwner (s : State) : Nat := s.fk * 4 + ((s.core s.fk).owner).getD 0

/-- The hart stops and its node fails with FCAUSE `cause` (R230, Table 16-1). -/
def hartFail (s : State) (cause : Nat) : State :=
  let ck := hartOwner s
  failCtx (modHart s fun h => { h with running := false }) ck cause (s.ctx ck).rowprog

/-- Run an instruction of the hart in focus, where it is executing. -/
def hartRun (s : State) (f : Hart → State) : Out := .next (if s.hart.live then f s.hart else s)

/-! ## Memory (Table 11-11) -/

/-- The physical address of a hart's instruction store and data store (Table 10-2). -/
def hartIst (s : State) : Nat := winBase s.fk + (if s.focus.storer then 0x650000 else 0x640000)
def hartDat (s : State) : Nat := winBase s.fk + (if s.focus.storer then 0x658000 else 0x648000)

/-- The physical address of `n` bytes of data, or the cause of the exception: misaligned 0x08, outside the map 0x0A. -/
def hartAddr (s : State) (a : W32) (n : Nat) : Except Nat Nat :=
  let v := a.toNat
  if v % n ≠ 0 then .error 0x08
  else if 0x10000 ≤ v ∧ v + n ≤ 0x12000 then .ok (hartDat s + (v - 0x10000))
  else if 0x400000 ≤ v ∧ v + n ≤ 0x800000 then .ok (winBase s.fk + (v - 0x400000))
  else .error 0x0A

/-- Load `n` bytes and go on with their value; the hart waits for a store that its scope has seen (R268). -/
def hartLoad (s : State) (a : W32) (n : Nat) (f : State → Nat → State) : State :=
  match hartAddr s a n with
  | .error c => hartFail s c
  | .ok pa =>
    if seenHolds s s.fk none pa n then s
    else if s.readBad pa n then hartFail (s.noteRead pa n) 0x0F else f (s.noteRead pa n) (s.readNat pa n)

/-- Store `n` bytes and go on. -/
def hartStore (s : State) (a : W32) (n v : Nat) (f : State → State) : State :=
  match hartAddr s a n with
  | .error c => hartFail s c
  | .ok pa =>
    if seenHolds s s.fk none pa n then s
    else
      let (s1, ok) := memStore s (corePos s.fk) (.window s.fk (pa % 2 ^ 24)) pa (leBytes n v) true
      if ok then f s1 else hartFail s1 0x0F

/-! ## Arithmetic -/

/-- Leading and trailing zeros, and bits set. -/
def clz32 (x : W32) : Nat := if x = 0 then 32 else 31 - Nat.log2 x.toNat
def ctz32 (x : W32) : Nat := ((setBitsOf 32 x.toNat).head?).getD 32
def cpop32 (x : W32) : Nat := (setBitsOf 32 x.toNat).length

/-- Byte i of a word. -/
def byteOf (x : W32) (i : Nat) : Nat := x.toNat / 2 ^ (8 * i) % 256

def rvUnVal : RvUn → W32 → W32
  | .clz, x => BitVec.ofNat 32 (clz32 x)
  | .ctz, x => BitVec.ofNat 32 (ctz32 x)
  | .cpop, x => BitVec.ofNat 32 (cpop32 x)
  | .sextb, x => (x.setWidth 8).signExtend 32
  | .sexth, x => (x.setWidth 16).signExtend 32
  | .zexth, x => (x.setWidth 16).setWidth 32
  | .orcb, x => BitVec.ofNat 32 ((List.range 4).foldl (fun z i => if byteOf x i = 0 then z else z + 255 * 2 ^ (8 * i)) 0)
  | .rev8, x => BitVec.ofNat 32 ((List.range 4).foldl (fun z i => z + byteOf x i * 2 ^ (8 * (3 - i))) 0)

def b32 (b : Bool) : W32 := if b then 1 else 0

/-- The high word of a product of integers. -/
def mulHigh (a b : Int) : W32 := BitVec.ofInt 32 (a * b / 2 ^ 32)

def rvOpVal : RvOp → W32 → W32 → W32
  | .add, a, b => a + b
  | .sub, a, b => a - b
  | .sll, a, b => a <<< (b.toNat % 32)
  | .slt, a, b => b32 (a.slt b)
  | .sltu, a, b => b32 (a.ult b)
  | .xor, a, b => a ^^^ b
  | .srl, a, b => a >>> (b.toNat % 32)
  | .sra, a, b => a.sshiftRight (b.toNat % 32)
  | .or, a, b => a ||| b
  | .and, a, b => a &&& b
  | .mul, a, b => a * b
  | .mulh, a, b => mulHigh a.toInt b.toInt
  | .mulhsu, a, b => mulHigh a.toInt b.toNat
  | .mulhu, a, b => mulHigh a.toNat b.toNat
  | .div, a, b => if b = 0 then BitVec.allOnes 32 else a.sdiv b
  | .divu, a, b => if b = 0 then BitVec.allOnes 32 else a / b
  | .rem, a, b => if b = 0 then a else a.srem b
  | .remu, a, b => if b = 0 then a else a % b
  | .sh1add, a, b => (a <<< 1) + b
  | .sh2add, a, b => (a <<< 2) + b
  | .sh3add, a, b => (a <<< 3) + b
  | .andn, a, b => a &&& ~~~b
  | .orn, a, b => a ||| ~~~b
  | .xnor, a, b => ~~~(a ^^^ b)
  | .max, a, b => if a.slt b then b else a
  | .maxu, a, b => if a.ult b then b else a
  | .min, a, b => if a.slt b then a else b
  | .minu, a, b => if a.ult b then a else b
  | .rol, a, b => a.rotateLeft (b.toNat % 32)
  | .ror, a, b => a.rotateRight (b.toNat % 32)

def rvImmVal : RvImm → W32 → W32 → W32
  | .addi, a, i => a + i
  | .slti, a, i => b32 (a.slt i)
  | .sltiu, a, i => b32 (a.ult i)
  | .xori, a, i => a ^^^ i
  | .ori, a, i => a ||| i
  | .andi, a, i => a &&& i

def rvShiVal : RvShi → W32 → Nat → W32
  | .slli, a, n => a <<< n
  | .srli, a, n => a >>> n
  | .srai, a, n => a.sshiftRight n
  | .rori, a, n => a.rotateRight n

def rvBrTaken : RvBr → W32 → W32 → Bool
  | .beq, a, b => a == b
  | .bne, a, b => a != b
  | .blt, a, b => a.slt b
  | .bge, a, b => !a.slt b
  | .bltu, a, b => a.ult b
  | .bgeu, a, b => !a.ult b

/-- Bytes of a load, and its value. -/
def rvLdBytes : RvLd → Nat
  | .lb | .lbu => 1
  | .lh | .lhu => 2
  | .lw => 4
def rvLdVal : RvLd → Nat → W32
  | .lb, v => (BitVec.ofNat 8 v).signExtend 32
  | .lh, v => (BitVec.ofNat 16 v).signExtend 32
  | .lw, v => BitVec.ofNat 32 v
  | .lbu, v => BitVec.ofNat 32 v
  | .lhu, v => BitVec.ofNat 32 v
def rvStBytes : RvSt → Nat
  | .sb => 1
  | .sh => 2
  | .sw => 4

/-! ## Ordinary instructions -/

/-- The offset of a jump or branch whose field is the offset divided by 2. -/
def joff {w : Nat} (i : BitVec w) : W32 := (i.signExtend 32) <<< 1

/-- The source of a CSR operation can write: not an immediate or register of zero under set and clear. -/
def rvCsrWrites : RvCsr → RReg → Bool
  | .rw, _ => true
  | .rwi, _ => true
  | .rs, r => r != 0
  | .rc, r => r != 0
  | .rsi, r => r != 0
  | .rci, r => r != 0

/-- Execute an instruction of `len` bytes (R104). The manual names no control and status register of a hart: a read gives a
free value; a write to a number that RISC-V makes read-only is illegal. -/
def rvExec (s : State) (h : Hart) (len : Nat) (i : RvInst) : State :=
  let next := h.pc + BitVec.ofNat 32 len
  match i with
  | .lui rd i => hartDone s len rd (i.setWidth 32 <<< 12)
  | .auipc rd i => hartDone s len rd (h.pc + (i.setWidth 32 <<< 12))
  | .jal rd i => modHart s fun h => { h.setX rd next with pc := h.pc + joff i }
  | .jalr rd a i => modHart s fun h => { h.setX rd next with pc := (h.x a + i.signExtend 32) &&& ~~~1#32 }
  | .branch c a b i => if rvBrTaken c (h.x a) (h.x b) then modHart s fun h => { h with pc := h.pc + joff i } else hartNext s len
  | .load w rd a i => hartLoad s (h.x a + i.signExtend 32) (rvLdBytes w) fun s v => hartDone s len rd (rvLdVal w v)
  | .store w a b i => hartStore s (h.x a + i.signExtend 32) (rvStBytes w) (h.x b).toNat fun s => hartNext s len
  | .imm o rd a i => hartDone s len rd (rvImmVal o (h.x a) (i.signExtend 32))
  | .shi o rd a n => hartDone s len rd (rvShiVal o (h.x a) n.toNat)
  | .un o rd a => hartDone s len rd (rvUnVal o (h.x a))
  | .op o rd a b => hartDone s len rd (rvOpVal o (h.x a) (h.x b))
  | .fence _ _ _ => hartNext s len
  | .fencei _ _ _ => hartNext s len
  | .csr o rd src n =>
    if rvCsrWrites o src ∧ n.toNat / 1024 = 3 then hartFail s 0x01
    else
      let (v, s1) := s.takeFree
      hartDone s1 len rd (v.setWidth 32)
  | .ebreak => hartFail s 0x19

/-! ## Compressed instructions -/

/-- Bits [hi:lo] of a compressed instruction. -/
def cfld (h : BitVec 16) (lo n : Nat) : BitVec n := h.extractLsb' lo n
/-- The registers x8 to x15 of a 3-bit field. -/
def creg (h : BitVec 16) (lo : Nat) : RReg := (1 : BitVec 2) ++ cfld h lo 3
/-- The signed 6-bit immediate. -/
def cimm6 (h : BitVec 16) : BitVec 12 := (cfld h 12 1 ++ cfld h 2 5).signExtend 12
/-- The offset of c.j and c.jal divided by 2, and of c.beqz and c.bnez. -/
def cjoff (h : BitVec 16) : BitVec 20 :=
  (cfld h 12 1 ++ cfld h 8 1 ++ cfld h 9 2 ++ cfld h 6 1 ++ cfld h 7 1 ++ cfld h 2 1 ++ cfld h 11 1
    ++ cfld h 3 3 : BitVec 11).signExtend 20
def cboff (h : BitVec 16) : BitVec 12 :=
  (cfld h 12 1 ++ cfld h 5 2 ++ cfld h 2 1 ++ cfld h 10 2 ++ cfld h 3 2 : BitVec 8).signExtend 12

/-- Quadrant 0. -/
def expand0 (h : BitVec 16) : Option RvInst :=
  let off : BitVec 12 := (0 : BitVec 5) ++ cfld h 5 1 ++ cfld h 10 3 ++ cfld h 6 1 ++ (0 : BitVec 2)
  match (cfld h 13 3).toNat with
  | 0 =>
    let i : BitVec 12 := (0 : BitVec 2) ++ cfld h 7 4 ++ cfld h 11 2 ++ cfld h 5 1 ++ cfld h 6 1 ++ (0 : BitVec 2)
    if i = 0 then none else some (.imm .addi (creg h 2) 2 i)
  | 2 => some (.load .lw (creg h 2) (creg h 7) off)
  | 6 => some (.store .sw (creg h 7) (creg h 2) off)
  | _ => none

/-- The arithmetic of quadrant 1 on x8 to x15. -/
def expandAlu (h : BitVec 16) : Option RvInst :=
  let r := creg h 7
  let hi := h.getLsbD 12
  match (cfld h 10 2).toNat with
  | 0 => if hi then none else some (.shi .srli r r (cfld h 2 5))
  | 1 => if hi then none else some (.shi .srai r r (cfld h 2 5))
  | 2 => some (.imm .andi r r (cimm6 h))
  | _ =>
    if hi then none
    else match (cfld h 5 2).toNat with
      | 0 => some (.op .sub r r (creg h 2))
      | 1 => some (.op .xor r r (creg h 2))
      | 2 => some (.op .or r r (creg h 2))
      | _ => some (.op .and r r (creg h 2))

/-- Quadrant 1. -/
def expand1 (h : BitVec 16) : Option RvInst :=
  let rd : RReg := cfld h 7 5
  match (cfld h 13 3).toNat with
  | 0 => some (.imm .addi rd rd (cimm6 h))
  | 1 => some (.jal 1 (cjoff h))
  | 2 => some (.imm .addi rd 0 (cimm6 h))
  | 3 =>
    if cimm6 h = 0 then none
    else if rd = 2 then
      some (.imm .addi 2 2 ((cfld h 12 1 ++ cfld h 3 2 ++ cfld h 5 1 ++ cfld h 2 1 ++ cfld h 6 1 ++ (0 : BitVec 4)
        : BitVec 10).signExtend 12))
    else some (.lui rd ((cfld h 12 1 ++ cfld h 2 5 : BitVec 6).signExtend 20))
  | 4 => expandAlu h
  | 5 => some (.jal 0 (cjoff h))
  | 6 => some (.branch .beq (creg h 7) 0 (cboff h))
  | _ => some (.branch .bne (creg h 7) 0 (cboff h))

/-- Quadrant 2. -/
def expand2 (h : BitVec 16) : Option RvInst :=
  let rd : RReg := cfld h 7 5
  let rs2 : RReg := cfld h 2 5
  match (cfld h 13 3).toNat with
  | 0 => if h.getLsbD 12 then none else some (.shi .slli rd rd rs2)
  | 2 =>
    let off : BitVec 12 := (0 : BitVec 4) ++ cfld h 2 2 ++ cfld h 12 1 ++ cfld h 4 3 ++ (0 : BitVec 2)
    if rd = 0 then none else some (.load .lw rd 2 off)
  | 4 =>
    if h.getLsbD 12 then
      if rs2 = 0 then (if rd = 0 then some .ebreak else some (.jalr 1 rd 0)) else some (.op .add rd rd rs2)
    else if rs2 = 0 then (if rd = 0 then none else some (.jalr 0 rd 0)) else some (.op .add rd 0 rs2)
  | 6 =>
    let off : BitVec 12 := (0 : BitVec 4) ++ cfld h 7 2 ++ cfld h 9 4 ++ (0 : BitVec 2)
    some (.store .sw 2 rs2 off)
  | _ => none

/-- The instruction that a compressed one stands for; none is illegal. The harts have no floating-point registers. -/
def expandC (h : BitVec 16) : Option RvInst :=
  match h.toNat % 4 with
  | 0 => expand0 h
  | 1 => expand1 h
  | 2 => expand2 h
  | _ => none

/-- HART_INSTRUCTION (R230). -/
def execHartInstruction (f : RvForm) (s : State) : Out :=
  hartRun s fun h => match f with
    | .full r => rvExec s h 4 r
    | .compressed c => match expandC c with
      | some r => rvExec s h 2 r
      | none => hartFail s 0x01

/-- HART_ECALL (R230): a0 = 0 finishes the hart; any other value fails the node. -/
def execHartEcall (s : State) : Out :=
  hartRun s fun h =>
    let a := (h.x 10).toNat
    if a = 0 then modHart s fun h => { h with running := false, finished := true }
    else hartFail s (if a % 256 = 0 then 0x1C else a % 256)

/-- HART_EXCEPTION (R230): the instruction at pc cannot be fetched or is illegal. -/
def execHartException (cause : Nat) (s : State) : Out := hartRun s fun _ => hartFail s cause

/-! ## Custom instructions (R231) -/

/-- jq.push. -/
def execJqPush (n : BitVec 7) (b a : RReg) (s : State) : Out :=
  hartRun s fun h =>
    if s.focus.storer ∨ 4 ≤ n.toNat then hartFail s 0x01
    else if 16 ≤ (s.queue s.fk n.toNat).length then s
    else hartNext (setQueue s s.fk n.toNat (s.queue s.fk n.toNat ++ [h.x b ++ h.x a])) 4

/-- jq.pop. -/
def execJqPop (n : BitVec 7) (a d : RReg) (s : State) : Out :=
  hartRun s fun h =>
    if !s.focus.storer ∨ n.toNat < 4 ∨ 8 ≤ n.toNat then hartFail s 0x01
    else
      let v := (h.x a).toNat
      if v % 8 ≠ 0 then hartFail s 0x08
      else if v < 0x10000 ∨ 0x12000 < v + 8 then hartFail s 0x0A
      else match s.queue s.fk n.toNat with
        | [] => s
        | w :: r =>
          let pa := hartDat s + (v - 0x10000)
          let (s1, ok) := memStore (setQueue s s.fk n.toNat r) (corePos s.fk) (.window s.fk (pa % 2 ^ 24)) pa (leBytes 8 w.toNat) true
          if ok then hartDone s1 4 d (w.setWidth 32) else hartFail s1 0x0F

/-- jc.wm. -/
def execJcWm (n : BitVec 7) (d : RReg) (s : State) : Out :=
  hartRun s fun _ =>
    if 8 ≤ n.toNat then hartFail s 0x01 else hartDone s 4 d ((sget 0 (s.core s.fk).chwm n.toNat).setWidth 32)

/-- jt.post. -/
def execJtPost (n : BitVec 7) (a : RReg) (s : State) : Out :=
  hartRun s fun h =>
    if n.toNat = 0 ∨ 64 ≤ n.toNat then hartFail s 0x01
    else
      let p : Post := { ck := s.fk * 4 + (h.x a).toNat % 4, tok := n.toNat, src := hartOwner s, after := []
                        scope := 2, bundle := 0 }
      hartNext { s with posts := s.posts ++ [p] } 4

/-- jr.wait: status 1 on a ring that was reset, 2 on one that has ended, 3 where the ring refuses the operation. -/
def execJrWait (b a d : RReg) (s : State) : Out :=
  hartRun s fun h =>
    let v := (h.x a).toNat
    let st := (h.x b).toNat
    let prod := !s.focus.storer
    if v % 64 ≠ 0 then hartFail s 0x08
    else if v < 0x400000 ∨ 0x800000 ≤ v then hartFail s 0x0A
    else
      let pa := winBase s.fk + (v - 0x400000)
      match objRefused s .ring pa with
      | some 0x0F => hartFail (s.noteRead pa 64) 0x0F
      | some _ => hartDone s 4 d 3
      | none =>
        if objWaits s pa then s
        else
          let s1 := register s .ring pa
          if ringNst s1 pa ≤ st then hartDone s1 4 d 3
          else if ringState s1 pa = 2 then hartDone s1 4 d 1
          else if ringState s1 pa ≠ 0 then hartDone s1 4 d 2
          else if stageReady s1 pa st prod then hartDone (acquireStage (touchObj s1 pa) pa st prod (ownerNode s1 s.fk)) 4 d 0
          else s1

/-! ## Submitting a copy (R232) -/

/-- The shape that a block holds (Table 11-13). -/
def blockShape (s : State) (a : Nat) : Shape :=
  let ls := List.range 6
  { count := ls.map fun l => s.readNat (a + 0x40 + 16 * l) 4
    sstr := ls.map fun l => toSigned 32 (s.readNat (a + 0x40 + 16 * l + 8) 4)
    dstr := ls.map fun l => toSigned 32 (s.readNat (a + 0x40 + 16 * l + 12) 4)
    fmt := s.read64 (a + 0x10)
    roa := s.readNat (a + 0x18) 8 }

/-- A field of the block is out of range (status 1). -/
def blockBad (s : State) (a : Nat) : Bool :=
  let w := fun o : Nat => s.readNat (a + o) 8
  let ctl := w 0x20
  decide (2 ^ 48 ≤ w 0x00) || decide (2 ^ 48 ≤ w 0x08) || !fmtOk (w 0x10) (w 0x18)
    || bitsOf ctl 7 4 != 0 || bitsOf ctl 15 10 != 0 || bitsOf ctl 63 22 != 0 || (bitOf ctl 2 && bitsOf ctl 21 16 == 0)
    || bitsOf (w 0x28) 23 22 != 0 || bitsOf (w 0x28) 63 30 != 0 || w 0x30 != 0 || w 0x38 != 0
    || (List.range 6).any fun l => decide (2 ^ 24 ≤ s.readNat (a + 0x40 + 16 * l) 4) || s.readNat (a + 0x40 + 16 * l + 4) 4 != 0

/-- The copy that a block describes, for the hart in focus. -/
def blockCopy (s : State) (a ch : Nat) : CopyOp :=
  let ck := hartOwner s
  let ctl := s.readNat (a + 0x20) 8
  let ring := s.readNat (a + 0x28) 8
  { id := 0, bundle := 0, ctx := ckCtx ck, hart := some (bit01 s.focus.storer), kind := if bitOf ctl 0 then .cpyr else .cpy
    ch := ch, src := s.read64 a, dst := s.read64 (a + 8), shape := blockShape s a, shapes := [], rows := [], ko := 0, kis := []
    mc := false, rg := bitOf ctl 1, un := false, wl := false, aop := 0, w32 := false, scope := 2, part := (s.ctx ck).part
    res := false, dom := none, lvl := 0
    post := if bitOf ctl 2 then some (bitsOf ctl 9 8, bitsOf ctl 21 16) else none
    rrel := if bitOf ctl 3 then some (bitsOf ring 21 0, bitsOf ring 29 24) else none
    started := false, chunks := [], foreign := [], wrote := [], rec? := none, nextRec := 0, ended := false, aborted := false
    stop? := none, migs := [], home := none, targets := [], credits := [], holds := [], opnd := 0, expect := 0, old := 0
    fl := 0, sched := none }

/-- The hart waits on a migrating page on its own clock (R206, R231): status 2 when the wait has expired. -/
def hartStall (s : State) (d : RReg) : State :=
  let ct := s.ctOf s.focus.pos
  match s.hart.mig with
  | none => modHart s fun h => { h with mig := some ct }
  | some t => if 1500000 ≤ ct - t then hartDone (modHart s fun h => { h with mig := none }) 4 d 2 else s

/-- jc.sub: the block is read whole; both first bytes are translated; the copy is accepted, or the status says why not. The
channel cannot accept while the copy engine is busy, and the hart waits for an alias whose remap is under way (R56). -/
def execJcSub (n : BitVec 7) (a d : RReg) (s : State) : Out :=
  hartRun s fun h =>
    let v := (h.x a).toNat
    if 8 ≤ n.toNat then hartFail s 0x01
    else if v % 8 ≠ 0 then hartFail s 0x08
    else if v < 0x10000 ∨ 0x12000 < v + 160 then hartFail s 0x0A
    else
      let pa := hartDat s + (v - 0x10000)
      if s.readBad pa 160 then hartFail (s.noteRead pa 160) 0x0F
      else if s.focus.busy.c ∨ !migDue (s.ctOf s.focus.pos) h.mig then s
      else if blockBad s pa then hartDone s 4 d 1
      else
        let o := blockCopy s pa n.toNat
        let arg := s.focus.arg
        let (r1, s1) := copyAddr s s.fk (o.acc s.fk pteER false false) arg.flag arg.n 1 o.src
        let (r2, s2) := copyAddr s1 s.fk (o.acc s.fk pteEW true false) arg.flag arg.n 1 o.dst
        match r1, r2 with
        | .stall, _ => hartStall s2 d
        | .ok _ _, .stall => hartStall s2 d
        | .hold, _ => s
        | .ok _ _, .hold => s
        | .fault _, _ => hartDone (modHart s2 fun h => { h with mig := none }) 4 d 2
        | .ok _ _, .fault _ => hartDone (modHart s2 fun h => { h with mig := none }) 4 d 2
        | .ok _ _, .ok _ _ =>
          let (id, s3) := s2.takeId
          hartDone (modHart (acceptCopy s3 (hartOwner s) { o with id := id }) fun h => { h with mig := none }) 4 d 0

/-- The bytes at a hart's pc: up to 4, fewer where the store ends; the cause of a fetch that fails. -/
def hartFetch (s : State) : Except Nat (List Byte) :=
  let pc := s.hart.pc.toNat
  if pc % 2 ≠ 0 then .error 0x08
  else if 0x7FFE < pc then .error 0x0A
  else
    let a := hartIst s + pc
    if s.readBad a 2 then .error 0x0F
    else if s.readNat a 1 % 4 ≠ 3 then .ok (s.mem.readBytes a 2)
    else if 0x7FFC < pc then .error 0x0A
    else if s.readBad a 4 then .error 0x0F
    else .ok (s.mem.readBytes a 4)

end Sys2Proof.Machine
end

