-- ==== Sys2Proof/Machine/Quorum.lean ====
section
/-!
DEFINITION. The Bridge quorum: evidence, proposals, votes and decisions, the closing of regions, the level switch, rotation and
readmission (R34, R50, R336 to R347, R371, R377).
-/
namespace Sys2Proof.Machine
open Sys2Proof

/-! ## Levels and carriers (R34, R342) -/

/-- Healthy chiplets that a level requires, and its carriers (Table 2-9). -/
def needHealthy (l : Nat) : Nat := [1, 2, 3, 4, 4].getD l 5
def carriersAt (l : Nat) : Nat := [1, 1, 2, 3, 4].getD l 0
/-- The level has a spare (Table 2-9). -/
def hasSpare (l : Nat) : Bool := decide (1 ≤ l) && decide (l ≤ 3)

/-- The levels that every started task set defines; level 0 where none is started. -/
def lvlMask (s : State) : Nat := if s.tsets = [] then 1 else s.tsets.foldl (fun m t => m &&& t.lvls) 0x1F

/-- The highest level that the healthy chiplets and the cap allow (R34, R52). -/
def selectLevel (mask lvls cap : Nat) : Nat :=
  (([4, 3, 2, 1].find? fun l => bitOf lvls l && decide (l ≤ cap) && decide (needHealthy l ≤ (setBitsOf 4 mask).length))).getD 0

/-- The carrier binding of a decision: the chiplets in the order of their logical numbers, as CARR, and the spare (R342). -/
def bindCarriers (prev : Option Nat) (mask level : Nat) : Nat × Option Nat :=
  let h := setBitsOf 4 mask
  let sp := if !hasSpare level then none
    else match prev with
      | some p => if h.contains p then some p else h.getLast?
      | none => h.getLast?
  let order := h.filter (fun p => sp != some p) ++ sp.toList ++ (List.range 4).filter fun p => !h.contains p
  ((order.zip (List.range 4)).foldl (fun z (p, k) => z + p * 4 ^ k) 0, sp)

/-- Every placement of the started task sets at a level. -/
def placesAt (s : State) (level : Nat) : List TsPlace := s.tsets.flatMap fun t => t.places.filter fun p => p.level == level

/-- The lead of a chiplet's common time (R353): the lowest of the last decision that is up, else the chiplet itself. -/
def leadOf (s : State) (pos : Nat) : Nat :=
  ((setBitsOf 4 (s.chip pos).br.dec).find? fun q => (s.chip q).boot.linksUp).getD pos

/-- Fire a vector on the port of the lowest chiplet of a mask, or of chiplet 0. -/
def fireLead (s : State) (mask v : Nat) : State := fireVector s ((setBitsOf 4 mask).headD 0) v

/-! ## The partition table in force (R55, R65) -/

/-- Write into a chiplet's map which partition owns each of its logical cores. -/
def ownCores (s : State) (x : Nat) (f : Conf) : State :=
  s.modChip x fun c =>
    let owner := fun n : Nat => (List.range 8).find? fun p => match f.parts[p]? with
      | some (e, m) => e.valid && bitOf m (32 * c.logicalOf x + n)
      | none => false
    { c with
      lcmap := (List.range 32).map fun n => (n, match owner n with
        | some p => { c.lc n with part := p, owned := true }
        | none => { c.lc n with part := 0, owned := false }) }

/-- The Bridge of a chiplet takes up the partition table and the configuration (R65, R321, R343, R374, R379). -/
def useConf (s : State) (x : Nat) (f : Conf) : State :=
  ownCores (s.modChip x fun c =>
    { c with
      parts := (List.range 8).filterMap fun p => (f.parts[p]?).map fun e => (p, e.1)
      eng := { c.eng with savepool := f.pools.getD x 0, mirrorReg := f.mirrors.getD x 0, quota := f.quota }
      power := { c.power with thctl := f.thctls.getD x 0 } }) x f

/-! ## Closing and readmitting a chiplet (R336, R347) -/

/-- The cores of a chiplet are held in reset, and its graph engine is stopped: nothing that ran there is left. -/
def holdChip (s : State) (x : Nat) : State :=
  let s1 := s.modChip x fun c =>
    { c with
      br := { c.br with held := true }
      reports := [], tlbinvs := []
      eng := { c.eng with graphs := [], walk := none, walkQ := [], tokQ := [], reserve := [], dead := [], quota := 0 } }
  let s2 := (List.range 34).foldl (fun s k =>
    (s.modCore (coreKey x k) fun h => { CoreSt.reset with cycle := h.cycle, lastScan := h.lastScan })) s1
  let away := fun ck : Nat => ckPos ck == x
  { s2 with ctxs := s2.ctxs.filter fun (c : Nat × Ctx) => !away c.1
            posts := s2.posts.filter fun p => !(away p.ck || away p.src)
            objMsgs := s2.objMsgs.filter fun m => !away m.ck }

/-- Close a chiplet's region (R336): every healthy chiplet's link to it reads STATE 3 and what was held for it fails; its Bridge, if
it still runs, holds its cores. Its quota is withdrawn, and it has had no reset since (R337). -/
def closeChip (s : State) (healthy x : Nat) : State :=
  let s1 := (setBitsOf 4 healthy).foldl (fun s q =>
    failLink (modLink s q x fun l => { l with st := 3 }) q x false) s
  let s2 := modBr (modGe s1 x fun e => { e with quota := 0 }) x fun b => { b with closed := true, wasReset := false }
  if (s2.chip x).br.halted then s2 else holdChip s2 x

/-- Evidence that names a chiplet, against it or as the other end of a link pair, is dropped. -/
def dropEvid (s : State) (x : Nat) : State :=
  (List.range 4).foldl (fun s q => modBr s q fun b =>
    { b with evid := b.evid.filter (fun e => e.accused != x && e.pair != some x)
             evidIn := b.evidIn.filter (fun e => e.accused != x && e.pair != some x) }) s

/-- A chiplet is healthy again (R337): its links to the other healthy chiplets are active with their streams begun afresh, its Bridge
takes up the configuration, and its cores run. -/
def openChip (s : State) (healthy x : Nat) : State :=
  let fresh := fun (s : State) (p q : Nat) =>
    let s1 := modLink s p q fun l => { l with st := 2 }
    s1.modChip p fun c => { c with tx := c.tx.filter fun t => t.1 / 8 != q, rx := c.rx.filter fun t => t.1 / 8 != q
                                   acks := sdel c.acks q }
  let s1 := (setBitsOf 4 healthy).foldl (fun s q => if q = x then s else fresh (fresh s q x) x q) (dropEvid s x)
  let s2 := match s1.conf with
    | some f => useConf s1 x f
    | none => s1
  (modBr s2 x fun b => { b with held := false, closed := false }).modChip x fun c =>
    let b := c.boot
    { c with boot := { b with joined := s.quorum.host } }

/-! ## The level switch (R346) -/

/-- FUNCs of an old level that a new one lacks, and of graphs that were not restored, are reported as shed (R34, R371). -/
def reportShed (s : State) (mask : Nat) : State :=
  let q := s.quorum
  let new := (placesAt s ((s.chip ((setBitsOf 4 mask).headD 0)).br.level)).map (·.func)
  let old := match q.was with
    | some l => ((placesAt s l).map (·.func)).filter fun f => !new.contains f
    | none => []
  let fs := (old ++ q.shed).eraseDups
  let s1 := { s with quorum := { q with was := none, shed := [] } }
  fs.foldl (fun s _ => fireLead s mask 3) s1

/-- Stop every graph of every chiplet that is not closed (R382). -/
def stopAll (s : State) (mask : Nat) : State :=
  (setBitsOf 4 mask).foldl (fun s p => ((s.eng p).graphs.map (·.1)).foldl (fun s gid => stopGraph s p gid) s) s

/-- Write the carrier binding and the logical chiplet map on every chiplet, and with it who owns its cores (R342, R55). -/
def remap (s : State) (carr : Nat) (spare : Option Nat) : State :=
  (List.range 4).foldl (fun s p =>
    let s1 := s.modChip p fun c => { c with lchip := carr, br := { c.br with carr := carr, spare := spare } }
    match s.conf with
    | some f => ownCores s1 p f
    | none => s1) s

/-- Steps 1 to 3 of a level switch, and the graphs that step 4 is to restore (R346). -/
def switchLevel (s : State) (old mask oldLevel level carr : Nat) (spare : Option Nat) : State :=
  let gone := (setBitsOf 4 old).filter fun x => !bitOf mask x
  let back := (setBitsOf 4 mask).filter fun x => !bitOf old x
  let s1 := gone.foldl (fun s x => closeChip s mask x) s
  let s2 := back.foldl (fun s x => openChip s mask x) s1
  let s3 := remap (stopAll s2 mask) carr spare
  let q := s3.quorum
  let s4 := { s3 with quorum := { q with restore := if mask = 0 then [] else placesAt s3 level
                                         was := q.was.or (some oldLevel), moves := [], moved := [], rotating := none } }
  if s4.quorum.restore = [] then reportShed s4 mask else s4

/-! ## Decisions (R340) -/

/-- The proposal is before the voters no longer. -/
def clearProp (s : State) : State :=
  let q := s.quorum
  (List.range 4).foldl (fun s p => modBr s p fun b => { b with qevt := b.qevt - (b.qevt &&& 2) })
    { s with quorum := { q with prop := none } }

/-- The record of a decision (Table 17-3, KIND 9). -/
def decisionRec (s : State) (pos level : Nat) : Rec :=
  { kind := 9, sub := level, lcore := 0x7F, ctx := 0, agent := 4, a := BitVec.ofNat 64 (bitsOf (qstat s pos) 59 44)
    b := (s.chip pos).br.decCt.setWidth 64 }

/-- LEVELCAP commands that waited for a decision are carried out (R52). -/
def endCaps (s : State) : State :=
  (List.range 4).foldl (fun s p => s.modChip p fun c =>
    if c.mail.capWait then { c with mail := { c.mail with capWait := false, result := some 0 } } else c) s

/-- A Bridge takes up a decision. Evidence that reached it after the proposal and that its mask does not cover starts a new one
(R340). -/
def takeDecision (s : State) (q : Nat) (p : Proposal) (ct : Nat) : State :=
  let s1 := modBr s q fun b =>
    { b with dec := p.mask, level := p.level, carr := p.carr, spare := p.spare, decCt := BitVec.ofNat 32 ct }
  let v := viewOf s1 q
  modBr s1 q fun b => { b with firstEv := if v = p.mask then none else b.lateEv, lateEv := none }

/-- A proposal has passed: QSTAT is written, the decision logged, and vector 1 fires where the mask or the level changes; then the
level is switched. What was asked for after the proposal is still asked for; a LEVELCAP waits for a decision under its cap (R52). -/
def decide_ (s : State) (p : Proposal) : State :=
  let ct := s.ctOf p.coord
  let b0 := (s.chip p.coord).br
  let changed := p.mask != b0.dec || p.level != b0.level
  let s1 := (List.range 4).foldl (fun s q => if (s.chip q).br.halted then s else takeDecision s q p ct) (clearProp s)
  let q := s1.quorum
  let s2 := { s1 with quorum := { q with skipped := [], raiseNow := false
                                         cand := q.cand - (q.cand &&& p.mask)
                                         raise := decide (p.level < selectLevel p.mask (lvlMask s1) q.cap) } }
  let s3 := logRec s2 p.coord (decisionRec s2 p.coord p.level)
  let s4 := if p.cap = q.cap then endCaps s3 else s3
  if !changed then s4
  else
    let s5 := (List.range 4).foldl (fun s q => if (s.chip q).br.held then s else raiseQevt s q 2) s4
    switchLevel s5 b0.dec p.mask b0.level p.level p.carr p.spare

/-- A proposal has failed: another follows at once (R340). -/
def failProp (s : State) : State :=
  let s1 := (List.range 4).foldl (fun s q => modBr s q fun b => { b with lateEv := none }) (clearProp s)
  let q := s1.quorum
  { s1 with quorum := { q with ask := true } }

/-- The yes votes that a proposal holds. -/
def yesVotes (p : Proposal) : Nat := (p.votes.filter fun (v : Nat × Bool) => v.2).length

/-- Record a vote: the third yes passes the decision, and a proposal on which all have voted without passing it fails. -/
def castVote (s : State) (p : Proposal) (voter : Nat) (yes : Bool) : State :=
  let p1 := { p with votes := sput p.votes voter yes }
  let q := s.quorum
  let s1 := { s with quorum := { q with prop := some p1 } }
  if 3 ≤ yesVotes p1 then decide_ s1 p1
  else if (allTo 4 fun v => (sget? p1.votes v).isSome) ∧ (!q.host ∨ (sget? p1.votes 4).isSome) then failProp s1
  else s1

/-! ## Evidence (R338) -/

/-- EVIDENCE_RECEIVE: Bridge `pos` receives the evidence at place `n` of what is on its way to it. Sideband traffic of a closed
chiplet is ignored (R336), and so is evidence of a voter that it counts as failed. -/
def execEvidenceReceive (s : State) : Out :=
  let a := s.focus.arg
  let b := (s.chip a.pos).br
  match b.evidIn[a.n]? with
  | none => .next s
  | some e =>
    let s1 := modBr s a.pos fun b => { b with evidIn := ldel b.evidIn a.n }
    let known := b.dec ||| s.quorum.cand
    if b.halted ∨ !bitOf known e.reporter ∨ !bitOf known e.accused ∨ countsFailed b.evid e.reporter then .next s1
    else .next (holdEvid s1 a.pos e)

/-- HEARTBEAT_SEND: every 75,000 counts. That of a closed chiplet is logged, and else ignored (R336; log entry 118). -/
def execHeartbeatSend (s : State) : Out :=
  let pos := s.focus.arg.pos
  let c := s.chip pos
  if 4 ≤ pos ∨ c.br.halted ∨ !c.boot.linksUp ∨ c.ct < c.br.beatCt + 75000 then .next s
  else
    let s1 := modBr s pos fun b => { b with beatCt := c.ct }
    .next (((List.range 4).filter (· != pos)).foldl (fun s q => modBr s q fun b =>
      if bitOf b.dec pos then { b with lastBeat := sput b.lastBeat pos (s.ctOf q), missed := sput b.missed pos 0 }
      else { b with beatLog := b.beatLog ++ [(pos, s.ctOf q)] }) s1)

/-- HEARTBEAT_MISSED: Bridge `pos` has waited 76,000 counts more for a heartbeat of `peer`; the third missed is evidence. -/
def execHeartbeatMissed (s : State) : Out :=
  let a := s.focus.arg
  let c := s.chip a.pos
  let n := sget 0 c.br.missed a.peer
  if !linkOk a.pos a.peer ∨ c.br.halted ∨ !c.boot.linksUp ∨ 3 ≤ n ∨ c.ct < sget 0 c.br.lastBeat a.peer + 76000 * (n + 1) then .next s
  else
    let s1 := modBr s a.pos fun b => { b with missed := sput b.missed a.peer (n + 1) }
    .next (if n = 2 then evidence s1 a.pos a.peer 3 none else s1)

/-- RAIL_FAULT (R377): a rail, clock or reference fault of chiplet `pos`, from outside: it is evidence, and the chiplet's copy of common
time keeps no agreement any more. -/
def execRailFault (s : State) : Out :=
  let pos := s.focus.arg.pos
  if 4 ≤ pos then .next s
  else .next ((evidence s pos pos 4 none).modChip pos fun c => let d := c.disc; { c with disc := { d with loose := true } })

/-- LOCKSTEP_MISMATCH (R338): the Bridge halts and accuses its own chiplet. -/
def execLockstepMismatch (s : State) : Out :=
  let pos := s.focus.arg.pos
  if 4 ≤ pos ∨ (s.chip pos).br.halted then .next s
  else .next (modBr (evidence s pos pos 5 none) pos fun b => { b with halted := true })

/-- SPARE_SELF_TEST (R345): the chiplet-wide tests of the spare end; with `flag` they fail. Its cores have been scanned and read
zero (R335). -/
def execSpareSelfTest (s : State) : Out :=
  let a := s.focus.arg
  if 4 ≤ a.pos ∨ (s.chip a.pos).br.spare ≠ some a.pos ∨ (s.eng a.pos).graphs ≠ [] then .next s
  else if a.flag then .next (evidence s a.pos a.pos 8 none)
  else .next ((List.range 34).foldl (fun s k => reinitCore s (coreKey a.pos k)) s)

/-! ## Proposals and votes (R340) -/

/-- The coordinator in a Bridge's view: the lowest chiplet that it counts as healthy and that has not been passed over; with none
healthy, the lowest of the last decision. -/
def coordOf (s : State) (pos : Nat) : Option Nat :=
  let ok := fun p : Nat => !s.quorum.skipped.contains p
  ((setBitsOf 4 (viewOf s pos)).find? ok).or ((setBitsOf 4 (s.chip pos).br.dec).find? ok)

/-- The proposal of a coordinator: its view, the level, raised only at a rotation point (R337), and the binding. A decision that
changes neither mask nor level keeps the binding (R346). -/
def makeProp (s : State) (pos : Nat) : Proposal :=
  let b := (s.chip pos).br
  let q := s.quorum
  let mask := viewOf s pos
  let sel := selectLevel mask (lvlMask s) q.cap
  let level := if q.raiseNow then sel else Nat.min sel b.level
  let (carr, spare) := if mask = b.dec ∧ level = b.level then (b.carr, b.spare) else bindCarriers b.spare mask level
  { num := q.next, mask := mask, level := level, carr := carr, spare := spare, ct := s.ctOf pos, coord := pos, cap := q.cap, votes := [] }

/-- A proposal awaits the host's vote: QEVT.PROP is set on the page of every chiplet that runs (R50). -/
def showProp (s : State) : State := (List.range 4).foldl (fun s p => if (s.chip p).br.held then s else raiseQevt s p 1) s

/-- PROPOSAL: the coordinator `pos` proposes, 30,000 counts after its first evidence, or when a proposal is asked for. -/
def execProposal (s : State) : Out :=
  let pos := s.focus.arg.pos
  let b := (s.chip pos).br
  let q := s.quorum
  let due := q.ask || match b.firstEv with
    | some t => decide (t + 30000 ≤ s.ctOf pos)
    | none => false
  if 4 ≤ pos ∨ b.halted ∨ q.prop.isSome ∨ !due ∨ !bitOf b.dec pos ∨ coordOf s pos ≠ some pos then .next s
  else
    let s1 := { s with quorum := { q with prop := some (makeProp s pos), next := (q.next + 1) % 65536, ask := false } }
    .next (if q.host then showProp s1 else s1)

/-- COORDINATOR_TIMEOUT: the coordinator in the view of Bridge `pos` has not proposed within 60,000 counts of the first evidence, and
is passed over. -/
def execCoordinatorTimeout (s : State) : Out :=
  let pos := s.focus.arg.pos
  let b := (s.chip pos).br
  let q := s.quorum
  match b.firstEv, coordOf s pos with
  | some t, some c =>
    if b.halted ∨ !bitOf b.dec pos ∨ q.prop.isSome ∨ s.ctOf pos < t + 60000 then .next s
    else .next { s with quorum := { q with skipped := q.skipped ++ [c] } }
  | _, _ => .next s

/-- BRIDGE_VOTE: Bridge `pos` votes yes where the proposed mask equals its own view. What a closed chiplet's Bridge sends is ignored
(R336). -/
def execBridgeVote (s : State) : Out :=
  let pos := s.focus.arg.pos
  match s.quorum.prop with
  | none => .next s
  | some p =>
    if 4 ≤ pos ∨ (s.chip pos).br.halted ∨ !bitOf (s.chip p.coord).br.dec pos ∨ (sget? p.votes pos).isSome
        ∨ p.ct + 225000 ≤ s.ctOf p.coord then .next s
    else .next (castVote s p pos (p.mask == viewOf s pos))

/-- VOTE_TIMEOUT: 225,000 counts after the proposal the votes not cast are settled: those of Bridges, yes where it excludes their
chiplet; the host abstains. -/
def execVoteTimeout (s : State) : Out :=
  match s.quorum.prop with
  | none => .next s
  | some p =>
    if s.ctOf p.coord < p.ct + 225000 then .next s
    else
      let late := countTo 4 fun v => (sget? p.votes v).isNone && !bitOf p.mask v
      .next (if 3 ≤ yesVotes p + late then decide_ s p else failProp s)

/-- The host votes (R50): discarded where PNUM names no pending proposal, the host is not a member or a reserved bit is set. -/
def hostVote (s : State) (pos : Nat) (v : W64) : State :=
  match hostProp s with
  | none => s
  | some p =>
    if bitsOf v.toNat 63 48 ≠ p.num ∨ bitsOf v.toNat 47 1 ≠ 0 ∨ !(s.chip pos).boot.joined ∨ p.ct + 225000 ≤ s.ctOf p.coord ∨ (s.chip pos).br.held then s
    else
      let s1 := (List.range 4).foldl (fun s p => modBr s p fun b => { b with qevt := b.qevt - (b.qevt &&& 2) }) s
      castVote s1 p 4 (v.getLsbD 0)

/-- HVOTE_WRITE (R50): a host write of `value` over the port, whose link is up (R41); `flag` takes up a write that came from within the package. -/
def execHvoteWrite (s : State) : Out :=
  let a := s.focus.arg
  if 4 ≤ a.pos then .next s
  else if a.flag then
    match takeCtl s a.pos fun w => w.off == 0x20210 with
    | some (w, s1) => .next (hostVote s1 a.pos (BitVec.ofNat 64 w.v))
    | none => .next s
  else .next (if (s.chip a.pos).pcie then hostVote s a.pos a.value else s)

/-- READMISSION (R337): a closed chiplet that has been reset, has come up and, with `flag`, has passed its scans and its DRAM test
becomes eligible; a decision naming it healthy is asked for. -/
def execReadmission (s : State) : Out :=
  let a := s.focus.arg
  let c := s.chip a.pos
  let q := s.quorum
  if 4 ≤ a.pos ∨ !a.flag ∨ c.br.halted ∨ !c.br.closed ∨ !c.br.wasReset ∨ !(c.boot.romOk && c.pcie && c.boot.dramOk && c.boot.linksUp)
      ∨ bitOf q.cand a.pos ∨ (List.range 4).any (fun p => p != a.pos && !(s.chip p).br.held && bitOf (s.chip p).br.dec a.pos) then .next s
  else
    let s1 := dropEvid s a.pos
    .next { s1 with quorum := { q with cand := q.cand + 2 ^ a.pos, ask := true } }

/-! ## Restoring mirrors (R346, R371) -/

/-- The newest complete mirror of a graph: the chiplet that holds it, and the slot. -/
def newestSlot (s : State) (gid : Nat) : Option (Nat × MirSlot) :=
  let all := (List.range 4).flatMap fun q => ((s.eng q).slots.filter fun (m : MirSlot) => m.gid == gid && m.done).map fun m => (q, m)
  all.foldl (fun (b : Option (Nat × MirSlot)) x => match b with
    | some y => if y.2.ct < x.2.ct then some x else some y
    | none => some x) none

/-- The places of a graph's parts, as addresses and lengths, from the words of its header and node records (R343). -/
def partPlaces (hdr : Nat) (h : List W64) (recs : Nat → Nat → Nat) : List (Nat × Nat) :=
  let n := bitsOf (wAt h 0) 19 8
  [(hdr, 64), (bitsOf (wAt h 1) 45 0, 128 * n), (bitsOf (wAt h 2) 45 0, 128 * n)]
    ++ ((List.range n).map fun i => (bitsOf (recs i 3) 45 0, bitsOf (recs i 3) 55 46 * 4096)).filter fun x => x.2 != 0

/-- The places of a graph's parts as its records in memory give them. -/
def livePlaces (s : State) (hdr : Nat) : List (Nat × Nat) :=
  let h := readWords s hdr 8
  partPlaces hdr h fun i k => s.readNat (bitsOf (wAt h 1) 45 0 + 128 * i + 8 * k) 8

/-- The places of a graph's parts as a mirror slot gives them. -/
def slotPlaces (s : State) (hdr : Nat) (m : MirSlot) : List (Nat × Nat) :=
  partPlaces hdr (readWords s (m.addr + 64) 8) fun i k => s.readNat (m.addr + 128 + 128 * i + 8 * k) 8

/-- The slot can be used: its header is that of a complete mirror of the graph, and the CRC of its bytes is right. -/
def slotGood (s : State) (m : MirSlot) : Bool :=
  let w := fun i => s.readNat (m.addr + 8 * i) 8
  !s.readBad m.addr (64 + m.len) && w 0 == 0x4C4A4D52 * 2 ^ 32 + m.gid && w 4 == m.len && bitOf (w 5) 32
    && bitsOf (w 5) 31 0 == crc32c (s.mem.readBytes (m.addr + 64) m.len)

/-- A place lies in the DRAM of a chiplet that is not healthy. -/
def lostPlace (mask : Nat) (x : Nat × Nat) : Bool :=
  decide (x.1 < 0x2000000000) && !bitOf mask (x.1 / 0x800000000)

/-- Copy a slot's bytes to their places, in order; a refused write stops the copy (R328). -/
def copyParts : State → Nat → List (Nat × Nat) → State × Bool
  | s, _, [] => (s, true)
  | s, a, (dst, n) :: r =>
    if s.writeBad dst n then (s.noteRefused dst n, false) else copyParts (moveBytes s a n dst) (a + n) r

/-- Bring a graph into place on chiplet `pos` from a slot and start it with the slot's FSTART and FRAMENO; cold without one
(R346). -/
def bringGraph (s : State) (pos gid hdr : Nat) (m : Option MirSlot) : State :=
  let (s1, fno, cold) := match m with
    | some m =>
      let (s1, ok) := copyParts s (m.addr + 64) (slotPlaces s hdr m)
      if ok then ((writeField s1 (hdr + 32) 63 0 (s.readNat (m.addr + 8) 8)).1, s.readNat (m.addr + 16) 4, false) else (s1, 0, true)
    | none => (s, 0, true)
  let s2 := startGraph s1 pos hdr fno
  if cold && (s2.graph? pos gid).isSome then slip s2 pos 8 (some gid) 4 (BitVec.ofNat 64 gid) 0 else s2

/-- Restore one graph of the new level; false where it is not started, because its mirror or its structures lie in the DRAM of a
closed chiplet (R371). -/
def restoreGraph (s : State) (mask : Nat) (p : TsPlace) : State × Bool :=
  let pos := carrierPos s ((setBitsOf 4 mask).headD 0) p.carrier
  match newestSlot s p.gid with
  | some (q, m) =>
    if !bitOf mask q then (s, false)
    else if slotGood s m then
      if (slotPlaces s p.hdr m).any (lostPlace mask) then (s, false) else (bringGraph s pos p.gid p.hdr (some m), true)
    else if (livePlaces s p.hdr).any (lostPlace mask) then (s, false)
    else (bringGraph s pos p.gid p.hdr none, true)
  | none => if (livePlaces s p.hdr).any (lostPlace mask) then (s, false) else (bringGraph s pos p.gid p.hdr none, true)

/-- MIRROR_RESTORE (R346): the next graph of the new level is restored; after the last, shed functions are reported. -/
def execMirrorRestore (s : State) : Out :=
  let lead := (List.range 4).find? fun q => !(s.chip q).br.held && bitOf (s.chip q).br.dec q
  match s.quorum.restore, lead with
  | p :: rest, some q =>
    let mask := (s.chip q).br.dec
    let (s1, ok) := restoreGraph s mask p
    let z := s1.quorum
    let s2 := { s1 with quorum := { z with restore := rest, shed := if ok then z.shed else z.shed ++ [p.func] } }
    engDone (if rest = [] then reportShed s2 mask else s2) (carrierPos s q p.carrier)
  | _, _ => .next s

/-! ## Rotation (R345) -/

/-- Both roles swapped: carrier `k`'s chiplet and the spare, in CARR. -/
def swapCarr (carr k sp old : Nat) : Nat :=
  (List.range 4).foldl (fun z j =>
    let p := bitsOf carr (2 * j + 1) (2 * j)
    z + (if j = k then sp else if p = sp then old else p) * 4 ^ j) 0

/-- A rotation point (R345, R337): a raise of the level is proposed; at level 3 a rotation begins, or is suspended by a graph whose
STRETCH is below 1,500 ticks. -/
def rotationPoint (s : State) (pos : Nat) : State :=
  let b := (s.chip pos).br
  let q := s.quorum
  let s1 := { s with quorum := { q with rotCt := s.ctOf pos / 15000000000 } }
  let q1 := s1.quorum
  if q.raise then { s1 with quorum := { q1 with raiseNow := true, ask := true } }
  else match b.spare with
    | none => s1
    | some sp =>
      let old := carrierPos s pos q.rotTurn
      let gs := (s.eng old).graphs.filter fun (g : Nat × Graph) => g.2.live
      if b.level ≠ 3 then s1
      else if gs.any fun (g : Nat × Graph) => decide (g.2.stretch < 1500) then raiseQevt s1 old 4
      else { s1 with quorum := { q1 with rotating := some (sp, old, s.ctOf old), moves := gs.map (·.1), moved := [] } }

/-- The last graph has moved: the roles change (R345). -/
def endRotation (s : State) (pos sp old : Nat) : State :=
  let q := s.quorum
  let s1 := remap s (swapCarr (s.chip pos).br.carr q.rotTurn sp old) (some old)
  { s1 with quorum := { q with rotating := none, moves := [], moved := [], rotTurn := (q.rotTurn + 1) % 3 } }

/-- A graph moves to the spare (R345): the mirror of a frame that began since the rotation started is complete. It starts there under
the logical number of its carrier, on cores owned accordingly. -/
def moveGraph (s : State) (gid sp old began : Nat) : State :=
  match s.graph? old gid, newestSlot s gid with
  | some g, some (_, m) =>
    if g.mirror ≠ [] ∨ m.ct < began ∨ !slotGood s m then s
    else
      let lc := (s.chip sp).lchip
      let q := s.quorum
      let s1 := stopGraph { s with quorum := { q with moves := q.moves.filter (· != gid), moved := q.moved ++ [gid] } } old gid
      let s2 := s1.modChip sp fun c => { c with lchip := swapCarr lc q.rotTurn sp old }
      let s3 := match s2.conf with
        | some f => ownCores s2 sp f
        | none => s2
      (bringGraph s3 sp gid g.addr (some m)).modChip sp fun c => { c with lchip := lc }
  | _, _ => s

/-- SPARE_ROTATION (R345): at a rotation point, as chiplet `pos` counts it; then, for each graph `gid` of the carrier, its move; then
the change of roles. -/
def execSpareRotation (s : State) : Out :=
  let a := s.focus.arg
  let q := s.quorum
  if 4 ≤ a.pos ∨ (s.chip a.pos).br.held ∨ q.restore ≠ [] ∨ q.prop.isSome then .next s
  else match q.rotating with
    | none =>
      if s.ctOf a.pos / 15000000000 ≤ q.rotCt then .next s else .next (rotationPoint s a.pos)
    | some (sp, old, began) =>
      if q.moves.all fun g => (s.graph? old g).isNone then .next (endRotation s a.pos sp old)
      else if q.moves.contains a.gid then engDone (moveGraph s a.gid sp old began) sp
      else .next s

end Sys2Proof.Machine
end

