-- ==== Sys2Proof/Machine/Health.lean ====
section
/-!
DEFINITION. The scrubber, suspect scores, scan tests, the discipline of common time, droop and temperature (R327, R330, R332, R334,
R335, R353, R376, R378).
-/
namespace Sys2Proof.Machine
open Sys2Proof

/-! ## The scrubber (R330) -/

/-- SCRUB_READ: the sector at address `value` is read; an error in it is recorded, and a correctable one queued for write-back. -/
def execScrubRead (s : State) : Out :=
  let x := s.focus.arg.value.toNat
  if s.bad.contains x then .next (errSector s 3 x)
  else if s.weak.contains x then
    let s1 := errSector s 2 x
    .next (if s1.scrubQ.contains x then s1 else { s1 with scrubQ := s1.scrubQ ++ [x] })
  else .next s

/-- SCRUB_WRITEBACK: a queued sector to which no other write has performed since is written back. -/
def execScrubWriteback (s : State) : Out :=
  let x := s.focus.arg.value.toNat
  if s.scrubQ.contains x then .next { s with scrubQ := s.scrubQ.filter (· != x), weak := s.weak.filter (· != x) } else .next s

/-! ## Suspect scores (R332) -/

/-- SUSPECT_DECAY: every 15,000,000,000 counts each nonzero score of the chiplet's cores decreases by 1. -/
def execSuspectDecay (s : State) : Out :=
  let pos := s.focus.arg.pos
  let b := (s.chip pos).br
  if 4 ≤ pos ∨ s.ctOf pos < b.decayCt + 15000000000 then .next s
  else
    let lower := fun m : SMap Nat => m.map fun (u : Nat × Nat) => (u.1, u.2 - 1)
    let s1 := modBr s pos fun b => { b with decayCt := b.decayCt + 15000000000 }
    .next ((List.range 34).foldl (fun s k => s.modCore (coreKey pos k) fun c => { c with suspect := lower c.suspect }) s1)

/-! ## Scans (R334, R335) -/

/-- A timetabled node has its release tick within the next 250 ticks, in this frame or the next. -/
def releaseNear (s : State) (pos : Nat) (g : Graph) (n : Node) : Bool :=
  let t := s.tick pos
  let near := fun r : Nat => decide (t ≤ r) && decide (r ≤ t + 250)
  n.timed && (near (g.fstart + n.release) || near (g.nextStart + n.release))

/-- A scan of logical core `c` may start: its contexts have been idle for 1,500 counts with nothing placed on it, and no node of its
partition is ready or has its release near. -/
def scanOk (s : State) (pos c : Nat) : Bool :=
  let e := (s.chip pos).lc c
  let k := coreKey pos e.pcore
  decide (c < 32) && e.valid && e.cstate == 0 && (nodesOn s pos c).isEmpty
    && (List.range 4).all (fun x => (s.ctx (k * 4 + x)).st == .idle) && decide ((s.core k).idleSince + 1500 ≤ s.ctOf pos)
    && (allNodes s pos).all fun (_, _, g, n) =>
        !(e.owned && g.part == e.part && g.live) || (n.st != 2 && !releaseNear s pos g n)

/-- A core is put in scan. -/
def beginScan (s : State) (pos phys : Nat) : State :=
  s.modCore (coreKey pos phys) fun c => { c with inScan := true, scanCt := s.ctOf pos }

/-- SCAN_START: of logical core `idx`, or, with `flag`, of physical core `core`, a spare that is not mapped; one core at a time. -/
def execScanStart (s : State) : Out :=
  let a := s.focus.arg
  let c := s.chip a.pos
  if 4 ≤ a.pos ∨ (List.range 34).any (fun k => (s.core (coreKey a.pos k)).inScan) then .next s
  else if a.flag then
    if a.core < 34 ∧ !bitOf c.br.retired a.core ∧ allTo 32 (fun n => !((c.lc n).valid && (c.lc n).pcore == a.core)) then
      .next (beginScan s a.pos a.core)
    else .next s
  else if scanOk s a.pos a.idx then
    .next (beginScan (modLc s a.pos a.idx fun e => { e with cstate := 1 }) a.pos (c.lc a.idx).pcore)
  else .next s

/-- SCAN_COMPLETE: the scan of physical core `core` has taken its 300,000 counts; with `flag` its signature is wrong. -/
def execScanComplete (s : State) : Out :=
  let a := s.focus.arg
  let k := coreKey a.pos a.core
  let c := s.core k
  if !unitOk a.pos a.core 0 ∨ !c.inScan ∨ s.ctOf a.pos < c.scanCt + 300000 then .next s
  else
    let s1 := (reinitCore s k).modCore k fun h => { h with lastScan := s.ctOf a.pos, overdue := false }
    match (s.chip a.pos).lcOf? a.core with
    | some n =>
      if a.flag then engDone (unmapCore (modLc s1 a.pos n fun e => { e with cstate := 2 }) a.pos n) a.pos
      else .next (modLc s1 a.pos n fun e => { e with cstate := if e.cstate = 1 then 0 else e.cstate })
    | none =>
      .next (if a.flag then modBr s1 a.pos fun b => { b with retired := b.retired ||| 2 ^ a.core } else s1)

/-- SCAN_OVERDUE: logical core `idx` has been left unscanned for more than 60 s; logged once. -/
def execScanOverdue (s : State) : Out :=
  let a := s.focus.arg
  let e := (s.chip a.pos).lc a.idx
  let k := coreKey a.pos e.pcore
  let c := s.core k
  if 4 ≤ a.pos ∨ 32 ≤ a.idx ∨ !e.valid ∨ c.overdue ∨ s.ctOf a.pos ≤ c.lastScan + 90000000000 then .next s
  else
    .next (slip (s.modCore k fun c => { c with overdue := true }) a.pos 6 none 4 (BitVec.ofNat 64 (logicalCore s k))
      (BitVec.ofNat 64 c.lastScan))

/-! ## Common time (R353) -/

/-- CT_SAMPLE_SEND: every 150,000 counts the lead sends its CT to the other chiplets. -/
def execCtSampleSend (s : State) : Out :=
  let pos := s.focus.arg.pos
  let c := s.chip pos
  if 4 ≤ pos ∨ !c.boot.linksUp ∨ c.br.halted ∨ leadOf s pos ≠ pos ∨ c.ct < c.disc.sentCt + 150000 then .next s
  else
    let s1 := s.modChip pos fun h => { h with disc := { h.disc with sentCt := c.ct, off := 0 } }
    .next (((List.range 4).filter (· != pos)).foldl (fun s q =>
      s.modChip q fun h => { h with disc := { h.disc with sample := some (c.ct, h.ct), good := if h.disc.lead = pos then h.disc.good else 0
                                                          since := if h.disc.lead = pos then h.disc.since else 0, lead := pos } }) s1)

/-- CT_DISCIPLINE: a follower measures its offset from the lead's sample, and removes it by slewing; the bound is 4 counts for the first
four samples after a change of lead, and 2 thereafter. -/
def execCtDiscipline (s : State) : Out :=
  let pos := s.focus.arg.pos
  let c := s.chip pos
  match c.disc.sample with
  | none => .next s
  | some (lead, own) =>
    let d : Int := (own : Int) - lead
    let lim := if c.disc.since < 4 then 4 else 2
    let lost := c.boot.ctOk && decide (lim < d.natAbs)
    let good := if d.natAbs ≤ 2 then Nat.min 4 (c.disc.good + 1) else 0
    let s1 := s.modChip pos fun h =>
      { h with disc := { h.disc with sample := none, off := d, good := if lost then 0 else good, since := Nat.min 4 (h.disc.since + 1) }
               boot := { h.boot with ctOk := !lost && (h.boot.ctOk || good == 4) } }
    .next (if lost then evidence s1 pos pos 4 none else s1)

/-- A chiplet's common time after `n` counts of its reference: one count in 1,500 is added or withheld until the offset is removed; it
never decreases. -/
def tickChip (c : Chip) (n : Nat) : Chip :=
  let d := c.disc
  if d.off = 0 then { c with ct := c.ct + n, disc := { d with frac := 0 } }
  else
    let z := d.frac.toNat + n
    let k := Nat.min (z / 1500) d.off.natAbs
    if 0 < d.off then { c with ct := c.ct + (n - k), disc := { d with off := d.off - k, frac := (z % 1500 : Nat) } }
    else { c with ct := c.ct + n + k, disc := { d with off := d.off + k, frac := (z % 1500 : Nat) } }

/-- The agreement that a follower's copy keeps with the lead's while it holds CTOK and its clock is sound (R1, R353): within 2 counts,
within 4 in the first four samples after a change of lead. -/
def agree (s : State) (pos : Nat) (lead own next : Nat) : Nat :=
  let c := s.chip pos
  let l := s.chip c.disc.lead
  let lim := if c.disc.since < 4 then 4 else 2
  if c.disc.lead = pos ∨ !(c.boot.ctOk && l.boot.ctOk) ∨ c.disc.loose ∨ l.disc.loose then next
  else Nat.max own (Nat.max (lead - lim) (Nat.min (lead + lim) next))

/-- The common time of every chiplet advances, each by what its reference counts (R353), and the credits of multicasts that fall due are
applied (R224). -/
def advance (s : State) (dts : List Nat) : State :=
  let s1 := (List.range 4).foldl (fun s p => s.modChip p fun c => tickChip c (dts.getD p 0)) s
  let s2 := (List.range 4).foldl (fun s2 p => s2.modChip p fun c =>
    { c with ct := agree s p (s2.ctOf c.disc.lead) (s.ctOf p) c.ct }) s1
  s2.cores.foldl (fun s (k, c) => if c.credQ = [] then s else applyCredits s k) s2

/-! ## Droop (R376) -/

/-- The reading of a droop monitor, in millivolts: the lowest since the last read is the first to come after it (R4). -/
def readVolt (s : State) (pos n mv : Nat) : State :=
  s.modChip pos fun c =>
    let p := c.power
    let (_, low, new) := sget (0, 0xFFFF, true) p.volts n
    let vs := sput p.volts n (mv % 65536, if new then mv % 65536 else Nat.min low (mv % 65536), false)
    let fine := allTo 8 fun i => decide (720 ≤ (sget (0, 0xFFFF, true) vs i).1)
    { c with power := { p with volts := vs, okCt := if fine then p.okCt.or (some c.ct) else none } }

/-- DROOP_THROTTLE: monitor `n` reads `m` mV; below 0.70 V the clock falls to 750 MHz, and DROOPS counts it. -/
def execDroopThrottle (s : State) : Out :=
  let a := s.focus.arg
  if 4 ≤ a.pos ∨ 8 ≤ a.n then .next s
  else
    let s1 := readVolt s a.pos a.n a.m
    if 700 ≤ a.m ∨ (s.chip a.pos).power.thr then .next s1
    else .next (s1.modChip a.pos fun c =>
      let p := c.power
      { c with power := { p with thr := true, thrCt := c.ct, droops := Nat.min 0xFFFF (p.droops + 1) } })

/-- DROOP_RELEASE: every monitor has read at least 0.72 V for 1,500 counts, and the throttle has lasted as long. -/
def execDroopRelease (s : State) : Out :=
  let pos := s.focus.arg.pos
  let p := (s.chip pos).power
  let since := match p.okCt with
    | some t => decide (t + 1500 ≤ s.ctOf pos)
    | none => false
  if 4 ≤ pos ∨ !p.thr ∨ !since ∨ s.ctOf pos < p.thrCt + 1500 then .next s
  else .next (s.modChip pos fun c => { c with power := { c.power with thr := false } })

/-! ## Temperature (R378) -/

/-- TSTATE after a highest reading of `t` sixteenths of a degree (Table 20-3). -/
def nextTstate (ctl : W32) (old : Nat) (t : Int) : Nat :=
  let f := fun lo : Nat => ((bitsOf ctl.toNat (lo + 7) lo : Nat) : Int) * 16
  if old = 3 ∨ f 24 ≤ t then 3
  else if f 16 ≤ t ∨ (old = 2 ∧ f 16 - f 0 ≤ t) then 2
  else if f 8 ≤ t ∨ (1 ≤ old ∧ f 8 - f 0 ≤ t) then 1
  else 0

/-- TEMPERATURE_SAMPLE: every 1,500 counts; `bytes` hold the 16 readings of 2 bytes and the 4 counts of the process monitors. -/
def execTemperatureSample (s : State) : Out :=
  let a := s.focus.arg
  let c := s.chip a.pos
  if 4 ≤ a.pos ∨ c.ct < c.power.tempCt + 1500 ∨ a.bytes.length ≠ 48 then .next s
  else
    let num := fun i n => leValue ((a.bytes.drop i).take n)
    let ts := (List.range 16).map fun i => toSigned 16 (num (2 * i) 2)
    let hot := ts.foldl (fun (m : Int) t => if m < t then t else m) (-32768)
    .next (s.modChip a.pos fun c =>
      let p := c.power
      let up := fun (m : SMap (Int × Int × Bool)) (x : Int × Nat) =>
        let (_, mx, new) := sget (0, -32768, true) m x.2
        sput m x.2 (x.1, if new ∨ mx < x.1 then x.1 else mx, false)
      { c with power := { p with temps := ts.zipIdx.foldl up p.temps, tempCt := c.ct, tstate := nextTstate p.thctl p.tstate hot
                                 procs := (List.range 4).foldl (fun m i => sput m i (BitVec.ofNat 32 (num (32 + 4 * i) 4))) p.procs } })

end Sys2Proof.Machine
end

