-- ==== Sys2Proof/Machine/HostIf.lean ====
section
/-!
DEFINITION. The host's side: the data window, the endpoint, registers read and written, and bring-up (R36 to R41, R50, R53, R296, R325,
R329, R350, R351, R379).
-/
namespace Sys2Proof.Machine
open Sys2Proof

/-! ## The endpoint's function (R35) -/

/-- What a function presents in its configuration space (R35). -/
structure Endpoint where
  vendor   : Nat
  device   : Nat
  revision : Nat
  header   : Nat
  vectors  : Nat
  aer      : Bool
  flr      : Bool
  maxPayload : Nat
  maxRead  : Nat
  tag10    : Bool
  /-- ATS, PRI, PASID, SR-IOV, L0s, L1, L1 substates and peer-to-peer requests -/
  others   : List Bool
  deriving DecidableEq, Repr

/-- The endpoint of a chiplet: nothing of it changes. -/
def endpoint (pos : Nat) : Endpoint :=
  { vendor := 0x1EA7, device := 0x4A04, revision := pos, header := 0, vectors := 32, aer := true, flr := true, maxPayload := 512
    maxRead := 4096, tag10 := true, others := List.replicate 8 false }

/-- Words 0 and 8 of the configuration header, as a configuration request reads them. -/
def configWord (pos off : Nat) : Nat :=
  let e := endpoint pos
  if off = 0 then e.device * 65536 + e.vendor else if off = 8 then e.revision else 0

/-! ## The data window (R36, R38) -/

/-- The physical address of a data-window offset: the home DRAM, or the aperture. -/
def windowPa (s : State) (pos off : Nat) : Nat :=
  if off < 0x800000000 then pos * 0x800000000 + off
  else (s.chip pos).boot.apBase.toNat + (off - 0x800000000)

/-- The aperture refuses an address in a chiplet control region, the host region or a hole (R36). -/
def apertureRefuses : Place → Bool
  | .dram _ | .window _ _ | .held _ _ _ => false
  | .chipCtl _ _ | .host _ | .hole => true

/-- An instruction store, which no write of the host reaches (R73; log entry 123). -/
def storeWindow : Place → Bool
  | .window _ off => areaOf off == .istore
  | .dram _ | .held _ _ _ | .chipCtl _ _ | .host _ | .hole => false

/-- An alias of a core whose remap is under way: the access is held at the fabric (R56). -/
def heldAlias : Place → Bool
  | .held _ _ _ => true
  | .dram _ | .window _ _ | .chipCtl _ _ | .host _ | .hole => false

/-- An access that one request of the host can make (R35): of at most `most` bytes, inside the window, not across the start of the
aperture. -/
def windowOk (most off n : Nat) : Bool :=
  decide (0 < n) && decide (n ≤ most) && (decide (off + n ≤ 0x800000000) || (decide (0x800000000 ≤ off) && decide (off + n ≤ 0x1000000000)))

/-- A discarded write is counted and logged (R38). -/
def discardWrite (s : State) (pos pa : Nat) : State :=
  let s1 := s.modChip pos fun c =>
    { c with wdiscN := if c.wdiscN = 0xFFFFFFFF then c.wdiscN else c.wdiscN + 1, wdiscCt := BitVec.ofNat 32 c.ct }
  let (d, s2) := s1.takeFree
  logRec s2 pos { kind := 3, sub := 1, lcore := 0x7F, ctx := 0, agent := 7, a := BitVec.ofNat 64 pa, b := d }

/-- The chiplet that holds a place cannot be reached from the port: its link is down or closed (R336). -/
def cutOff (s : State) (pos : Nat) (pl : Place) : Bool :=
  let q := placePos pos pl
  q != pos && ((s.link pos q).st == 0 || (s.link pos q).st == 3)

/-- DATA_WINDOW_WRITE: the host writes `bytes` at offset `value` of the data window of chiplet `pos`. -/
def execDataWindowWrite (s : State) : Out :=
  let a := s.focus.arg
  let off := a.value.toNat
  let n := a.bytes.length
  let c := s.chip a.pos
  if 4 ≤ a.pos ∨ !windowOk (endpoint a.pos).maxPayload off n ∨ !c.pcie ∨ c.br.held then .next s
  else
    let pa := windowPa s a.pos off
    let pl := placeOf s a.pos pa
    let pe := placeOf s a.pos (pa + n - 1)
    let ra := pl.addr pa
    if !c.boot.dramOk ∨ apertureRefuses pl ∨ apertureRefuses pe ∨ storeWindow pl ∨ storeWindow pe ∨ sealedAt s ra n then
      .next (discardWrite s a.pos pa)
    else if cutOff s a.pos pl ∨ heldAlias pl then .next s
    else
      let (s1, ok) := memStore s a.pos pl ra a.bytes false
      .next (if ok then s1 else discardWrite s1 a.pos pa)

/-- DATA_WINDOW_READ: the host reads `n` bytes at offset `value`: the data, Unsupported Request or Completer Abort. -/
def execDataWindowRead (s : State) : Out :=
  let a := s.focus.arg
  let off := a.value.toNat
  let c := s.chip a.pos
  if 4 ≤ a.pos ∨ !windowOk (endpoint a.pos).maxRead off a.n ∨ !c.pcie then .next s
  else
    let pa := windowPa s a.pos off
    let pl := placeOf s a.pos pa
    if !c.boot.dramOk ∨ c.br.held ∨ apertureRefuses pl ∨ apertureRefuses (placeOf s a.pos (pa + a.n - 1)) then
      .next { s with hostGot := (1, [], c.ct) }
    else if heldAlias pl then .next s
    else if cutOff s a.pos pl then .next { s with hostGot := (2, [], c.ct) }
    else match memLoad s pl (pl.addr pa) a.n with
      | (some bs, s1) => .next { s1 with hostGot := (0, bs, c.ct) }
      | (none, s1) => .next { s1 with hostGot := (2, [], c.ct) }

/-! ## The endpoint (R40, R41) -/

/-- ENDPOINT_RESET (R41): only the endpoint, its port registers and its MSI-X state; `flag`: the link is lost. HSTAT, a view of what is
not reset, stays as it is (log entry 109). -/
def execEndpointReset (s : State) : Out :=
  let a := s.focus.arg
  if 4 ≤ a.pos then .next s
  else .next (s.modChip a.pos fun c =>
    let b := c.boot
    { c with boot := { b with apBase := 0 }, wdiscN := 0, wdiscCt := 0, msixTab := [], msixMask := 0xFFFFFFFF, msixPend := 0
             pcie := c.pcie && !a.flag })

/-- MSIX_UNMASK (R40): the host clears the mask bit of vector `n`. -/
def execMsixUnmask (s : State) : Out :=
  let a := s.focus.arg
  if 4 ≤ a.pos ∨ 32 ≤ a.n ∨ !(s.chip a.pos).pcie ∨ (s.chip a.pos).br.held then .next s
  else .next (writeMsix s a.pos (2 * a.n + 1) 0 (2 ^ 32))

/-! ## Registers -/

/-- QEVT_WRITE (R50). -/
def execQevtWrite (s : State) : Out := hostSet s 0x20200 s.focus.arg.value

/-- WATERMARK_ARM (R351): a write of WMNv, v in `n`. -/
def execWatermarkArm (s : State) : Out :=
  let a := s.focus.arg
  if a.n < 8 ∨ 32 ≤ a.n then .next s else hostSet s (0x1804000 + 8 * a.n) a.value

/-- WDISC_READ (R37), ERRSTAT_READ (R329), LKCNT_READ of link `n` (R296), TEMP_READ, VMON_READ, PWRSTAT_READ (R379). -/
def execWdiscRead (s : State) : Out := hostGet s 0x10
def execErrstatRead (s : State) : Out := hostGet s 0x2000000
def execLkcntRead (s : State) : Out :=
  let n := s.focus.arg.n
  if 3 ≤ n then .next s else hostGet s (0x1C00008 + 0x100 * n)
def execTempRead (s : State) : Out :=
  let n := s.focus.arg.n
  if 16 ≤ n then .next s else hostGet s (0x4000000 + 8 * n)
def execVmonRead (s : State) : Out :=
  let n := s.focus.arg.n
  if 8 ≤ n then .next s else hostGet s (0x4000080 + 8 * n)
def execPwrstatRead (s : State) : Out := hostGet s 0x4000108

/-- DBGCTL_READ (R325): a resident read of DBGCTL of context `ctx` returns it, and STEPPED clears. -/
def execDbgctlRead (s : State) : Out :=
  let a := s.focus.arg
  if !unitOk a.pos a.core a.ctx then .next s
  else
    let (v, s1) := coreCtlRead s (coreKey a.pos a.core) (0x700100 + 8 * a.ctx) 8
    .next { s1 with hostGot := (0, leBytes 8 v, s.ctOf a.pos) }

/-- REGISTER_WRITE (R4): a host write of the low `n` bytes of `value` at control-window offset `m`. -/
def execRegisterWrite (s : State) : Out :=
  let a := s.focus.arg
  if 4 ≤ a.pos ∨ a.n = 0 ∨ 8 < a.n ∨ 0x10000000 < a.m + a.n ∨ !(s.chip a.pos).pcie then .next s
  else engDone (ctlWriteBy s a.pos true a.m a.n (a.value.toNat % 2 ^ (8 * a.n))) a.pos

/-- DOORBELL_OVERRUN (R49): a write of the doorbell while BUSY is 1. -/
def execDoorbellOverrun (s : State) : Out :=
  let pos := s.focus.arg.pos
  let c := s.chip pos
  if 4 ≤ pos ∨ !c.pcie ∨ !c.mail.busy then .next s else .next (ringDoorbell s pos)

/-! ## Bring-up (R53) -/

/-- A range of memory reads as it does after reset, without errors. -/
def clearRange (s : State) (lo n : Nat) : State :=
  let out := fun x : Nat => decide (x < lo) || decide (lo + n ≤ x)
  { s with mem := s.mem.filter fun x => out x.1, bad := s.bad.filter out, weak := s.weak.filter out, scrubQ := s.scrubQ.filter out }

/-- CHIPLET_RESET (R53): the chiplet starts its bring-up. Its fuses and its signature index last (R46, R54); CT goes on (R353); a closed
chiplet stays closed (R337). With the last chiplet that was up, what the Bridges held together is gone. -/
def execChipletReset (s : State) : Out :=
  let pos := s.focus.arg.pos
  if 4 ≤ pos then .next s
  else
    let c := s.chip pos
    let s1 := holdChip s pos
    let s2 := s1.setChip pos
      { Chip.reset with
        ct := c.ct, msix := c.msix
        br := { Bridge.reset with held := c.br.held || c.br.closed, closed := c.br.closed, beatCt := c.ct }
        boot := { Boot.reset with digests := c.boot.digests, revoked := c.boot.revoked, minSvn := c.boot.minSvn
                                  sigNext := c.boot.sigNext, since := c.ct } }
    let s3 := (List.range 34).foldl (fun s k => clearRange s (winBase (coreKey pos k)) 0x1000000) s2
    if (List.range 4).any fun q => (s3.chip q).boot.linksUp then .next s3
    else .next { s3 with tsets := [], quorum := Quorum.reset, conf := none }

def modBoot (s : State) (pos : Nat) (f : Boot → Boot) : State := s.modChip pos fun c => { c with boot := f c.boot }

/-- BRIDGE_ROM_CHECK (step 1). -/
def execBridgeRomCheck (s : State) : Out :=
  let pos := s.focus.arg.pos
  if 4 ≤ pos then .next s else .next (modBoot s pos fun b => { b with romOk := true })

/-- PCIE_LINK_TRAINED (step 2; after a loss of the link, its return): configuration requests are answered, the first with the header's
first word (R35). -/
def execPcieLinkTrained (s : State) : Out :=
  let pos := s.focus.arg.pos
  if 4 ≤ pos ∨ !(s.chip pos).boot.romOk then .next s
  else .next { s.modChip pos fun c => { c with pcie := true } with hostGot := (0, leBytes 4 (configWord pos 0), s.ctOf pos) }

/-- DRAM_TRAINED (step 3): all 32 GiB are initialised. -/
def execDramTrained (s : State) : Out :=
  let pos := s.focus.arg.pos
  let c := s.chip pos
  if 4 ≤ pos ∨ !c.boot.romOk ∨ !c.pcie ∨ c.boot.dramOk then .next s
  else .next (modBoot (clearRange s (pos * 0x800000000) 0x800000000) pos fun b => { b with dramOk := true })

/-- UCIE_LINKS_TRAINED (step 4): the links to the chiplets of mask `m` are up, and the discipline to the lead begins. A chiplet that
has not come so far within 300,000,000 counts has missed the step, is left out of the healthy count, and is held closed; `flag` says that
its links do not train. -/
def execUcieLinksTrained (s : State) : Out :=
  let a := s.focus.arg
  let c := s.chip a.pos
  if 4 ≤ a.pos ∨ c.boot.linksUp then .next s
  else if a.flag ∨ c.boot.since + 300000000 < c.ct then
    if c.ct ≤ c.boot.since + 300000000 ∨ (c.br.closed && !c.br.wasReset) then .next s
    else
      let mask := (s.chip a.pos).br.dec - ((s.chip a.pos).br.dec &&& 2 ^ a.pos)
      let s1 := closeChip s mask a.pos
      .next ((List.range 4).foldl (fun s q => modBr s q fun b => { b with dec := b.dec - (b.dec &&& 2 ^ a.pos) }) s1)
  else if !c.boot.romOk ∨ !c.pcie ∨ !c.boot.dramOk then .next s
  else
    let peers := (setBitsOf 4 a.m).filter (· != a.pos)
    let s1 := peers.foldl (fun s q =>
      modLink (modLink s a.pos q fun l => { l with st := 2 }) q a.pos fun l => if l.st = 0 then { l with st := 2 } else l) s
    let s2 := modBoot s1 a.pos fun b => { b with linksUp := true }
    let lead := leadOf s2 a.pos
    .next (s2.modChip a.pos fun h =>
      { h with disc := { Disc.reset with lead := lead }
               br := { h.br with lastBeat := peers.map fun q => (q, c.ct), missed := [], beatCt := c.ct }
               boot := { h.boot with ctOk := lead == a.pos } })

end Sys2Proof.Machine
end

