-- ==== Sys2Proof/Machine/Xmss.lean ====
section
/-!
DEFINITION. SHAKE and the verification of an XMSS-SHAKE_20_256 signature, which R46 names; the functions themselves are those of FIPS 202
and RFC 8391, from outside the manual (log entry 12).
-/
namespace Sys2Proof.Machine
open Sys2Proof

/-! ## Keccak (FIPS 202) -/

/-- A 64-bit lane turned left by `n`. -/
def turn64 (x n : Nat) : Nat := (x <<< n ||| x >>> (64 - n)) % 2 ^ 64

/-- Lane (x, y) of a state of 25 lanes. -/
def laneAt (a : List Nat) (x y : Nat) : Nat := a.getD (x % 5 + 5 * (y % 5)) 0

/-- A state from its lanes. -/
def lanes (f : Nat → Nat → Nat) : List Nat := (List.range 25).map fun i => f (i % 5) (i / 5)

/-- The rotation of each lane in rho. -/
def rhoTurn : List Nat :=
  [0, 1, 62, 28, 27, 36, 44, 6, 55, 20, 3, 10, 43, 25, 39, 41, 45, 15, 21, 8, 18, 2, 61, 56, 14]

/-- The constants of iota. -/
def roundConsts : List Nat :=
  [0x0000000000000001, 0x0000000000008082, 0x800000000000808A, 0x8000000080008000, 0x000000000000808B, 0x0000000080000001,
   0x8000000080008081, 0x8000000000008009, 0x000000000000008A, 0x0000000000000088, 0x0000000080008009, 0x000000008000000A,
   0x000000008000808B, 0x800000000000008B, 0x8000000000008089, 0x8000000000008003, 0x8000000000008002, 0x8000000000000080,
   0x000000000000800A, 0x800000008000000A, 0x8000000080008081, 0x8000000000008080, 0x0000000080000001, 0x8000000080008008]

/-- One round: theta, rho and pi, chi, iota. -/
def keccakRound (a : List Nat) (rc : Nat) : List Nat :=
  let c := (List.range 5).map fun x => (List.range 5).foldl (fun z y => z ^^^ laneAt a x y) 0
  let d := (List.range 5).map fun x => c.getD ((x + 4) % 5) 0 ^^^ turn64 (c.getD ((x + 1) % 5) 0) 1
  let t := lanes fun x y => laneAt a x y ^^^ d.getD x 0
  let b := lanes fun x y => turn64 (laneAt t (x + 3 * y) x) (rhoTurn.getD ((x + 3 * y) % 5 + 5 * x) 0)
  let e := lanes fun x y => laneAt b x y ^^^ ((2 ^ 64 - 1 - laneAt b (x + 1) y) &&& laneAt b (x + 2) y)
  (e.headD 0 ^^^ rc) :: e.tail

/-- The permutation. -/
def keccakF (a : List Nat) : List Nat := roundConsts.foldl keccakRound a

/-- Take up one block of the message. -/
def absorbBlock (a : List Nat) (block : List Byte) : List Nat :=
  keccakF (a.zipIdx.map fun (l, i) => l ^^^ leNat ((block.drop (8 * i)).take 8))

/-- Take up `n` blocks of `rate` bytes. -/
def absorb (rate : Nat) : Nat → List Nat → List Byte → List Nat
  | 0, a, _ => a
  | n + 1, a, bs => absorb rate n (absorbBlock a (bs.take rate)) (bs.drop rate)

/-- The bytes of a state, `n` blocks of `rate` of them. -/
def squeeze (rate : Nat) : Nat → List Nat → List Byte
  | 0, _ => []
  | n + 1, a => (a.flatMap fun l => leBytes 8 l).take rate ++ squeeze rate n (keccakF a)

/-- A message padded to whole blocks with the suffix of SHAKE. -/
def shakePad (rate : Nat) (bs : List Byte) : List Byte :=
  let z := rate - 1 - bs.length % rate
  if z = 0 then bs ++ [0x9F] else bs ++ (0x1F : Byte) :: List.replicate (z - 1) 0 ++ [0x80]

/-- SHAKE with a rate in bytes. -/
def shake (rate n : Nat) (bs : List Byte) : List Byte :=
  let p := shakePad rate bs
  (squeeze rate ((n + rate - 1) / rate) (absorb rate (p.length / rate) (List.replicate 25 0) p)).take n

/-- SHAKE256 and SHAKE128 of a byte string, of `n` bytes. -/
def shake256 (n : Nat) (bs : List Byte) : List Byte := shake 136 n bs
def shake128 (n : Nat) (bs : List Byte) : List Byte := shake 168 n bs

/-! ## XMSS (RFC 8391, n = 32, w = 16, SHAKE128 as its hash) -/

/-- `n` bytes of a number, the first most significant. -/
def beBytes (n v : Nat) : List Byte := (leBytes n v).reverse
def beValue (bs : List Byte) : Nat := leNat bs.reverse

/-- The keyed hash with prefix `p`: 0 F, 1 H, 2 H_msg, 3 PRF. -/
def keyed (p : Nat) (key m : List Byte) : List Byte := shake128 32 (beBytes 32 p ++ key ++ m)

/-- Bytes combined bit by bit. -/
def xorBytes (a b : List Byte) : List Byte := a.zipWith (· ^^^ ·) b

/-- A hash address: type, its three words, and keyAndMask; layer and tree are 0. -/
def hashAddr (ty a b c k : Nat) : List Byte :=
  beBytes 12 0 ++ beBytes 4 ty ++ beBytes 4 a ++ beBytes 4 b ++ beBytes 4 c ++ beBytes 4 k

/-- `n` steps of chain `c` of one-time key `i` from step `j`. -/
def wotsChain (seed : List Byte) (i c : Nat) : Nat → Nat → List Byte → List Byte
  | 0, _, x => x
  | n + 1, j, x =>
    let key := keyed 3 seed (hashAddr 0 i c j 0)
    let mask := keyed 3 seed (hashAddr 0 i c j 1)
    wotsChain seed i c n (j + 1) (keyed 0 key (xorBytes x mask))

/-- The 67 digits to base 16 of a message digest and its checksum. -/
def wotsDigits (m : List Byte) : List Nat :=
  let d := m.flatMap fun b => [b.toNat / 16, b.toNat % 16]
  let sum := d.foldl (fun z x => z + (15 - x)) 0
  d ++ [sum / 256 % 16, sum / 16 % 16, sum % 16]

/-- Two nodes hashed together under an address of type `ty`. -/
def hashPair (seed : List Byte) (ty a b c : Nat) (l r : List Byte) : List Byte :=
  let prf := fun k => keyed 3 seed (hashAddr ty a b c k)
  keyed 1 (prf 0) (xorBytes l (prf 1) ++ xorBytes r (prf 2))

/-- One level of the L-tree of key `i`: pairs hashed, an odd node lifted. -/
def ltreeLevel (seed : List Byte) (i h : Nat) : Nat → List (List Byte) → List (List Byte)
  | n, l :: r :: t => hashPair seed 1 i h n l r :: ltreeLevel seed i h (n + 1) t
  | _, t => t

/-- The root of the L-tree, in `n` levels from level `h`. -/
def ltree (seed : List Byte) (i : Nat) : Nat → Nat → List (List Byte) → List Byte
  | 0, _, t => t.headD []
  | n + 1, h, t => ltree seed i n (h + 1) (ltreeLevel seed i h 0 t)

/-- The root that leaf `i` and its authentication path give, from level `h`. -/
def treeRoot (seed : List Byte) (i : Nat) : Nat → List Byte → List (List Byte) → List Byte
  | _, x, [] => x
  | h, x, a :: r =>
    let n := i / 2 ^ (h + 1)
    treeRoot seed i (h + 1) (if i / 2 ^ h % 2 = 0 then hashPair seed 2 0 h n x a else hashPair seed 2 0 h n a x) r

/-- Consecutive pieces of 32 bytes. -/
def octets32 (n : Nat) (bs : List Byte) : List (List Byte) := (List.range n).map fun i => (bs.drop (32 * i)).take 32

/-- A signature of a message is good under a public key of 68 bytes: OID, root, seed (R46). -/
def xmssOk (key m sig : List Byte) : Bool :=
  let root := (key.drop 4).take 32
  let seed := (key.drop 36).take 32
  let i := beValue (sig.take 4)
  let dig := keyed 2 ((sig.drop 4).take 32 ++ root ++ beBytes 32 i) m
  let ends := ((octets32 67 (sig.drop 36)).zip (wotsDigits dig)).zipIdx.map fun ((x, d), c) => wotsChain seed i c (15 - d) d x
  let leaf := ltree seed i 7 0 ends
  key.length == 68 && sig.length == 2820 && beValue (key.take 4) == 9 && decide (i < 2 ^ 20)
    && treeRoot seed i 0 leaf (octets32 20 (sig.drop (36 + 67 * 32))) == root

end Sys2Proof.Machine
end

