-- ==== Sys2Proof/Machine/Mailbox.lean ====
section
/-!
DEFINITION. The Bridge mailbox: images, quotes, task types and task sets (R32 to R34, R42, R45 to R54, R65, R197, R344, R374).
-/
namespace Sys2Proof.Machine
open Sys2Proof

/-! ## Commands -/

/-- Word i of the request, as the area holds it when the command is carried out (log entry 104). -/
def reqWord (s : State) (pos i : Nat) : W64 := (s.chip pos).mail.req.getD i 0

/-- A command has been carried out with a status. -/
def answer (s : State) (pos code : Nat) : State :=
  s.modChip pos fun c => { c with mail := { c.mail with job := none, result := some code } }

/-- A status that the manual does not state: a free byte. -/
def answerFree (s : State) (pos : Nat) : State :=
  let (w, s1) := s.takeFree
  answer s1 pos (w.toNat % 256)

/-- Carry out a submitted command: before the firmware runs, every command but LOAD is answered with 12. -/
def command (s : State) (cmd : Nat) (f : Nat → State) : Out :=
  let pos := s.focus.arg.pos
  let c := s.chip pos
  if 4 ≤ pos ∨ c.mail.job ≠ some cmd then .next s
  else if !c.boot.fwRun ∧ cmd ≠ 1 then .next (answer s pos 12)
  else engDone (f pos) pos

/-- `n` bytes of memory as the Bridge reads them; withheld data are free (R327). -/
def bridgeRead (s : State) (a n : Nat) : List Byte × State :=
  if s.readBad a n then freeBytes n (s.noteRead a n) else (s.mem.readBytes a n, s.noteRead a n)

/-- Words of bytes. -/
def bytesWord (bs : List Byte) (i : Nat) : Nat := leValue ((bs.drop (8 * i)).take 8)

/-- MAILBOX_COMPLETION (R49). -/
def execMailboxCompletion (s : State) : Out :=
  let pos := s.focus.arg.pos
  match (s.chip pos).mail.result with
  | none => .next s
  | some code =>
    .next (fireVector (s.modChip pos fun c => { c with mail := { c.mail with busy := false, code := code, result := none } }) pos 0)

/-- UNKNOWN_COMMAND (R49). -/
def execUnknownCommand (s : State) : Out :=
  match (s.chip s.focus.arg.pos).mail.job with
  | some cmd => if 1 ≤ cmd ∧ cmd ≤ 8 then .next s else command s cmd fun pos => answer s pos 11
  | none => .next s

/-! ## LOAD (R45 to R47) -/

/-- A container header (Table 3-4), from its 128 bytes. -/
structure Header where
  bytes  : List Byte
  kind   : Nat
  slot   : Nat
  part   : Nat
  svn    : Nat
  len    : Nat
  addr   : Nat
  deriving DecidableEq, Repr

def headerOf (bs : List Byte) : Header :=
  let w := bytesWord bs
  { bytes := bs, kind := bitsOf (w 0) 31 24, slot := bitsOf (w 0) 15 8, part := bitsOf (w 0) 2 0, svn := bitsOf (w 1) 63 32
    len := bitsOf (w 1) 31 0, addr := bitsOf (w 2) 45 0 }

/-- Step 1 of R47: MAGIC, VER, KIND, the reserved fields and the alignments. -/
def Header.bad (h : Header) : Bool :=
  let w := bytesWord h.bytes
  bitsOf (w 0) 63 32 != 0x4C4A494D || bitsOf (w 0) 23 16 != 1 || decide (h.kind < 1) || decide (5 < h.kind)
    || bitsOf (w 0) 7 3 != 0 || bitsOf (w 2) 63 46 != 0 || w 3 != 0 || ((List.range 8).any fun i => w (8 + i) != 0)
    || decide (3 < h.slot) || h.len % 4096 != 0 || h.len == 0 || (h.kind != 1 && h.addr % 4096 != 0)

/-- The fused minimum SVN of a key slot and a kind. -/
def minSvn (b : Boot) (slot kind : Nat) : Nat := sget 0 b.minSvn (8 * slot + kind)

/-- Entry `i` of a key block; none for a slot without a key. -/
def keyEntry (block : List Byte) (i : Nat) : Option (List Byte) :=
  let e := (block.drop (68 * i)).take 68
  if e.all (· == 0) then none else some e

/-- Step 3 of R47: the status of a failure. -/
def keyFail (b : Boot) (h : Header) (sig block : List Byte) : Option Nat :=
  if h.kind = 1 then
    let ok := (List.range 4).all fun i => match keyEntry block i with
      | some k => sget? b.digests i == some (shake256 32 k)
      | none => true
    match keyEntry block h.slot with
    | some k => if ok && xmssOk k h.bytes sig then none else some 5
    | none => some 5
  else match sget? b.keys h.slot with
    | none => some 14
    | some k => if xmssOk k h.bytes sig then none else some 5

/-- Steps 2 to 4 of R47. -/
def loadFail (s : State) (b : Boot) (h : Header) (sig block : List Byte) : Option Nat :=
  if bitOf b.revoked h.slot then some 3
  else if h.svn < minSvn b h.slot h.kind then some 4
  else match keyFail b h sig block with
    | some c => some c
    | none =>
      if h.kind ≠ 1 ∧ (0x2000000000 < h.addr + h.len ∨ sealedAt s h.addr h.len) then some 6 else none

/-- Steps 5 to 7 of R47: the body is copied and hashed; a match seals the image and enters the measurement, and a mismatch leaves the
destination zero. -/
def sealBody (s : State) (pos : Nat) (h : Header) (body block : List Byte) : State :=
  let put := fun (s : State) (bs : List Byte) => if h.kind = 1 then s else s.writeMem h.addr bs
  if shake256 32 body ≠ (h.bytes.drop 32).take 32 then answer (put s (List.replicate h.len 0)) pos 7
  else
    let (id, s1) := (put s body).takeId
    let i : Image := { kind := h.kind, part := h.part, svn := h.svn, base := if h.kind = 1 then 0 else h.addr, len := h.len, seq := id }
    let s2 := s1.modChip pos fun c =>
      let b := c.boot
      let m := shake256 32 (b.meas ++ shake256 32 h.bytes)
      let keys := (List.range 4).filterMap fun k => (keyEntry block k).map fun e => (k, e)
      { c with images := i :: (if h.kind = 1 then c.images.filter (fun x => x.kind != 1) else c.images)
               boot := { b with meas := m, keys := if h.kind = 1 then keys else b.keys, fwRun := b.fwRun || h.kind == 1 } }
    answer s2 pos 0

/-- LOAD (R47). -/
def execLoad (s : State) : Out := command s 1 fun pos =>
  let a := (reqWord s pos 1).toNat
  let (hb, s1) := bridgeRead s a 128
  let h := headerOf hb
  let b := (s1.chip pos).boot
  if !b.fwRun ∧ h.kind ≠ 1 then answer s1 pos 12
  else if h.bad then answer s1 pos 2
  else
    let (sig, s2) := bridgeRead s1 (a + 0x80) 2820
    let (body, s3) := bridgeRead s2 (a + 0x1000) h.len
    let block := body.take 272
    match loadFail s3 b h sig block with
    | some c => answer s3 pos c
    | none => sealBody s3 pos h body block

/-! ## UNSEAL, QUOTE, JOIN, SVNRAISE, LEVELCAP -/

/-- A task-type entry names an image, or came from it (R48, R51). -/
def ttNames (i : Image) (tt : List W64) : Bool :=
  let n := ttNode tt
  overlap n.img (64 * n.ilen) i.base i.len || overlap (n.himg false) (4 * n.hlen false) i.base i.len
    || overlap (n.himg true) (4 * n.hlen true) i.base i.len

/-- What a started task set names: its 64 bytes and the placement list of each level (R32). -/
def taskSpans (s : State) (t : TaskSet) : List (Nat × Nat) :=
  (t.addr, 64) :: (List.range 5).map fun l =>
    let v := s.readNat (t.addr + 8 * (1 + l)) 8
    (bitsOf v 45 0, 16 * bitsOf v 57 46)

/-- A running graph, a task-type table or a task set names an image (Table 3-5). -/
def imageUsed (s : State) (i : Image) : Bool :=
  ((List.range 4).any fun q =>
    ((s.eng q).ttypes.any fun (e : Nat × TtEnt) => ttNames i e.2.w || overlap e.2.seg 64 i.base i.len)
      || (s.eng q).graphs.any fun (g : Nat × Graph) => g.2.live && g.2.nodes.any fun (n : Nat × Node) => ttNames i n.2.tt)
    || s.tsets.any fun t => (taskSpans s t).any fun x => decide (0 < x.2) && overlap x.1 x.2 i.base i.len

/-- No core holds a block of an image (R73). -/
def dropBlocks (s : State) (i : Image) : State :=
  { s with cores := s.cores.map fun (x : Nat × CoreSt) =>
      (x.1, { x.2 with istore := x.2.istore.filter fun (b : Nat × Nat) => !overlap b.2 4096 i.base i.len }) }

/-- UNSEAL (Table 3-5): the image at LOADADDR. -/
def execUnseal (s : State) : Out := command s 2 fun pos =>
  let a := (reqWord s pos 1).toNat
  match s.images.find? fun i => i.kind != 1 && i.base == a with
  | none => answer s pos 8
  | some i =>
    if imageUsed s i then answer s pos 1
    else answer ((List.range 4).foldl (fun s q => s.modChip q fun c => { c with images := c.images.filter (· != i) }) (dropBlocks s i)) pos 0

/-- A list cut or filled with zeros to `n` bytes. -/
def fitBytes (n : Nat) (bs : List Byte) : List Byte := (bs ++ List.replicate (n - bs.length) 0).take n

/-- The bytes 0 to 119 of a quote (R54): byte 4 is the package position, and the images counted are those that this chiplet has loaded
(log entries 107 and 108). -/
def quoteHead (s : State) (pos : Nat) : List Byte :=
  let c := s.chip pos
  let w := fun i => leBytes 8 (reqWord s pos i).toNat
  leBytes 4 0x4C4A5154 ++ leBytes 1 pos ++ leBytes 1 c.br.level ++ leBytes 2 0 ++ leBytes 8 c.ct ++ (w 1 ++ w 2 ++ w 3 ++ w 4)
    ++ fitBytes 32 c.boot.meas ++ leBytes 4 c.images.length ++ List.replicate 36 0

/-- The signature of a quote: the leaf index, and what follows it under the identity key (R46, R54; log entry 12). -/
def quoteSig (i : Nat) (q : List Byte) : List Byte := beBytes 4 i ++ fitBytes 2816 (Config.sign i q 2816)

/-- QUOTE (R54). A result address that takes no write is not in the manual: its status is free. -/
def execQuote (s : State) : Out := command s 3 fun pos =>
  let b := (s.chip pos).boot
  if 2 ^ 20 ≤ b.sigNext then answer s pos 10
  else
    let q := quoteHead s pos
    let a := (reqWord s pos 5).toNat
    let s1 := modBoot s pos fun b => { b with sigNext := b.sigNext + 1 }
    let pl := placeOf s1 pos a
    let (s2, ok) := memStore s1 pos pl (pl.addr a) (q ++ quoteSig b.sigNext q) false
    if ok then answer s2 pos 0 else answerFree s2 pos

/-- JOIN (Table 3-5): the host is a member from now on, and sees a proposal that is pending (R50). W1, the key index, has no effect (log
entry 105). -/
def execJoin (s : State) : Out := command s 4 fun pos =>
  let q := s.quorum
  let s1 := (List.range 4).foldl (fun s q => s.modChip q fun c => let b := c.boot; { c with boot := { b with joined := true } })
    { s with quorum := { q with host := true } }
  answer (if (hostProp s1).isSome then showProp s1 else s1) pos 0

/-- SVNRAISE (Table 3-5): where a sealed image of the kind that this chiplet has loaded carries the SVN (log entry 106), the fused minimum of every key slot rises to it. The status
of one that none carries is not in the manual. -/
def execSvnraise (s : State) : Out := command s 7 fun pos =>
  let k := (reqWord s pos 1).toNat
  let v := (reqWord s pos 2).toNat
  if (s.chip pos).images.any fun i => i.kind == k && i.svn == v then
    answer (modBoot s pos fun b =>
      { b with minSvn := (List.range 4).foldl (fun m slot => sput m (8 * slot + k) (Nat.max v (minSvn b slot k))) b.minSvn }) pos 0
  else answerFree s pos

/-- LEVELCAP (R52): the command waits for the decision that the coordinator is asked to propose. -/
def execLevelcap (s : State) : Out := command s 8 fun pos =>
  let v := (reqWord s pos 1).toNat
  if 4 < v then answer s pos 2
  else if !(s.quorum.host && (s.chip pos).boot.joined) then answer s pos 12
  else
    let q := s.quorum
    { s.modChip pos fun c => { c with mail := { c.mail with job := none, capWait := true } } with
      quorum := { q with cap := v, ask := true } }

/-! ## TTSET (R51) -/

/-- The sealed KIND 5 image that holds a range whole. -/
def confImage (s : State) (a n : Nat) : Option Image :=
  s.images.find? fun i => i.kind == 5 && decide (i.base ≤ a) && decide (a + n ≤ i.base + i.len)

/-- TTSET. -/
def execTtset (s : State) : Out := command s 5 fun pos =>
  let a := (reqWord s pos 1).toNat
  let first := (reqWord s pos 2).toNat
  let n := (reqWord s pos 3).toNat
  if n < 1 ∨ 256 < n ∨ 256 < first + n then answer s pos 2
  else match confImage s a (64 * n) with
    | none => answer s pos 8
    | some i =>
      let taken := (List.range n).any fun k => match sget? (s.eng pos).ttypes (first + k) with
        | some t => t.part != i.part
        | none => false
      if taken then answer s pos 13
      else
        let (bs, s1) := bridgeRead s a (64 * n)
        let s2 := modGe s1 pos fun e =>
          { e with ttypes := (List.range n).foldl (fun m k =>
              sput m (first + k) { w := (List.range 8).map fun j => BitVec.ofNat 64 (bytesWord bs (8 * k + j))
                                   part := i.part, seg := a + 64 * k }) e.ttypes }
        answer s2 pos 0

/-! ## The partition table (R65, R197, R374) -/

/-- Word j of entry p of a partition table, from the bytes of a body. -/
def ptWord (bs : List Byte) (p j : Nat) : Nat := bytesWord bs (8 + 8 * p + j)
def ptValid (bs : List Byte) (p : Nat) : Bool := bitOf (ptWord bs p 2) 24
/-- The logical cores of an entry, by bit. -/
def ptMask (bs : List Byte) (p : Nat) : Nat := ptWord bs p 0 + 2 ^ 64 * ptWord bs p 1
def ptRoot (bs : List Byte) (p : Nat) : Nat := bitsOf (ptWord bs p 3) 45 12 * 4096
/-- The regions of an entry, as bases and sizes. -/
def ptRegions (bs : List Byte) (p : Nat) : List (Nat × Nat) :=
  ((List.range 4).map fun r =>
    let w := ptWord bs p (4 + r)
    (bitsOf w 45 21 * 0x200000, bitsOf w 63 46 * 0x200000)).filter fun x => x.2 != 0

/-- Two different valid entries satisfy a relation. -/
def twoEntries (bs : List Byte) (r : Nat → Nat → Bool) : Bool :=
  (List.range 8).any fun p => (List.range 8).any fun q => decide (p < q) && ptValid bs p && ptValid bs q && r p q

/-- A share summed over the valid entries. -/
def ptSum (bs : List Byte) (hi lo : Nat) : Nat :=
  (List.range 8).foldl (fun z p => if ptValid bs p then z + bitsOf (ptWord bs p 2) hi lo else z) 0

/-- The table is refused (R65, R197): its first 576 bytes. -/
def tableBad (bs : List Byte) : Bool :=
  twoEntries bs (fun p q => ptMask bs p &&& ptMask bs q != 0)
    || twoEntries bs (fun p q => (ptRegions bs p).any fun a => (ptRegions bs q).any fun b => overlap a.1 a.2 b.1 b.2)
    || decide (60 < ptSum bs 5 0) || decide (60 < ptSum bs 11 6) || decide (64 < ptSum bs 23 18)
    || ((bs.drop 4).take 60).any (· != 0)
    || ((List.range 8).any fun p =>
        bitsOf (ptWord bs p 2) 63 25 != 0 || bitsOf (ptWord bs p 2) 17 12 != 0 || bitsOf (ptWord bs p 3) 63 46 != 0
          || bitsOf (ptWord bs p 3) 11 0 != 0 || ((List.range 4).any fun r => bitsOf (ptWord bs p (4 + r)) 20 0 != 0)
          || (ptValid bs p && (ptRoot bs p % 0x2000 != 0
            || !(ptRegions bs p).any fun a => decide (a.1 ≤ ptRoot bs p) && decide (ptRoot bs p + 0x2000 ≤ a.1 + a.2))))

/-- THCTL as a configuration gives it: no threshold higher than at reset (Table 20-4). -/
def capThctl (w : W32) : W32 :=
  let f := fun lo m => Nat.min m (bitsOf w.toNat (lo + 7) lo)
  BitVec.ofNat 32 (f 24 135 * 2 ^ 24 + f 16 125 * 2 ^ 16 + f 8 115 * 2 ^ 8 + bitsOf w.toNat 7 0)

/-- The fields of SAVEPOOL and MIRROR: SIZE in [63:46], BASE in [45:21] (Table 15-5, R343). -/
def poolFields : W64 := 0xFFFFFFFFFFE00000

/-- What the most recently sealed KIND 5 image that begins with a partition table says; none where it is refused (R65, R374). -/
def readConf (s : State) : Option Conf :=
  match newestImage (s.images.filter fun i => i.kind == 5 && s.readNat i.base 4 == 0x4C4A5054) with
  | none => none
  | some i =>
    let body := s.mem.readBytes i.base i.len
    let amps := (Config.budget body).toNat
    if s.readBad i.base 576 ∨ tableBad body ∨ amps < 300 ∨ 680 < amps then none
    else some
      { parts := (List.range 8).map fun p =>
          ({ valid := ptValid body p, ptroot := ptRoot body p, regions := ptRegions body p
             ishare := bitsOf (ptWord body p 2) 23 18 }, ptMask body p)
        pools := (List.range 4).map fun x => Config.savepool x body &&& poolFields
        mirrors := (List.range 4).map fun x => Config.mirror x body &&& poolFields
        thctls := (List.range 4).map fun x => capThctl (Config.thctl x body)
        quota := (amps - 120) / 2 }

/-! ## TSSTART (R32 to R34, R42, R344) -/

/-- The placements of a level of a task set: the list, or the status of a failure. -/
def levelPlaces (s : State) (w : List W64) (l : Nat) : Except Nat (List TsPlace) :=
  let v := wAt w (1 + l)
  let n := bitsOf v 57 46
  let a := bitsOf v 45 0
  let defined := bitOf (bitsOf (wAt w 0) 20 16) l
  if bitsOf v 63 58 ≠ 0 ∨ (!defined ∧ n ≠ 0) ∨ (defined ∧ (n < 1 ∨ 256 < n)) then .error 9
  else if !defined then .ok []
  else if (confImage s a (16 * n)).isNone then .error 8
  else
    let es := (List.range n).map fun i => (s.readNat (a + 16 * i) 8, s.readNat (a + 16 * i + 8) 8)
    let ps := es.map fun (e, _) =>
      ({ level := l, func := bitsOf e 63 56, carrier := bitsOf e 55 54, gid := bitsOf e 53 46, hdr := bitsOf e 45 0 } : TsPlace)
    if es.any (fun e => e.2 != 0) ∨ ps.any (fun p => decide (carriersAt l ≤ p.carrier))
        ∨ (ps.map (·.gid)).eraseDups.length ≠ n then .error 9
    else .ok ps

/-- The placements of every level, or the first failure. -/
def allPlaces (s : State) (w : List W64) : List Nat → Except Nat (List TsPlace)
  | [] => .ok []
  | l :: r => match levelPlaces s w l, allPlaces s w r with
    | .error c, _ => .error c
    | .ok _, .error c => .error c
    | .ok a, .ok b => .ok (a ++ b)

/-- The host token ports that a graph's source words name: chiplet and port (R18, R42). -/
def portsOf (s : State) (hdr : Nat) : List (Nat × Nat) :=
  let h := readWords s hdr 8
  let toks := bitsOf (wAt h 2) 45 0
  ((List.range (bitsOf (wAt h 0) 19 8)).flatMap fun i => (List.range 16).filterMap fun k =>
    let w := srcWord s toks i k
    if bitsOf w 31 30 = 3 then some (bitsOf w 21 20, bitsOf w 7 0) else none).eraseDups

/-- Bytes of a graph's checkpoint regions, and of its two mirror slots. -/
def ckptBytes (s : State) (hdr : Nat) : Nat := ((livePlaces s hdr).drop 3).foldl (fun z x => z + x.2) 0
def mirrorNeed (s : State) (hdr : Nat) : Nat :=
  2 * (((livePlaces s hdr).foldl (fun z x => z + x.2) 64 + 4095) / 4096 * 4096)

/-- The bounds of R344: checkpoint regions of a carrier at a level, and mirrors of a level at a buddy with a mirror area. -/
def mirrorsBad (s : State) (ps : List TsPlace) : Bool :=
  let sizes := ((List.range 4).map fun q => (mirrorArea s q).2).filter (· != 0)
  let room := sizes.foldl Nat.min (sizes.headD 0)
  (List.range 5).any fun l => (List.range 4).any fun k =>
    let at_ := ps.filter fun p => p.level == l
    let mine := at_.filter fun p => p.carrier == k
    let sent := if l = 4 then mine else at_
    decide (96 * 2 ^ 20 < mine.foldl (fun z p => z + ckptBytes s p.hdr) 0)
      || (l != 0 && room != 0 && decide (room < sent.foldl (fun z p => z + mirrorNeed s p.hdr) 0))

/-- Enable the ports that a task set names, for its partition (R42). -/
def enablePorts (s : State) (part : Nat) (ps : List (Nat × Nat)) : State :=
  ps.foldl (fun s (q, n) => modGe s q fun e => { e with portOwn := sput e.portOwn n part }) s

/-- Start the graphs of a task set at a level on their carriers (R34). -/
def startPlaces (s : State) (pos : Nat) (ps : List TsPlace) : State :=
  ps.foldl (fun s p => startGraph s (carrierPos s pos p.carrier) p.hdr 0) s

/-- The first level, or a level that a further task set changes, is selected (R34), recorded as a decision. -/
def setLevel (s : State) (pos level : Nat) : State :=
  let b := (s.chip pos).br
  let (carr, spare) := bindCarriers b.spare b.dec level
  let s1 := (List.range 4).foldl (fun s q => modBr s q fun r =>
    if r.halted then r else { r with level := level, carr := carr, spare := spare, decCt := BitVec.ofNat 32 (s.ctOf pos) }) s
  let s2 := logRec s1 pos (decisionRec s1 pos level)
  (List.range 4).foldl (fun s q => if (s.chip q).br.held then s else raiseQevt s q 2) s2

/-- A task set is accepted: the level is selected and graphs start. -/
def beginTaskSet (s : State) (pos : Nat) (t : TaskSet) : State :=
  let first := s.tsets = []
  let b := (s.chip pos).br
  let s1 := { s with tsets := s.tsets ++ [t] }
  let sel := selectLevel b.dec (lvlMask s1) s1.quorum.cap
  let level := if first then sel else Nat.min sel b.level
  if !first ∧ level = b.level then startPlaces s1 pos (t.places.filter fun p => p.level == level)
  else
    let s2 := setLevel s1 pos level
    let c := (s2.chip pos).br
    if first then
      let q := s2.quorum
      let s3 := remap { s2 with quorum := { q with rotCt := s.ctOf pos / 15000000000 } } c.carr c.spare
      startPlaces s3 pos (t.places.filter fun p => p.level == level)
    else switchLevel s2 b.dec b.dec b.level level c.carr c.spare

/-- The table and the configuration in force: read at the first TSSTART after reset (R65). -/
def confAt (s : State) (pos : Nat) : Option Conf :=
  match s.conf with
  | some f => if (s.chip pos).parts = [] then readConf s else some f
  | none => readConf s

/-- The Bridges take up a table that is read now. -/
def installConf (s : State) (pos : Nat) (f : Conf) : State :=
  if s.conf = some f ∧ (s.chip pos).parts ≠ [] then s
  else (List.range 4).foldl (fun s q => if (s.chip q).br.held then s else useConf s q f) { s with conf := some f }

/-- TSSTART. -/
def execTsstart (s : State) : Out := command s 6 fun pos =>
  let a := (reqWord s pos 1).toNat
  let w := readWords s a 8
  let w0 := wAt w 0
  let part := bitsOf w0 23 21
  if (s.chip pos).br.held then answer s pos 12
  else if (confImage s a 64).isNone then answer s pos 8
  else match confAt s pos with
    | none => answer s pos 9
    | some f =>
      let s1 := installConf s pos f
      if !bitOf w0 16 ∨ bitsOf w0 63 24 ≠ 0 ∨ bitsOf w0 15 8 ≠ 0 ∨ wAt w 6 ≠ 0 ∨ wAt w 7 ≠ 0
          ∨ !(sget Part.reset (s1.chip pos).parts part).valid then answer s1 pos 9
      else match allPlaces s1 w [0, 1, 2, 3, 4] with
        | .error c => answer s1 pos c
        | .ok ps =>
          let ports := (ps.flatMap fun p => portsOf s1 p.hdr).eraseDups
          let clash := ports.any fun (q, n) => match sget? (s1.eng q).portOwn n with
            | some o => o != part
            | none => false
          if clash ∨ mirrorsBad s1 ps ∨ (s1.chip pos).br.dec = 0 then answer s1 pos 9
          else
            let t : TaskSet := { addr := a, tsid := bitsOf w0 7 0, part := part, lvls := bitsOf w0 20 16, places := ps }
            answer (beginTaskSet (enablePorts s1 part ports) pos t) pos 0

end Sys2Proof.Machine
end

