-- ==== Sys2Proof/Machine/Dispatch.lean ====
section
/-!
DEFINITION. The dispatch of R89 to R95 and of the steps of the operation table: one arm per instruction.
-/
namespace Sys2Proof.Machine
open Sys2Proof

def exec (i : Instr) (s : State) : Host.Outcome State Fault Refusal :=
  match i with
  | .tokenArrival => Sys2Proof.Machine.execTokenArrival s
  | .releaseTick => Sys2Proof.Machine.execReleaseTick s
  | .frameStart => Sys2Proof.Machine.execFrameStart s
  | .mirrorComplete => Sys2Proof.Machine.execMirrorComplete s
  | .deadlineMiss => Sys2Proof.Machine.execDeadlineMiss s
  | .stretchFault => Sys2Proof.Machine.execStretchFault s
  | .nodeCompletion => Sys2Proof.Machine.execNodeCompletion s
  | .nodeFaultReport => Sys2Proof.Machine.execNodeFaultReport s
  | .coneWalkComplete => Sys2Proof.Machine.execConeWalkComplete s
  | .cancelMessage => Sys2Proof.Machine.execCancelMessage s
  | .nodePlacement => Sys2Proof.Machine.execNodePlacement s
  | .currentGrant => Sys2Proof.Machine.execCurrentGrant s
  | .currentShortfall => Sys2Proof.Machine.execCurrentShortfall s
  | .quotaChange => Sys2Proof.Machine.execQuotaChange s
  | .instructionBlockFill => Sys2Proof.Machine.execInstructionBlockFill s
  | .nodeStart => Sys2Proof.Machine.execNodeStart s
  | .contextSave => Sys2Proof.Machine.execContextSave s
  | .contextRestore => Sys2Proof.Machine.execContextRestore s
  | .spareSubstitution => Sys2Proof.Machine.execSpareSubstitution s
  | .quarantine => Sys2Proof.Machine.execQuarantine s
  | .partitionReset => Sys2Proof.Machine.execPartitionReset s
  | .resultLanding => Sys2Proof.Machine.execResultLanding s
  | .slotQueueAccept => Sys2Proof.Machine.execSlotQueueAccept s
  | .translationWalk => Sys2Proof.Machine.execTranslationWalk s
  | .migrationRewalk => Sys2Proof.Machine.execMigrationRewalk s
  | .migrationTimeout => Sys2Proof.Machine.execMigrationTimeout s
  | .tlbinvComplete => Sys2Proof.Machine.execTlbinvComplete s
  | .accessAbort => Sys2Proof.Machine.execAccessAbort s
  | .copyStart => Sys2Proof.Machine.execCopyStart s
  | .copyChunk => Sys2Proof.Machine.execCopyChunk s
  | .chainRecord => Sys2Proof.Machine.execChainRecord s
  | .copyComplete => Sys2Proof.Machine.execCopyComplete s
  | .multicastCredit => Sys2Proof.Machine.execMulticastCredit s
  | .engineOpStart => Sys2Proof.Machine.execEngineOpStart s
  | .fretAutoDrain => Sys2Proof.Machine.execFretAutoDrain s
  | .engineOpComplete => Sys2Proof.Machine.execEngineOpComplete s
  | .engineOpStop => Sys2Proof.Machine.execEngineOpStop s
  | .peerContribution => Sys2Proof.Machine.execPeerContribution s
  | .tokenPostArrival => Sys2Proof.Machine.execTokenPostArrival s
  | .remoteObjectOperation => Sys2Proof.Machine.execRemoteObjectOperation s
  | .objectRegistration => Sys2Proof.Machine.execObjectRegistration s
  | .zmlReceive => Sys2Proof.Machine.execZmlReceive s
  | .zmlAckReceive => Sys2Proof.Machine.execZmlAckReceive s
  | .zmlNakReceive => Sys2Proof.Machine.execZmlNakReceive s
  | .zmlResendTimeout => Sys2Proof.Machine.execZmlResendTimeout s
  | .readResponseTimeout => Sys2Proof.Machine.execReadResponseTimeout s
  | .flitReplay => Sys2Proof.Machine.execFlitReplay s
  | .linkRetrain => Sys2Proof.Machine.execLinkRetrain s
  | .retrainComplete => Sys2Proof.Machine.execRetrainComplete s
  | .linkDown => Sys2Proof.Machine.execLinkDown s
  | .trapAsync => Sys2Proof.Machine.execTrapAsync s
  | .lateWriteReplay => Sys2Proof.Machine.execLateWriteReplay s
  | .userInterrupt => Sys2Proof.Machine.execUserInterrupt s
  | .stepTrap => Sys2Proof.Machine.execStepTrap s
  | .scrubRead => Sys2Proof.Machine.execScrubRead s
  | .scrubWriteback => Sys2Proof.Machine.execScrubWriteback s
  | .suspectDecay => Sys2Proof.Machine.execSuspectDecay s
  | .scanStart => Sys2Proof.Machine.execScanStart s
  | .scanComplete => Sys2Proof.Machine.execScanComplete s
  | .scanOverdue => Sys2Proof.Machine.execScanOverdue s
  | .heartbeatSend => Sys2Proof.Machine.execHeartbeatSend s
  | .heartbeatMissed => Sys2Proof.Machine.execHeartbeatMissed s
  | .railFault => Sys2Proof.Machine.execRailFault s
  | .lockstepMismatch => Sys2Proof.Machine.execLockstepMismatch s
  | .evidenceReceive => Sys2Proof.Machine.execEvidenceReceive s
  | .proposal => Sys2Proof.Machine.execProposal s
  | .coordinatorTimeout => Sys2Proof.Machine.execCoordinatorTimeout s
  | .bridgeVote => Sys2Proof.Machine.execBridgeVote s
  | .voteTimeout => Sys2Proof.Machine.execVoteTimeout s
  | .mirrorRestore => Sys2Proof.Machine.execMirrorRestore s
  | .spareRotation => Sys2Proof.Machine.execSpareRotation s
  | .ctSampleSend => Sys2Proof.Machine.execCtSampleSend s
  | .ctDiscipline => Sys2Proof.Machine.execCtDiscipline s
  | .droopThrottle => Sys2Proof.Machine.execDroopThrottle s
  | .droopRelease => Sys2Proof.Machine.execDroopRelease s
  | .temperatureSample => Sys2Proof.Machine.execTemperatureSample s
  | .logHoldRelease => Sys2Proof.Machine.execLogHoldRelease s
  | .replayHostPost => Sys2Proof.Machine.execReplayHostPost s
  | .hostTokenPost => Sys2Proof.Machine.execHostTokenPost s
  | .dataWindowWrite => Sys2Proof.Machine.execDataWindowWrite s
  | .dataWindowRead => Sys2Proof.Machine.execDataWindowRead s
  | .endpointReset => Sys2Proof.Machine.execEndpointReset s
  | .msixUnmask => Sys2Proof.Machine.execMsixUnmask s
  | .hvoteWrite => Sys2Proof.Machine.execHvoteWrite s
  | .qevtWrite => Sys2Proof.Machine.execQevtWrite s
  | .load => Sys2Proof.Machine.execLoad s
  | .unseal => Sys2Proof.Machine.execUnseal s
  | .quote => Sys2Proof.Machine.execQuote s
  | .join => Sys2Proof.Machine.execJoin s
  | .ttset => Sys2Proof.Machine.execTtset s
  | .tsstart => Sys2Proof.Machine.execTsstart s
  | .svnraise => Sys2Proof.Machine.execSvnraise s
  | .levelcap => Sys2Proof.Machine.execLevelcap s
  | .mailboxCompletion => Sys2Proof.Machine.execMailboxCompletion s
  | .chipletReset => Sys2Proof.Machine.execChipletReset s
  | .bridgeRomCheck => Sys2Proof.Machine.execBridgeRomCheck s
  | .pcieLinkTrained => Sys2Proof.Machine.execPcieLinkTrained s
  | .dramTrained => Sys2Proof.Machine.execDramTrained s
  | .ucieLinksTrained => Sys2Proof.Machine.execUcieLinksTrained s
  | .watermarkArm => Sys2Proof.Machine.execWatermarkArm s
  | .tablatureOff => Sys2Proof.Machine.execTablatureOff s
  | .tablatureRecord => Sys2Proof.Machine.execTablatureRecord s
  | .tablatureReplay => Sys2Proof.Machine.execTablatureReplay s
  | .tbrdWrite => Sys2Proof.Machine.execTbrdWrite s
  | .tbstatWrite => Sys2Proof.Machine.execTbstatWrite s
  | .wdiscRead => Sys2Proof.Machine.execWdiscRead s
  | .errstatRead => Sys2Proof.Machine.execErrstatRead s
  | .lkcntRead => Sys2Proof.Machine.execLkcntRead s
  | .tbwrRead => Sys2Proof.Machine.execTbwrRead s
  | .tempRead => Sys2Proof.Machine.execTempRead s
  | .vmonRead => Sys2Proof.Machine.execVmonRead s
  | .pwrstatRead => Sys2Proof.Machine.execPwrstatRead s
  | .dbgctlRead => Sys2Proof.Machine.execDbgctlRead s
  | .registerWrite => Sys2Proof.Machine.execRegisterWrite s
  | .hartEcall => Sys2Proof.Machine.execHartEcall s
  | .hartException cause => Sys2Proof.Machine.execHartException cause s
  | .jqPush n b a => Sys2Proof.Machine.execJqPush n b a s
  | .jqPop n a d => Sys2Proof.Machine.execJqPop n a d s
  | .jcSub n a d => Sys2Proof.Machine.execJcSub n a d s
  | .jcWm n d => Sys2Proof.Machine.execJcWm n d s
  | .jtPost n a => Sys2Proof.Machine.execJtPost n a s
  | .jrWait b a d => Sys2Proof.Machine.execJrWait b a d s
  | .add p f => Sys2Proof.Machine.execAdd p f s
  | .sub p f => Sys2Proof.Machine.execSub p f s
  | .mul p f => Sys2Proof.Machine.execMul p f s
  | .mulh p f => Sys2Proof.Machine.execMulh p f s
  | .mulhu p f => Sys2Proof.Machine.execMulhu p f s
  | .div p f => Sys2Proof.Machine.execDiv p f s
  | .divu p f => Sys2Proof.Machine.execDivu p f s
  | .rem p f => Sys2Proof.Machine.execRem p f s
  | .remu p f => Sys2Proof.Machine.execRemu p f s
  | .and p f => Sys2Proof.Machine.execAnd p f s
  | .or p f => Sys2Proof.Machine.execOr p f s
  | .xor p f => Sys2Proof.Machine.execXor p f s
  | .andn p f => Sys2Proof.Machine.execAndn p f s
  | .shl p f => Sys2Proof.Machine.execShl p f s
  | .shr p f => Sys2Proof.Machine.execShr p f s
  | .sra p f => Sys2Proof.Machine.execSra p f s
  | .rotl p f => Sys2Proof.Machine.execRotl p f s
  | .min p f => Sys2Proof.Machine.execMin p f s
  | .max p f => Sys2Proof.Machine.execMax p f s
  | .minu p f => Sys2Proof.Machine.execMinu p f s
  | .maxu p f => Sys2Proof.Machine.execMaxu p f s
  | .seq p f => Sys2Proof.Machine.execSeq p f s
  | .sne p f => Sys2Proof.Machine.execSne p f s
  | .slt p f => Sys2Proof.Machine.execSlt p f s
  | .sltu p f => Sys2Proof.Machine.execSltu p f s
  | .sle p f => Sys2Proof.Machine.execSle p f s
  | .sleu p f => Sys2Proof.Machine.execSleu p f s
  | .sel p f => Sys2Proof.Machine.execSel p f s
  | .clz p f => Sys2Proof.Machine.execClz p f s
  | .ctz p f => Sys2Proof.Machine.execCtz p f s
  | .popc p f => Sys2Proof.Machine.execPopc p f s
  | .addi p f => Sys2Proof.Machine.execAddi p f s
  | .andi p f => Sys2Proof.Machine.execAndi p f s
  | .ori p f => Sys2Proof.Machine.execOri p f s
  | .xori p f => Sys2Proof.Machine.execXori p f s
  | .shli p f => Sys2Proof.Machine.execShli p f s
  | .shri p f => Sys2Proof.Machine.execShri p f s
  | .srai p f => Sys2Proof.Machine.execSrai p f s
  | .slti p f => Sys2Proof.Machine.execSlti p f s
  | .sltui p f => Sys2Proof.Machine.execSltui p f s
  | .li p f => Sys2Proof.Machine.execLi p f s
  | .lix p f => Sys2Proof.Machine.execLix p f s
  | .ext p f => Sys2Proof.Machine.execExt p f s
  | .ins p f => Sys2Proof.Machine.execIns p f s
  | .muli p f => Sys2Proof.Machine.execMuli p f s
  | .br p f => Sys2Proof.Machine.execBr p f s
  | .bri p f => Sys2Proof.Machine.execBri p f s
  | .call p f => Sys2Proof.Machine.execCall p f s
  | .calli p f => Sys2Proof.Machine.execCalli p f s
  | .ret p f => Sys2Proof.Machine.execRet p f s
  | .loop p f => Sys2Proof.Machine.execLoop p f s
  | .lstr p f => Sys2Proof.Machine.execLstr p f s
  | .lbrk p f => Sys2Proof.Machine.execLbrk p f s
  | .mfsr p f => Sys2Proof.Machine.execMfsr p f s
  | .mtsr p f => Sys2Proof.Machine.execMtsr p f s
  | .ecall p f => Sys2Proof.Machine.execEcall p f s
  | .tret p f => Sys2Proof.Machine.execTret p f s
  | .uiret p f => Sys2Proof.Machine.execUiret p f s
  | .bkpt p f => Sys2Proof.Machine.execBkpt p f s
  | .halt p f => Sys2Proof.Machine.execHalt p f s
  | .yield p f => Sys2Proof.Machine.execYield p f s
  | .tlbinv p f => Sys2Proof.Machine.execTlbinv p f s
  | .icinv p f => Sys2Proof.Machine.execIcinv p f s
  | .kill p f => Sys2Proof.Machine.execKill p f s
  | .trap p f => Sys2Proof.Machine.execTrap p f s
  | .vshrink p f => Sys2Proof.Machine.execVshrink p f s
  | .vgrow p f => Sys2Proof.Machine.execVgrow p f s
  | .smir p f => Sys2Proof.Machine.execSmir p f s
  | .vadd p u f => Sys2Proof.Machine.execVadd p u f s
  | .vsub p u f => Sys2Proof.Machine.execVsub p u f s
  | .vmul p u f => Sys2Proof.Machine.execVmul p u f s
  | .vmulh p u f => Sys2Proof.Machine.execVmulh p u f s
  | .vmad p u f => Sys2Proof.Machine.execVmad p u f s
  | .vmsb p u f => Sys2Proof.Machine.execVmsb p u f s
  | .vdiv p f => Sys2Proof.Machine.execVdiv p f s
  | .vrcp p u f => Sys2Proof.Machine.execVrcp p u f s
  | .vrsq p u f => Sys2Proof.Machine.execVrsq p u f s
  | .vsqrt p u f => Sys2Proof.Machine.execVsqrt p u f s
  | .vmin p u f => Sys2Proof.Machine.execVmin p u f s
  | .vmax p u f => Sys2Proof.Machine.execVmax p u f s
  | .vabs p u f => Sys2Proof.Machine.execVabs p u f s
  | .vneg p u f => Sys2Proof.Machine.execVneg p u f s
  | .vavg p u f => Sys2Proof.Machine.execVavg p u f s
  | .vand p u f => Sys2Proof.Machine.execVand p u f s
  | .vor p u f => Sys2Proof.Machine.execVor p u f s
  | .vxor p u f => Sys2Proof.Machine.execVxor p u f s
  | .vandn p u f => Sys2Proof.Machine.execVandn p u f s
  | .vshl p u f => Sys2Proof.Machine.execVshl p u f s
  | .vshr p u f => Sys2Proof.Machine.execVshr p u f s
  | .vsra p u f => Sys2Proof.Machine.execVsra p u f s
  | .vpopc p u f => Sys2Proof.Machine.execVpopc p u f s
  | .vclz p u f => Sys2Proof.Machine.execVclz p u f s
  | .vceq p u f => Sys2Proof.Machine.execVceq p u f s
  | .vcne p u f => Sys2Proof.Machine.execVcne p u f s
  | .vclt p u f => Sys2Proof.Machine.execVclt p u f s
  | .vcle p u f => Sys2Proof.Machine.execVcle p u f s
  | .vcun p u f => Sys2Proof.Machine.execVcun p u f s
  | .vsel p u f => Sys2Proof.Machine.execVsel p u f s
  | .vmov p u f => Sys2Proof.Machine.execVmov p u f s
  | .vaddi p u f => Sys2Proof.Machine.execVaddi p u f s
  | .vshli p u f => Sys2Proof.Machine.execVshli p u f s
  | .vshri p u f => Sys2Proof.Machine.execVshri p u f s
  | .vsrai p u f => Sys2Proof.Machine.execVsrai p u f s
  | .vandi p u f => Sys2Proof.Machine.execVandi p u f s
  | .vsplat p u f => Sys2Proof.Machine.execVsplat p u f s
  | .vsplati p u f => Sys2Proof.Machine.execVsplati p u f s
  | .vext p u f => Sys2Proof.Machine.execVext p u f s
  | .vins p u f => Sys2Proof.Machine.execVins p u f s
  | .vredadd p u f => Sys2Proof.Machine.execVredadd p u f s
  | .vredmax p u f => Sys2Proof.Machine.execVredmax p u f s
  | .vredmin p u f => Sys2Proof.Machine.execVredmin p u f s
  | .vredand p u f => Sys2Proof.Machine.execVredand p u f s
  | .vredor p u f => Sys2Proof.Machine.execVredor p u f s
  | .vdot4 p u f => Sys2Proof.Machine.execVdot4 p u f s
  | .vshuf p u f => Sys2Proof.Machine.execVshuf p u f s
  | .vslide p u f => Sys2Proof.Machine.execVslide p u f s
  | .vrotl p u f => Sys2Proof.Machine.execVrotl p u f s
  | .vzip p u f => Sys2Proof.Machine.execVzip p u f s
  | .vunzip p u f => Sys2Proof.Machine.execVunzip p u f s
  | .mpush p f => Sys2Proof.Machine.execMpush p f s
  | .minv p f => Sys2Proof.Machine.execMinv p f s
  | .mpop p f => Sys2Proof.Machine.execMpop p f s
  | .mand p f => Sys2Proof.Machine.execMand p f s
  | .mor p f => Sys2Proof.Machine.execMor p f s
  | .mnot p f => Sys2Proof.Machine.execMnot p f s
  | .mcpy p f => Sys2Proof.Machine.execMcpy p f s
  | .mcnt p f => Sys2Proof.Machine.execMcnt p f s
  | .vcvt p f => Sys2Proof.Machine.execVcvt p f s
  | .vnarrow p f => Sys2Proof.Machine.execVnarrow p f s
  | .vwiden p f => Sys2Proof.Machine.execVwiden p f s
  | .vqntScale p f => Sys2Proof.Machine.execVqntScale p f s
  | .vqnt p f => Sys2Proof.Machine.execVqnt p f s
  | .vdqnt p f => Sys2Proof.Machine.execVdqnt p f s
  | .vdsenc p f => Sys2Proof.Machine.execVdsenc p f s
  | .vdsmul p f => Sys2Proof.Machine.execVdsmul p f s
  | .mdsa p f => Sys2Proof.Machine.execMdsa p f s
  | .mdsb p f => Sys2Proof.Machine.execMdsb p f s
  | .mdsk p f => Sys2Proof.Machine.execMdsk p f s
  | .mdss p f => Sys2Proof.Machine.execMdss p f s
  | .mma p f => Sys2Proof.Machine.execMma p f s
  | .mmaz p f => Sys2Proof.Machine.execMmaz p f s
  | .mmac p f => Sys2Proof.Machine.execMmac p f s
  | .mmar p f => Sys2Proof.Machine.execMmar p f s
  | .mfret p f => Sys2Proof.Machine.execMfret p f s
  | .mfretr p f => Sys2Proof.Machine.execMfretr p f s
  | .mpark p f => Sys2Proof.Machine.execMpark p f s
  | .munpark p f => Sys2Proof.Machine.execMunpark p f s
  | .mmerge p f => Sys2Proof.Machine.execMmerge p f s
  | .mdrain p f => Sys2Proof.Machine.execMdrain p f s
  | .mfclr p f => Sys2Proof.Machine.execMfclr p f s
  | .mzero p f => Sys2Proof.Machine.execMzero p f s
  | .mrdv p f => Sys2Proof.Machine.execMrdv p f s
  | .mwrv p f => Sys2Proof.Machine.execMwrv p f s
  | .mdrainp p f => Sys2Proof.Machine.execMdrainp p f s
  | .msts p f => Sys2Proof.Machine.execMsts p f s
  | .mstat p f => Sys2Proof.Machine.execMstat p f s
  | .ld p f => Sys2Proof.Machine.execLd p f s
  | .ldaq p f => Sys2Proof.Machine.execLdaq p f s
  | .ldf p f => Sys2Proof.Machine.execLdf p f s
  | .ldv p f => Sys2Proof.Machine.execLdv p f s
  | .ldvs p f => Sys2Proof.Machine.execLdvs p f s
  | .ldvx p f => Sys2Proof.Machine.execLdvx p f s
  | .ldvb p f => Sys2Proof.Machine.execLdvb p f s
  | .qpop p f => Sys2Proof.Machine.execQpop p f s
  | .ldt p f => Sys2Proof.Machine.execLdt p f s
  | .ldvt p f => Sys2Proof.Machine.execLdvt p f s
  | .st p f => Sys2Proof.Machine.execSt p f s
  | .strl p f => Sys2Proof.Machine.execStrl p f s
  | .stf p f => Sys2Proof.Machine.execStf p f s
  | .stv p f => Sys2Proof.Machine.execStv p f s
  | .stvs p f => Sys2Proof.Machine.execStvs p f s
  | .stvx p f => Sys2Proof.Machine.execStvx p f s
  | .qpush p f => Sys2Proof.Machine.execQpush p f s
  | .amoadd p f => Sys2Proof.Machine.execAmoadd p f s
  | .amomin p f => Sys2Proof.Machine.execAmomin p f s
  | .amomax p f => Sys2Proof.Machine.execAmomax p f s
  | .amominu p f => Sys2Proof.Machine.execAmominu p f s
  | .amomaxu p f => Sys2Proof.Machine.execAmomaxu p f s
  | .amoand p f => Sys2Proof.Machine.execAmoand p f s
  | .amoor p f => Sys2Proof.Machine.execAmoor p f s
  | .amoxor p f => Sys2Proof.Machine.execAmoxor p f s
  | .amoswap p f => Sys2Proof.Machine.execAmoswap p f s
  | .amocas p f => Sys2Proof.Machine.execAmocas p f s
  | .amofadd p f => Sys2Proof.Machine.execAmofadd p f s
  | .cdset p f => Sys2Proof.Machine.execCdset p f s
  | .cdfmt p f => Sys2Proof.Machine.execCdfmt p f s
  | .cpy p f => Sys2Proof.Machine.execCpy p f s
  | .cpym p f => Sys2Proof.Machine.execCpym p f s
  | .cpyr p f => Sys2Proof.Machine.execCpyr p f s
  | .chain p f => Sys2Proof.Machine.execChain p f s
  | .cpyw p f => Sys2Proof.Machine.execCpyw p f s
  | .lxfer p f => Sys2Proof.Machine.execLxfer p f s
  | .lxred p f => Sys2Proof.Machine.execLxred p f s
  | .xamo p f => Sys2Proof.Machine.execXamo p f s
  | .cabort p f => Sys2Proof.Machine.execCabort p f s
  | .tkwait p f => Sys2Proof.Machine.execTkwait p f s
  | .tkpost p f => Sys2Proof.Machine.execTkpost p f s
  | .tkclr p f => Sys2Proof.Machine.execTkclr p f s
  | .bara p f => Sys2Proof.Machine.execBara p f s
  | .barw p f => Sys2Proof.Machine.execBarw p f s
  | .barx p f => Sys2Proof.Machine.execBarx p f s
  | .drain p f => Sys2Proof.Machine.execDrain p f s
  | .fence p f => Sys2Proof.Machine.execFence p f s
  | .brel p f => Sys2Proof.Machine.execBrel p f s
  | .bacq p f => Sys2Proof.Machine.execBacq p f s
  | .chkeq p f => Sys2Proof.Machine.execChkeq p f s
  | .chkv p f => Sys2Proof.Machine.execChkv p f s
  | .chka p f => Sys2Proof.Machine.execChka p f s
  | .vote p f => Sys2Proof.Machine.execVote p f s
  | .racq p f => Sys2Proof.Machine.execRacq p f s
  | .rrel p f => Sys2Proof.Machine.execRrel p f s
  | .reos p f => Sys2Proof.Machine.execReos p f s
  | .slack p f => Sys2Proof.Machine.execSlack p f s
  | .twait p f => Sys2Proof.Machine.execTwait p f s
  | .phase p f => Sys2Proof.Machine.execPhase p f s
  | .tevt p f => Sys2Proof.Machine.execTevt p f s
  | .uien p f => Sys2Proof.Machine.execUien p f s
  | .nominalFrameEnd => Sys2Proof.Machine.execNominalFrameEnd s
  | .hartInstruction h => Sys2Proof.Machine.execHartInstruction h s
  | .emptyBundle p => Sys2Proof.Machine.execEmptyBundle p s
  | .spareSelfTest => Sys2Proof.Machine.execSpareSelfTest s
  | .readmission => Sys2Proof.Machine.execReadmission s
  | .unknownCommand => Sys2Proof.Machine.execUnknownCommand s
  | .doorbellOverrun => Sys2Proof.Machine.execDoorbellOverrun s

end Sys2Proof.Machine
end

