-- ==== Sys2Proof/Machine/Run.lean ====
section
/-!
DEFINITION. What a turn does: a core issues, a consort steps (R126, R127), a hart executes, a piece of an access performs, another
agent takes its step, a sector takes an error (R327).
-/
namespace Sys2Proof.Machine
open Sys2Proof

/-! ## A core -/

/-- The cores and harts of a chiplet do nothing while it is held (R335) or its core rail is removed (R378). -/
def asleep (s : State) (pos : Nat) : Bool := (s.chip pos).br.held || (s.chip pos).power.tstate == 3

/-- The cycle passes without an issue. -/
def idleCycle (s : State) (k : Nat) : State := s.modCore k fun c => { c with cycle := c.cycle + 1 }

/-- The context becomes the agent in focus. -/
def focusCtx (s : State) (ck : Nat) (busy : Busy) : State :=
  { s with focus := { pos := ckPos ck, core := corePhys (ckCore ck), ctx := ckCtx ck, storer := false, busy := busy
                      arg := EvArg.zero } }

/-- A bundle issues: the meaning of the one operation it holds, or all its operations together (R107). -/
def runBundle (ws : List W64) (s : State) : Out :=
  let b := bundleOf ws
  match b.single? with
  | some i => exec i s
  | none => .next (issueState b.pfx (partsIn b) none s)

/-- A trap before the next bundle, which an asynchronous fault that has arrived precedes (R308). -/
def trapBefore (s : State) (ck : Nat) (t : TrapInfo) : State :=
  if (s.ctx ck).async ≠ [] then takeAsync s ck else takeTrap s ck t (s.ctx ck).pc

/-- The context in focus has the core: a stall, a step trap, a fetch, and what the fetch finds (R70 to R72, R326). -/
def ctxTurn (s : State) : Out :=
  let ck := s.fck
  let c := s.ctx ck
  if c.live ∧ c.stalled then .next (stallStep (settle s ck) ck)
  else if c.live ∧ c.stepReady then .next (takeStep (settle s ck) ck)
  else match fetch s ck with
    | .words ws => runBundle ws (noteFetch s ck ws)
    | .unfilled b => .next (if c.live then trapBefore (settle s ck) ck (badTrap b) else s)
    | .missing => .next (if c.live then blockCtx (settle s ck) ck .cond else s)
    | .outside => .next (if c.live then trapBefore (settle s ck) ck (outsideTrap c) else s)
    | .bad a => .next (if c.live then trapBefore ((settle s ck).noteRead a 64) ck (badTrap a) else s)

/-! ## A consort -/

/-- A member's part in a step: its context, the prefix and operations of its bundle, what they see. -/
structure Part1 where
  ck  : Nat
  ops : List Parts
  env : Env

/-- What the lead issues next, where it can. -/
def leadFed (s : State) (ck : Nat) : Option Fed :=
  let c := s.ctx ck
  if !c.live then none
  else match fetch s ck with
    | .words ws =>
      let b := bundleOf ws
      let ops := partsIn b
      let e := envOf s ck b.pfx ops none
      some { pc := c.pc, ws := ws, pre := none
             ctl := (ops.findSome? fun o => o.ctlOf e).map fun x => (x.taken, x.target, x.value) }
    | .missing | .unfilled _ | .outside | .bad _ => none

/-- The bundle of member `i` (R126): the lead's new one, or the lead's 2i steps ago. None once its HALT has committed, and none for
a member that has drained. -/
def fedOf (s : State) (co : Consort) (new : Option Fed) (i ck : Nat) : Option Fed :=
  if !(s.ctx ck).live then none
  else match i with
    | 0 => new
    | i + 1 => (co.fed[2 * i + 1]?).getD none

/-- The member issues this bundle: its index is the lead's, its S-slot control has the lead's outcome. -/
def part1 (s : State) (ck : Nat) (f : Fed) : Part1 :=
  let b := bundleOf f.ws
  let ops := partsIn b
  { ck := ck, ops := ops
    env := envOf s ck b.pfx ops (f.ctl.map fun x => { taken := x.1, target := x.2.1, value := x.2.2 }) }

/-- The members that issue in this step, each at the index of its bundle. -/
def placePcs (s : State) (ms : List (Nat × Fed)) : State :=
  ms.foldl (fun s (ck, f) => s.modCtx ck fun c => { c with pc := f.pc }) s

/-- The cores of members that do not act in a cycle let it pass. -/
def idleOthers (s : State) (co : Consort) (acting : List Nat) : State :=
  (co.members.filter fun ck => !acting.contains ck).foldl (fun s ck => idleCycle s (ckCore ck)) s

/-- Each member of a list that still holds its node acts. -/
def eachLive (s : State) (cks : List Nat) (f : State → Nat → State) : State :=
  cks.foldl (fun s ck => if (s.ctx ck).st = .idle then s else f s ck) s

/-- The bundle's trap of a member, an arrived asynchronous fault first (R308). -/
def memberTraps (s : State) (p : Part1) : Bool :=
  (s.ctx p.ck).async != [] || (bundleTrap p.env p.ops).isSome
def memberTrap (s : State) (p : Part1) : State :=
  if (s.ctx p.ck).async ≠ [] then takeAsync s p.ck
  else match bundleTrap p.env p.ops with
    | some t => trapBundle s p.ck p.env p.ops t
    | none => s

/-- A member's bundle commits; one that follows has the pre-emption request that the lead served with it, if any (R127). -/
def memberCommit (s : State) (ck : Nat) (f : Fed) : State :=
  let s1 := if follows s ck then s.modCtx ck fun c => { c with preempt := f.pre } else s
  let p := part1 s1 ck f
  if gate p.env.c p.env.p = .skip then commitSkip s1 ck else commit p.env p.ops

/-- The last bundles of a consort that drains have issued: its members drain with the lead (R127). -/
def drainMembers (s : State) (co : Consort) : State :=
  if (s.ctx (co.members.headD 0)).st ≠ .draining then s
  else (co.members.zip (List.range co.members.length)).foldl (fun s (ck, i) =>
    if (s.ctx ck).live ∧ (co.fed.take (2 * i)).all (·.isNone) then startDrain s ck else s) s

/-- Stepping the lead steps the consort: every member that issued traps (R326). -/
def stepMembers (s : State) (lead : Nat) (ms : List (Nat × Fed)) : State :=
  if (s.ctx lead).stepDue.isNone then s
  else ms.foldl (fun s (ck, f) => s.modCtx ck fun c =>
    { c with stepDue := c.stepDue.or (some (f.pc, c.bundleNo - 1, s.now ck - 1)) }) s

/-- What the lead's bundle brings to the consort (R127, R168): the request that its boundary has served goes to the members with the
bundle, and the sizes of all allotments change as the lead's. -/
def Consort.push (co : Consort) (new : Option Fed) (c0 c : Ctx) : Consort :=
  let f := new.map fun f => { f with pre := if c.closing && !c0.closing then c.preempt else none }
  { co with fed := (f :: co.fed).take 32, sizes := co.sizes.map fun z => z + c.vSize - c0.vSize }

/-- Every member issues its bundle of the step (R126); the lead takes a pre-emption point instead (R127). -/
def stepAll (s : State) (k : Nat) (co : Consort) (new : Option Fed) (ms : List (Nat × Fed)) : State :=
  let lead := co.members.headD 0
  let point := new.isSome && preemptPoint s lead
  let s1 := if point then startDrain s lead else s
  let go := if point then ms.filter fun x => x.1 != lead else ms
  let s2 := go.foldl (fun s (ck, f) => if (s.ctx ck).st = .idle then s else memberCommit s ck f) s1
  let c0 := s.ctx lead
  let c1 := s2.ctx lead
  let s3 := co.members.foldl (fun s ck => s.modCore (ckCore ck) fun c =>
    { c with consort := c.consort.map fun x => x.push (if point then none else new) c0 c1 }) s2
  let s4 := idleOthers (stepMembers s3 lead go) co (go.map (·.1))
  match (s4.core k).consort with
  | some co1 => drainMembers s4 co1
  | none => s4

/-- A member that has returned from its handler takes its late writes again from the step at which the consort resumes (R317). -/
def resumeLate (s : State) (ck : Nat) : State :=
  let c := s.ctx ck
  if c.tl = 0 ∧ c.late.any (·.tag == 1) then s.modCtx ck fun c => replay c 1 (s.now ck) else s

/-- A step of a consort, in the turn of its lead (R126, R127, R317): a stall; a step trap; a fetch of the lead that fails; a freeze,
where a member cannot issue; the traps of the members that trap; the user interrupts; or every member issues. -/
def leadStep (s0 : State) (k : Nat) (co : Consort) : State :=
  let lead := co.members.headD 0
  let s := co.members.foldl (fun s ck => settle (resumeLate s ck) ck) s0
  let stalls := co.members.filter fun ck => (s.ctx ck).live && (s.ctx ck).stalled
  let stepped := co.members.filter fun ck => (s.ctx ck).live && (s.ctx ck).stepReady
  if stalls ≠ [] then idleOthers (eachLive s stalls stallStep) co stalls
  else if stepped ≠ [] then idleOthers (eachLive s stepped takeStep) co stepped
  else
    let miss := (s.ctx lead).live && fetch s lead == .missing
    let stop := if (s.ctx lead).live then
        match fetch s lead with
        | .outside => some (s, outsideTrap (s.ctx lead))
        | .bad a => some (s.noteRead a 64, badTrap a)
        | .unfilled b => some (s, badTrap b)
        | .words _ => none
        | .missing => none
      else none
    let new := leadFed s lead
    let ms := (co.members.zip (List.range co.members.length)).filterMap fun (ck, i) =>
      (fedOf s co new i ck).map fun f => (ck, f)
    let s1 := match new with
      | some f => noteFetch (placePcs s ms) lead f.ws
      | none => placePcs s ms
    let ps := ms.map fun (ck, f) => part1 s1 ck f
    let held := ps.filter fun p => (bundleHeld p.env p.ops).isSome
    if miss ∨ held ≠ [] then
      let s2 := held.foldl (fun s p => blockCtx (arriveAll s p.env p.ops) p.ck ((bundleHeld p.env p.ops).getD .cond)) s1
      let s3 := if miss then blockCtx s2 lead .cond else s2
      idleOthers s3 co (held.map (·.ck) ++ (if miss then [lead] else []))
    else
      let traps := ps.filter fun p => memberTraps s1 p
      match stop with
      | some (s2, t) =>
        let s3 := (trapBefore (placePcs s2 ms) lead t)
        let s4 := traps.foldl (fun s p => if (s.ctx p.ck).st = .idle then s else memberTrap s p) s3
        idleOthers s4 co (lead :: traps.map (·.ck))
      | none =>
        if traps ≠ [] then
          idleOthers (traps.foldl (fun s p => if (s.ctx p.ck).st = .idle then s else memberTrap s p) s1) co (traps.map (·.ck))
        else
          let ui := (ms.map (·.1)).filter fun ck => (s1.ctx ck).userReady && !(new.isSome && preemptPoint s1 lead)
          if ui ≠ [] then idleOthers (eachLive s1 ui enterUser) co ui
          else stepAll s1 k co new ms

/-- A core of a consort moves (R126, R317): a member in a handler issues for itself, and meanwhile the others issue nothing; else
the lead's turn is the step of all. -/
def consortTurn (s : State) (k : Nat) (co : Consort) (busy : Busy) : Out :=
  let me := (co.members.find? fun ck => ckCore ck == k).getD (k * 4)
  if (s.ctx me).inHandler then ctxTurn (focusCtx s me busy)
  else if co.members.any fun ck => (s.ctx ck).inHandler then .next (idleCycle s k)
  else if me = co.members.headD 0 then .next (afterTurn (leadStep (focusCtx s me busy) k co) me (s.ctx me))
  else .next s

/-- What follows an outcome that is a next state. -/
def andThen (o : Out) (f : State → State) : Out :=
  match o with
  | .next t => .next (f t)
  | .fault x => .fault x
  | .refused x => .refused x

/-- A context has its turn, and its node what the turn brings it to (R10, R61). -/
def turnOf (s : State) (ck : Nat) (busy : Busy) : Out :=
  andThen (ctxTurn (focusCtx s ck busy)) fun t => afterTurn t ck (s.ctx ck)

/-! ## Turns -/

/-- A core moves after `n` cycles (R106, R108): the objects homed on it are evaluated (R278, R283), and the context that has it
issues. -/
def coreTurn (s : State) (pos core : Nat) (busy : Busy) (n : Nat) : Out :=
  let k := coreKey pos core
  let s1 := evalObjs (s.modCore k fun c => { c with cycle := c.cycle + n }) k
  match (s1.core k).consort with
  | some co => consortTurn s1 k co busy
  | none => match holder s1 k with
    | some ck => turnOf (passOn s1 k ck) ck busy
    | none => .next (idleCycle s1 k)

/-- A hart moves (R230): it fetches and executes one instruction, or its fetch fails or finds an illegal instruction. -/
def hartTurn (s : State) (pos core : Nat) (storer drop : Bool) : Out :=
  let s1 := { s with focus := { pos := pos, core := core, ctx := 0, storer := storer, busy := Busy.none
                                arg := { EvArg.zero with flag := drop } } }
  if !s1.hart.live then .next s1
  else
    let pa := hartIst s1 + s1.hart.pc.toNat
    match hartFetch s1 with
    | .error c => exec (.hartException c) (if c = 0x0F then s1.noteRead pa 4 else s1)
    | .ok bs => match decodeHart bs with
      | some (i, n) => exec i (s1.noteRead pa n)
      | none => exec (.hartException 0x01) (s1.noteRead pa bs.length)

/-- A sector of an array that takes errors: DRAM and its copies in the memory-side cache, an array of a core, a scalar or fret bank, a
node store (R7, R327, Table 16-3). -/
def arraySector (x : Nat) : Bool :=
  x % sectorSize x == 0 &&
    (decide (x < 0x2000000000)
      || (decide (0x100000000000 ≤ x) && decide (x < 0x140000000000) && decide (x % 2 ^ 36 / 2 ^ 24 < 34)
          && (match areaOf (x % 2 ^ 24) with
            | .hole => false
            | .ctl => false
            | .pad | .acc | .vfile | .frame | .istore | .lIst | .lDat | .sIst | .sDat => true))
      || (decide (0x400000000000 ≤ x) && decide (x < 0x400000000000 + 544 * 0x1000) && decide (x % 0x1000 < 0x940))
      || (decide (0x480000000000 ≤ x) && decide (x < 0x480000000000 + 136 * 0x40000))
      || (decide (mscBase ≤ x) && decide (x < mscBase + 0x2000000000))
      || (decide (nodeStore ≤ x) && decide (x < nodeStore + 4 * 2 ^ 32)))

/-- A sector takes an error, which reads of it meet (R327). -/
def upset (s : State) (x : Nat) (unc : Bool) : State :=
  if !arraySector x then s
  else if unc then { s with bad := if s.bad.contains x then s.bad else s.bad ++ [x], weak := s.weak.filter (· != x) }
  else { s with weak := if s.weak.contains x || s.bad.contains x then s.weak else s.weak ++ [x] }

/-- The steps of other agents: the instructions that no slot and no hart holds. -/
def isEvent (i : Instr) : Bool :=
  (slotWord i).isNone && (hartBytes i).isNone && (match i with
    | .hartException _ => false
    | _ => true)

/-- A turn. -/
def runTurn (s0 : State) (t : Turn) : Out :=
  let s := advance s0 t.dts
  match t.who with
  | .core pos core busy n =>
    if !unitOk pos core 0 then .fault .absentUnit
    else if asleep s pos then .next s
    else coreTurn s pos core busy n
  | .hart pos core storer drop =>
    if !unitOk pos core 0 then .fault .absentUnit
    else if asleep s pos then .next s
    else hartTurn s pos core storer drop
  | .perform pos core ctx id piece =>
    if !unitOk pos core ctx then .fault .absentUnit
    else if asleep s pos then .next s
    else .next (performAccess s (ctxKey pos core ctx) id piece)
  | .event i a =>
    if !isEvent i ∨ !unitOk a.pos a.core a.ctx then .fault .absentUnit
    else exec i { s with focus := { s.focus with pos := a.pos, core := a.core, ctx := a.ctx, arg := a } }
  | .upset x unc => .next (upset s x unc)

end Sys2Proof.Machine
end

