-- ==== Sys2Proof/Machine/Step.lean ====
section
/-!
DEFINITION. One step of the package, and how a single instruction comes to run.
-/
namespace Sys2Proof.Machine
open Sys2Proof

/-- One step: the turn at the head of the agenda, or, where the agenda is empty, a free choice of turn (log entry 1). -/
def step (s : State) : Host.Outcome State Fault Refusal :=
  match s.agenda with
  | t :: r => runTurn { s with agenda := r } t
  | [] => runTurn { s with turns := s.turns + 1 } (Config.schedule s.turns)

/-- The state with a hart instruction of `bs` at the pc of the loader, or for jq.pop the storer, of core 0 of chiplet 0, the hart
running, and its turn next. -/
def State.withHartBytes (s : State) (storer : Bool) (bs : List Byte) : State :=
  let h := if storer then (s.core 0).storer else (s.core 0).loader
  let a := winBase 0 + (if storer then 0x650000 else 0x640000) + h.pc.toNat
  let live := { h with running := true, finished := false, paused := false }
  let s1 := { s with mem := s.mem.writeBytes a bs, agenda := { who := .hart 0 0 storer false, dts := [] } :: s.agenda }
  s1.modCore 0 fun c => if storer then { c with storer := live } else { c with loader := live }

/-- The state with a bundle of `bs` at the pc of context 0 of core 0 of chiplet 0, the block resident, the context holding the core,
and the core's turn next. -/
def State.withBundleBytes (s : State) (bs : List Byte) : State :=
  let s1 := s.modCtx 0 fun c =>
    { c with st := .active, tl := 0, res := false, halted := false, stepDue := none, trapDue := none, fetched := none, fillBad := none
             imgLen := Nat.max c.imgLen (c.pc + 1), resid := if c.needSpill then c.wdepth else c.resid
             loops := if c.buffered.isSome then [] else c.loops }
  let b := blockOf (bundlePa s1 0)
  let s2 := s1.modCore 0 fun c =>
    { c with active := some 0, consort := none
             istore := if (blockSlot c b).isSome then c.istore else (c.istore.filter fun (x : Nat × Nat) => x.1 != 0) ++ [(0, b)] }
  { s2 with mem := s2.mem.writeBytes ((storePa s2 0).getD 0) bs
            agenda := { who := .core 0 0 Busy.none 0, dts := [] } :: s2.agenda }

/-- The state in which the next step fetches and runs the instruction whose bits are `w` (the bits above are 0): a hart
instruction of up to 32 bits, or a bundle. Programs are loaded from outside the machine (log entry 11). -/
def State.withFetchWord (s : State) (nbits w : Nat) : State :=
  if nbits ≤ 32 then
    let storer := match decodeTableWord nbits w with
      | some (.jqPop _ _ _) => true
      | _ => false
    s.withHartBytes storer (leBytes 4 w)
  else s.withBundleBytes (leBytes 64 w)

end Sys2Proof.Machine
end

