-- ==== Sys2Proof/Safety.lean ====
section
/-!
DEFINITION. What claims speak of: a bundle that issues (R107, R308), what it leaves alone, a write in flight, states in which memory
keeps its canonical form.
-/
namespace Sys2Proof.Machine
open Sys2Proof

/-- Memory keeps its canonical form. -/
def State.memOk (s : State) : Prop := s.mem.wf = true

/-- An outcome that is a next state with a property. -/
def NextWith (o : Out) (P : State → Prop) : Prop := ∃ t, o = .next t ∧ P t

/-! ## A bundle that issues -/

/-- The prefix of an instruction of the node program. -/
def pfxOf? (i : Instr) : Pfx :=
  match slotWord i with
  | some (p, _) => p
  | none => Pfx.zero

/-- The operations of a bundle that holds one instruction. -/
def opsOf (i : Instr) : List Parts := (partsOf i).toList

/-- What a bundle sees: the state in which every write whose bound has passed and whose value is there has landed (R107, R109). -/
def State.atIssue (s : State) : State := settle s s.fck

/-- The context in focus, as its bundle sees it. -/
def State.cur (s : State) : Ctx := s.atIssue.ctx s.fck

/-- What the operations of the bundle see. -/
def State.env (s : State) (p : Pfx) (ops : List Parts) : Env := envOf s.atIssue s.fck p ops none

/-- The bundle of `ops` under prefix `p` reaches issue (R107, R308): its context can issue and is not in a stall of an earlier bundle
(R108, R124), no step trap stands, no condition of Table 6-2 holds it, and no asynchronous fault has arrived. -/
structure Reaches (s : State) (p : Pfx) (ops : List Parts) : Prop where
  live      : s.cur.live = true
  noStall   : s.cur.stalled = false
  noStep    : ¬ (s.cur.stepDue.isSome = true ∧ s.cur.tl = 0)
  ready     : bundleHeld (s.env p ops) ops = none
  noFault   : s.cur.async = []

/-- The bundle issues and takes effect (R107, R308): it reaches issue, no check of R77, R78 or R381 fails, no pre-emption point and
no user interrupt comes first, and FIO and LIO let it issue. -/
structure Issues (s : State) (p : Pfx) (ops : List Parts) : Prop extends Reaches s p ops where
  legal     : bundleTrap (s.env p ops) ops = none
  noPreempt : preemptPoint s.atIssue s.fck = false
  noUser    : s.cur.userReady = false
  runs      : gate s.cur p = .go

/-- The bundle in focus stands before nothing but the next bundle: no sector holds an error, the bundle is not the last of the body
of a loop level that is open and active, and STEP is off (R118, R326, R327). -/
structure Calm (s : State) : Prop where
  noWeak : s.atIssue.weak = []
  noBad  : s.atIssue.bad = []
  inside : ∀ l, s.cur.loops.getLast? = some l → s.cur.active l = true → s.cur.pc ≠ l.last
  noStep : s.cur.dbgStep = false

/-! ## What a bundle leaves alone -/

/-- A context whose bundle has issued: the next bundle, its number, and what the issue itself keeps (R106, R116). -/
def Ctx.stepped (c : Ctx) : Ctx :=
  { c with pc := c.pc + 1, bundleNo := c.bundleNo + 1, walkVa := none, walkMig := none, walkRes := none, st := .active
           peak := Nat.max c.peak c.slip, fetched := none, fillBad := none }

/-- A core whose context `ck` has issued a bundle (R106, R108). -/
def CoreSt.stepped (c : CoreSt) (ck : Nat) : CoreSt :=
  { c with active := some (ckCtx ck), lastActive := ckCtx ck, yielded := false, cycle := c.cycle + 1 }

/-- State `t` differs from `s` at most in memory and the errors of its sectors, in context `ck`, and in that context's core. `nextId`
only numbers operations. -/
structure SameRest (s t : State) (ck : Nat) : Prop where
  chips      : t.chips = s.chips
  posts      : t.posts = s.posts
  objMsgs    : t.objMsgs = s.objMsgs
  hostWrites : t.hostWrites = s.hostWrites
  agenda     : t.agenda = s.agenda
  turns      : t.turns = s.turns
  focus      : t.focus = s.focus
  tsets      : t.tsets = s.tsets
  quorum     : t.quorum = s.quorum
  conf       : t.conf = s.conf
  hostGot    : t.hostGot = s.hostGot
  ctxs       : ∀ n, n ≠ ck → t.ctx n = s.ctx n
  cores      : ∀ n, n ≠ ckCore ck → t.core n = s.core n

/-- State `t` differs from `s` at most in context `ck` and that context's core. -/
structure SameElse (s t : State) (ck : Nat) : Prop extends SameRest s t ck where
  mem        : t.mem = s.mem
  bad        : t.bad = s.bad
  weak       : t.weak = s.weak
  scrubQ     : t.scrubQ = s.scrubQ
  free       : t.free = s.free

/-- A write that joins those in flight; late-write entries that it overtakes are dropped (R109, R314). -/
def Ctx.putWrite (c : Ctx) (w : Write) : Ctx := dropLate { c with inflight := c.inflight ++ [w] } w.dest

/-- Issue of a bundle in `s` gives `t`, in which the context has done nothing but what `f` says, and its core nothing but what `g`
says beside taking its cycle. -/
def DidBoth (s t : State) (f : Ctx → Ctx) (g : CoreSt → CoreSt) : Prop :=
  SameElse s.atIssue t s.fck ∧ t.core (ckCore s.fck) = g ((s.atIssue.core (ckCore s.fck)).stepped s.fck)
    ∧ t.ctx s.fck = f s.cur.stepped

/-- Issue of a bundle in `s` gives `t`, in which the context has done nothing but what `f` says. -/
def Did (s t : State) (f : Ctx → Ctx) : Prop := DidBoth s t f id

/-- The state at the end of a bundle: the slip's peak and the cycle (R106, R116). -/
def endBundle (s : State) (ck : Nat) : State :=
  (s.modCtx ck fun c => { c with peak := Nat.max c.peak c.slip }).modCore (ckCore ck) fun k => { k with cycle := k.cycle + 1 }

/-- The state with another number for the next operation. -/
def State.withId (s : State) (n : Nat) : State := { s with nextId := n }

/-- The bundle in focus issues in `s`, and its effect is `e`. -/
def State.issued (s : State) (e : State → State) : State := endBundle (e (beginCommit s.atIssue s.fck)) s.fck

/-- The write to scalar register `n` that the bundle in focus puts in flight (R109): to the physical register that the number names
at issue, with both 32-bit groups; none for s0. -/
def scalarWrite (s : State) (n : Nat) (v : W64) (bound : Nat) (c : Ctx) : Ctx :=
  if n = 0 then c
  else c.putWrite
    { id := s.atIssue.nextId, dest := .s (s.cur.sphys n), val := v.setWidth 1024, lanes := laneS, groups := 3, ready := true
      t := s.atIssue.now s.fck, acc := some (s.atIssue.now s.fck), bound := bound, lvl := s.cur.tl, hold := false, fl := 0 }

/-- The write of byte lanes of vector register `n`, with the flags that land with it; none where no lane is written (R122). -/
def vectorWrite (s : State) (n : Nat) (lanes : BitVec 128) (v : VReg) (bound : Nat) (fl : BitVec 7) (c : Ctx) : Ctx :=
  if lanes = 0 then c
  else c.putWrite
    { id := s.atIssue.nextId, dest := .v (s.cur.vBase + n), val := v, lanes := lanes, groups := BitVec.allOnes 32, ready := true
      t := s.atIssue.now s.fck, acc := some (s.atIssue.now s.fck), bound := bound, lvl := s.cur.tl, hold := false, fl := fl }

/-- The write of lanes of mask register `n`. -/
def maskWrite (s : State) (n : Nat) (lanes v : BitVec 128) (bound : Nat) (fl : BitVec 7) (c : Ctx) : Ctx :=
  if lanes = 0 then c
  else c.putWrite
    { id := s.atIssue.nextId, dest := .m n, val := v.setWidth 1024, lanes := lanes, groups := 15, ready := true
      t := s.atIssue.now s.fck, acc := some (s.atIssue.now s.fck), bound := bound, lvl := s.cur.tl, hold := false, fl := fl }

/-- Scalar register `n`, and vector register `n`, as the bundle in focus reads them (R107). -/
def State.sr (s : State) (n : Nat) : W64 := s.cur.s n
def State.vr (s : State) (n : Nat) : Nat := (s.atIssue.v s.fck n).toNat

end Sys2Proof.Machine
end

