-- ==== Sys2Proof/Certificates/Slice0/Obligations.lean ====
section
/-!
DEFINITION. The statements for the provers.

`Issues s p ops` and `Calm s` (Safety) say that the bundle in focus issues, and that nothing but the next bundle follows it; `Did s t f`
says that it leaves state `t` in which its context alone has changed, by `f`, and so is the frame of what it does: memory, every
other context, every register, flag, trap register and queue that `f` does not name are as they were when the bundle issued.
-/
namespace Sys2Proof.Machine
open Sys2Proof

/-! ## Scalar operations (R147 to R152) -/

/-- The width W that EF sets (R147). -/
def Claims.width (ef : BitVec 5) : Nat := if ef = 0x10 then 32 else 64

/-- WB(r): the low W bits of the integer r, sign-extended (R147). -/
def Claims.wb (w : Nat) (r : Int) : W64 := (BitVec.ofInt w r).signExtend 64

/-- The RRR operations of the S slot. -/
def Claims.rrr? : Instr → Option (Pfx × Rrr)
  | .add p f | .sub p f | .mul p f | .mulh p f | .mulhu p f | .div p f | .divu p f | .rem p f | .remu p f | .and p f | .or p f
  | .xor p f | .andn p f | .shl p f | .shr p f | .sra p f | .rotl p f | .min p f | .max p f | .minu p f | .maxu p f | .seq p f
  | .sne p f | .slt p f | .sltu p f | .sle p f | .sleu p f | .sel p f | .clz p f | .ctz p f | .popc p f => some (p, f)
  | _ => none

/-- Table 8-2 and R150: the integer that an RRR operation of width `w` gives WB, of A, B and the old D. -/
def Claims.rrrInt (i : Instr) (w : Nat) (A B D : BitVec w) : Int :=
  let a := A.toInt
  let b := B.toInt
  let au := A.toNat
  let bu := B.toNat
  let n := bu % w
  match i with
  | .add _ _ => a + b
  | .sub _ _ => a - b
  | .mul _ _ => a * b
  | .mulh _ _ => a * b / (2 ^ w : Nat)
  | .mulhu _ _ => (au * bu / 2 ^ w : Nat)
  | .div _ _ => a.tdiv b
  | .divu _ _ => (au / bu : Nat)
  | .rem _ _ => a - a.tdiv b * b
  | .remu _ _ => (au - au / bu * bu : Nat)
  | .and _ _ => (au &&& bu : Nat)
  | .or _ _ => (au ||| bu : Nat)
  | .xor _ _ => (au ^^^ bu : Nat)
  | .andn _ _ => (au &&& (2 ^ w - 1 - bu) : Nat)
  | .shl _ _ => a * (2 ^ n : Nat)
  | .shr _ _ => (au / 2 ^ n : Nat)
  | .sra _ _ => a / (2 ^ n : Nat)
  | .rotl _ _ => (au * 2 ^ n ||| au / 2 ^ (w - n) : Nat)
  | .min _ _ => if a ≤ b then a else b
  | .max _ _ => if b ≤ a then a else b
  | .minu _ _ => (if au ≤ bu then au else bu : Nat)
  | .maxu _ _ => (if bu ≤ au then au else bu : Nat)
  | .seq _ _ => if a = b then 1 else 0
  | .sne _ _ => if a = b then 0 else 1
  | .slt _ _ => if a < b then 1 else 0
  | .sltu _ _ => if au < bu then 1 else 0
  | .sle _ _ => if a ≤ b then 1 else 0
  | .sleu _ _ => if au ≤ bu then 1 else 0
  | .sel _ _ => if D.toNat ≠ 0 then a else b
  | .clz _ _ => (if au = 0 then w else w - 1 - Nat.log2 au : Nat)
  | .ctz _ _ => (((List.range w).find? fun k => au.testBit k).getD w : Nat)
  | .popc _ _ => (((List.range w).filter fun k => au.testBit k).length : Nat)
  | _ => 0

/-- The value that an RRR operation writes. -/
def Claims.rrrValue (i : Instr) (f : Rrr) (s : State) : W64 :=
  let w := Claims.width f.ef
  Claims.wb w (Claims.rrrInt i w ((s.sr (s6 f.a)).setWidth w) ((s.sr (s6 f.b)).setWidth w) ((s.sr (s6 f.d)).setWidth w))

end Sys2Proof.Machine

section
open Sys2Proof Sys2Proof.Machine

/-- Every RRR operation of the S slot that issues (and so, for a division, with a divisor that is not zero) puts in flight the write
of Table 8-2 and R150 to the register that D names, with the bound of LAT, and changes nothing else; for D = s0 it writes nothing.
SMIR computes in VB what the operation that X[7:0] names by its opcode computes in S (R147). -/
def Obligations.ScalarRegisterOperations : Prop :=
  (∀ (s : State) (i : Instr) (p : Pfx) (f : Rrr), Claims.rrr? i = some (p, f) → Issues s p (opsOf i) → Calm s →
      NextWith (exec i s) fun t =>
        Did s t (scalarWrite s (s6 f.d) (Claims.rrrValue i f s) (latBound f.lat.toNat)))
  ∧ (∀ (s : State) (i : Instr) (p : Pfx) (f : Rrr), Claims.rrr? i = some (p, { f with x := 0 }) →
      slotWord i = some (p, 0, rrrWord (f.x.setWidth 8) { f with x := 0 }) → f.x.toNat < 256 →
      Issues s p (opsOf (.smir p f)) → Calm s →
      NextWith (exec (.smir p f) s) fun t =>
        Did s t (scalarWrite s (s6 f.d) (Claims.rrrValue i f s) (latBound f.lat.toNat)))

end

namespace Sys2Proof.Machine
open Sys2Proof

/-- The RI operations of the S slot. -/
def Claims.ri? : Instr → Option (Pfx × Ri)
  | .addi p f | .andi p f | .ori p f | .xori p f | .shli p f | .shri p f | .srai p f | .slti p f | .sltui p f | .li p f | .lix p f
  | .ext p f | .ins p f | .muli p f => some (p, f)
  | _ => none

/-- Table 8-4 and R152: the integer that an RI operation of width `w` gives WB, of A and the old D. -/
def Claims.riInt (i : Instr) (f : Ri) (w : Nat) (A D : BitVec w) : Int :=
  let a := A.toInt
  let au := A.toNat
  let imm := f.imm.toInt
  let n := bitsOf f.imm.toNat 5 0
  let lo := bitsOf f.imm.toNat 5 0
  let z := bitsOf f.imm.toNat 11 6 + 1
  let fld := au / 2 ^ lo % 2 ^ z
  match i with
  | .addi _ _ => a + imm
  | .andi _ _ => (au &&& (BitVec.ofInt w imm).toNat : Nat)
  | .ori _ _ => (au ||| (BitVec.ofInt w imm).toNat : Nat)
  | .xori _ _ => (au ^^^ (BitVec.ofInt w imm).toNat : Nat)
  | .shli _ _ => a * (2 ^ n : Nat)
  | .shri _ _ => (au / 2 ^ n : Nat)
  | .srai _ _ => a / (2 ^ n : Nat)
  | .slti _ _ => if a < imm then 1 else 0
  | .sltui _ _ => if au < (BitVec.ofInt w imm).toNat then 1 else 0
  | .li _ _ => imm
  | .lix _ _ => (D.toNat * 2 ^ 22 + f.imm.toNat : Nat)
  | .ext _ _ => if bitOf f.imm.toNat 12 ∧ 2 ^ (z - 1) ≤ fld then (fld : Int) - (2 ^ z : Nat) else fld
  | .ins _ _ => (D.toNat - D.toNat / 2 ^ lo % 2 ^ z * 2 ^ lo + au % 2 ^ z * 2 ^ lo : Nat)
  | .muli _ _ => a * imm
  | _ => 0

/-- The cause that the checks of R77 find for an operation, by themselves. -/
def Claims.trapAt (s : State) (p : Pfx) (i : Instr) (slot cause : Nat) (v : W64) : Prop :=
  bundleTrap (s.env p (opsOf i)) (opsOf i)
    = some { cause := cause, own := 0, tok := 0, isAsync := false, slots := 2 ^ slot, value := v }

/-- The word of an operation's slot. -/
def Claims.word (i : Instr) : W64 := ((slotWord i).map fun x => x.2.2).getD 0

/-- The value that an RI operation writes. -/
def Claims.riValue (i : Instr) (f : Ri) (s : State) : W64 :=
  let w := Claims.width f.ef
  Claims.wb w (Claims.riInt i f w ((s.sr (s6 f.a)).setWidth w) ((s.sr (s6 f.d)).setWidth w))

end Sys2Proof.Machine

section
open Sys2Proof Sys2Proof.Machine

/-- Every RI operation of the S slot that issues puts in flight the write of Table 8-4 and R152, and changes nothing else. EXT and
INS, alone in their bundle: bits [21:13] of IMM22 that are not zero trap with cause 0x02, and so does SX for INS; a field that
reaches beyond W traps with cause 0x01, where the other fields are legal (R152). -/
def Obligations.ScalarImmediateOperations : Prop :=
  (∀ (s : State) (i : Instr) (p : Pfx) (f : Ri), Claims.ri? i = some (p, f) → Issues s p (opsOf i) → Calm s →
    NextWith (exec i s) fun t =>
      Did s t (scalarWrite s (s6 f.d) (Claims.riValue i f s) (latBound f.lat.toNat)))
  ∧ (∀ (s : State) (i : Instr) (p : Pfx) (f : Ri), i = .ext p f ∨ i = .ins p f → p = Pfx.zero → gate s.cur p = .go →
    1 ≤ s.cur.npdef.toNat → s.cur.npdef.toNat ≤ 8 →
    (2 ^ 13 ≤ f.imm.toNat → Claims.trapAt s p i 0 0x02 (Claims.word i))
    ∧ (i = .ins p f → f.imm.getLsbD 12 = true → Claims.trapAt s p i 0 0x02 (Claims.word i))
    ∧ (f.imm.toNat < 2 ^ 13 → (i = .ins p f → f.imm.getLsbD 12 = false) → f.rm = 0 → f.fi = 0 → f.fo = 0 → f.sat = 0 →
        f.d.toNat < 64 → f.a.toNat < 64 → f.ef = 0 ∨ f.ef = 0x12 ∨ f.ef = 0x10 →
        Claims.width f.ef < f.imm.toNat % 64 + (f.imm.toNat / 64 % 64 + 1) →
        Claims.trapAt s p i 0 0x01 (Claims.word i)))

end

namespace Sys2Proof.Machine
open Sys2Proof

/-! ## Branches, calls and loops (R117 to R124, R153 to R157) -/

/-- The top of the mask stack, all ones where it is empty (R122). -/
def Claims.topMask (s : State) : BitVec 128 :=
  match s.cur.mstack with
  | [] => BitVec.allOnes 128
  | m :: _ => m

/-- The condition of a BR-format operation, COND 0 to 8 (R153). -/
def Claims.condition (s : State) (cond : Nat) (a b : W64) : Prop :=
  match cond with
  | 0 => True
  | 1 => a = b
  | 2 => a ≠ b
  | 3 => a.toInt < b.toInt
  | 4 => b.toInt ≤ a.toInt
  | 5 => a.toNat < b.toNat
  | 6 => b.toNat ≤ a.toNat
  | 7 => ∀ i, i < 128 → (Claims.topMask s).getLsbD i = false
  | 8 => ∃ i, i < 128 ∧ (Claims.topMask s).getLsbD i = true
  | _ => False

/-- BR and BRI. -/
def Claims.br? : Instr → Option (Pfx × Br)
  | .br p f | .bri p f => some (p, f)
  | _ => none

/-- The target of a taken branch (Table 8-6). -/
def Claims.target (i : Instr) (f : Br) (s : State) : Nat :=
  match i with
  | .bri _ _ => (s.sr f.sa.toNat).toNat
  | _ => (((s.cur.pc : Int) + f.off.toInt) % 4294967296).toNat

end Sys2Proof.Machine

section
open Sys2Proof Sys2Proof.Machine

/-- A branch that issues makes its target the next bundle where its condition holds, and PC + 1 where it does not; it changes
nothing else. -/
def Obligations.BranchesTakeTheirTargets : Prop :=
  ∀ (s : State) (i : Instr) (p : Pfx) (f : Br), Claims.br? i = some (p, f) → Issues s p (opsOf i) → Calm s →
    NextWith (exec i s) fun t =>
      (Claims.condition s f.cond.toNat (s.sr f.sa.toNat) (s.sr f.sb.toNat) →
        Did s t fun c => { c with pc := Claims.target i f s })
      ∧ (¬ Claims.condition s f.cond.toNat (s.sr f.sa.toNat) (s.sr f.sb.toNat) → Did s t id)

end

namespace Sys2Proof.Machine
open Sys2Proof

/-- The window advance of the call that made depth `d`. -/
def Claims.advance (c : Ctx) (d : Nat) : Nat := (sget (0, 0) c.link d).2

/-- CALL and CALLI. -/
def Claims.call? : Instr → Option (Pfx × Br)
  | .call p f | .calli p f => some (p, f)
  | _ => none

/-- The registers of the frames from `d` up to the running one (R123). -/
def Claims.below (c : Ctx) (d : Nat) : Nat := (List.range (c.wdepth - d)).foldl (fun n i => n + 8 * Claims.advance c (d + i + 1)) 0

/-- The frames that are not spilled and the running window do not fit the bank of 256 registers (R123, R124). -/
def Claims.overfull (c : Ctx) : Prop := 256 < 48 + Claims.below c c.resid

/-- Register `k` of the exclusive part of the oldest frame that is not spilled (R124). -/
def Claims.oldest (c : Ctx) (k : Nat) : Nat := (c.wp + 512 - Claims.below c c.resid + k) % 256

/-- The key of the running code's stride registrations (R156). -/
def Claims.key (c : Ctx) : Nat := 2 * c.tl + (if c.ui.inh then 1 else 0)

/-- The target of a call (R154). -/
def Claims.callee (i : Instr) (f : Br) (s : State) : Nat :=
  match i with
  | .calli _ _ => (s.sr f.sa.toNat).toNat
  | _ => (((s.cur.pc : Int) + f.off.toInt) % 4294967296).toNat

end Sys2Proof.Machine

section
open Sys2Proof Sys2Proof.Machine

/-- CALL and CALLI (R123, R124, R154), where no level of a deeper frame stands open: the link, the depth and the next bundle; callee
register s(16 + i) is caller register s(16 + 8A + i); no register changes but the new ones, and memory does not. Where the frames then
do not fit the bank, the spill follows, in which the context issues nothing: it waits for the writes in flight to the oldest frame, then
moves that frame to its save area and the core lets a cycle pass for each 8 registers, until the frames fit; a save area that takes no
write kills the context. -/
def Obligations.CallsMoveTheWindow : Prop :=
  (∀ (s : State) (i : Instr) (p : Pfx) (f : Br), Claims.call? i = some (p, f) → Issues s p (opsOf i) → Calm s →
    (∀ l ∈ s.cur.loops, l.tag.2.2 ≤ s.cur.wdepth) →
    let a := f.sb.toNat
    NextWith (exec i s) fun t =>
      let c := t.ctx s.fck
      1 ≤ a ∧ a ≤ 6 ∧ s.cur.wdepth ≠ 63
      ∧ c.pc = Claims.callee i f s ∧ c.wdepth = s.cur.wdepth + 1 ∧ c.wp = (s.cur.wp + 8 * a) % 256
      ∧ c.link = sput s.cur.link (s.cur.wdepth + 1) (s.cur.pc + 1, a)
      ∧ (∀ n, n ≤ 47 - 8 * a → c.sphys (16 + n) = s.cur.sphys (16 + 8 * a + n))
      ∧ (∀ n, n < 16 → c.sphys n = s.cur.sphys n)
      ∧ (∀ r, (∀ n, 64 - 8 * a ≤ n → n < 64 → r ≠ c.sphys n) → sget 0 c.sregs r = sget 0 s.cur.sregs r)
      ∧ (Claims.overfull c → c.sregs = s.cur.sregs ∧ c.stalled = true) ∧ c.resid = s.cur.resid ∧ c.inflight = s.cur.inflight
      ∧ c.flags = s.cur.flags ∧ c.masks = s.cur.masks ∧ c.mstack = s.cur.mstack
      ∧ c.toks = s.cur.toks ∧ c.loops = s.cur.loops ∧ c.pendStr = sput s.cur.pendStr (Claims.key s.cur) [] ∧ c.tl = s.cur.tl
      ∧ c.trap1 = s.cur.trap1 ∧ c.trap2 = s.cur.trap2 ∧ c.rowprog = s.cur.rowprog
      ∧ SameRest s.atIssue t s.fck ∧ t.mem = s.atIssue.mem ∧ t.bad = s.atIssue.bad ∧ t.weak = s.atIssue.weak)
  ∧ (∀ (s : State) (p : Pfx) (ops : List Parts), s.memOk → s.atIssue.weak = [] → s.cur.live = true → s.cur.trapDue = none →
      Claims.overfull s.cur →
      let c0 := s.cur
      let d := c0.resid
      let m := 8 * Claims.advance c0 (d + 1)
      let t := issueState p ops none s
      let c := t.ctx s.fck
      let busy := ∃ w ∈ c0.inflight, ∃ k, k < m ∧ w.dest = .s (Claims.oldest c0 k)
      (busy → t = s.atIssue.modCore (ckCore s.fck) fun k => { k with cycle := k.cycle + 1 })
      ∧ (¬ busy → s.atIssue.bad = [] →
        c.resid = d + 1 ∧ c.pc = c0.pc ∧ c.wdepth = c0.wdepth ∧ c.wp = c0.wp ∧ c.inflight = c0.inflight ∧ c.loops = c0.loops
        ∧ (∀ k, k < m → t.read64 (saveArea s.fck d + 8 * k) = sget 0 c0.sregs (Claims.oldest c0 k))
        ∧ (∀ b, b < saveArea s.fck d ∨ saveArea s.fck d + 8 * m ≤ b → t.mem.read b = s.atIssue.mem.read b)
        ∧ (Claims.overfull c → c.sregs = c0.sregs)
        ∧ (∀ r, (∀ n, 64 - m ≤ n → n < 64 → r ≠ c.sphys n) → 8 * Claims.advance c0 c0.wdepth ≤ m → sget 0 c.sregs r = sget 0 c0.sregs r)
        ∧ t.core (ckCore s.fck)
            = { s.atIssue.core (ckCore s.fck) with cycle := (s.atIssue.core (ckCore s.fck)).cycle + Claims.advance c0 (d + 1) }
        ∧ SameRest s.atIssue t s.fck)
      ∧ (¬ busy → s.atIssue.writeBad (saveArea s.fck d) (8 * m) = true → c.st = .idle))


/-- RET (R123, R124, R154), where the next bundle is not the one after the body of the level that the return makes active: the link
is popped, the window moves back, and where the frame returned into was spilled its exclusive registers are read back from its save
area. -/
def Obligations.ReturnsRestoreTheWindow : Prop :=
  ∀ (s : State) (p : Pfx) (f : Br) (idx a : Nat), Issues s p (opsOf (.ret p f)) → Calm s →
    sget (0, 0) s.cur.link s.cur.wdepth = (idx, a) → a ≤ 6 →
    (∀ l, s.cur.loops.getLast? = some l → l.tag.2.2 + 1 = s.cur.wdepth → idx ≠ l.last + 1) →
    NextWith (exec (.ret p f) s) fun t =>
      let c := t.ctx s.fck
      s.cur.wdepth ≠ 0
      ∧ c.pc = idx ∧ c.wdepth + 1 = s.cur.wdepth ∧ c.wp = (s.cur.wp + 256 - 8 * a) % 256
      ∧ c.link = s.cur.link ∧ c.pendStr = sput s.cur.pendStr (Claims.key s.cur) [] ∧ c.loops = s.cur.loops ∧ c.masks = s.cur.masks ∧ c.mstack = s.cur.mstack
      ∧ c.toks = s.cur.toks ∧ c.flags = s.cur.flags ∧ c.tl = s.cur.tl ∧ c.inflight = s.cur.inflight
      ∧ SameElse s.atIssue t s.fck
      ∧ (s.cur.resid < s.cur.wdepth → c.sregs = s.cur.sregs)
      ∧ (s.cur.wdepth ≤ s.cur.resid →
          (∀ k, k < 8 * a → sget 0 c.sregs ((c.wp + k) % 256) = s.atIssue.read64 (saveArea s.fck c.wdepth + 8 * k))
          ∧ ∀ r, (∀ k, k < 8 * a → r ≠ (c.wp + k) % 256) → sget 0 c.sregs r = sget 0 s.cur.sregs r)

end

namespace Sys2Proof.Machine
open Sys2Proof

/-- The level closed for pre-emption that the bundle in focus reopens (R121). -/
def Claims.reopened (s : State) : Option Closed :=
  match s.cur.resume with
  | some r => if r.pc = s.cur.pc ∧ r.tag = (s.cur.tl, s.cur.ui.inh, s.cur.wdepth) then some r else none
  | none => none

/-- The registrations of a level after LSTR (R156): a register registered again has its stride replaced. -/
def Claims.register (l : List (Nat × W64)) (r : Nat) (d : W64) : List (Nat × W64) :=
  if r ∈ l.map Prod.fst then l.map fun x => if x.1 = r then (r, d) else x else l ++ [(r, d)]

end Sys2Proof.Machine

section
open Sys2Proof Sys2Proof.Machine

/-- LOOP, LSTR and LBRK (R117, R120, R121, R155 to R157). The trip count of LOOP is the resume count where its level was closed for
pre-emption. With N = 0 no level opens and execution goes on after the body, which must not be where the body of the level around it
ends. What LSTR registers before a level opens belongs to the code that runs, a trap level or the user handler (R156). The boundary of
a loop (R118, R119, R121), shown with EMPTY_BUNDLE as the last bundle of the body of the innermost level,
which is active: before the last iteration the next bundle is the first of the body, and each registered register has its stride
added, where no write to it is in flight; after the last iteration the level closes and execution goes on after the body, where the
level around it does not end there too; a level closed for pre-emption goes back to its LOOP, with the iterations that remain. A
taken LBRK ends a level that is served for pre-emption, by the model's reading (log entry 14). -/
def Obligations.Loops : Prop :=
  (∀ (s : State) (p : Pfx) (f : Br), Calm s →
      (Issues s p (opsOf (.loop p f)) → NextWith (exec (.loop p f) s) fun t =>
        let n := match Claims.reopened s with
          | some r => r.count
          | none => (s.sr f.sa.toNat).toNat
        let strides := match Claims.reopened s with
          | some r => r.strides
          | none => sget [] s.cur.pendStr (Claims.key s.cur)
        let up : Ctx → Ctx := fun c =>
          { c with
            pendStr := sput c.pendStr (Claims.key s.cur) []
            resume := if (Claims.reopened s).isSome then none else c.resume
            closing := c.closing && (Claims.reopened s).isNone }
        n ≤ 0xFFFFFFFF
        ∧ (n = 0 → (∀ l, s.cur.loops.getLast? = some l → s.cur.active l = true → l.last ≠ s.cur.pc + f.off.toNat) →
            Did s t fun c => { up c with pc := s.cur.pc + f.off.toNat + 1 })
        ∧ (n ≠ 0 → Did s t fun c =>
            { up c with
              loops := s.cur.loops ++ [{ loopPc := s.cur.pc, last := s.cur.pc + f.off.toNat, trip := n, iter := 0, forced := false
                                         serve := false, tag := (s.cur.tl, s.cur.ui.inh, s.cur.wdepth), strides := strides
                                         buf := [] }] }))
      ∧ (Issues s p (opsOf (.lstr p f)) → NextWith (exec (.lstr p f) s) fun t =>
        let n := f.off.toNat % 8
        let d := s.sr f.sb.toNat
        (∀ l, s.cur.loops[n]? = some l → Did s t fun c =>
            { c with loops := s.cur.loops.set n { l with strides := Claims.register l.strides f.sa.toNat d } })
        ∧ (s.cur.loops[n]? = none → n = s.cur.loops.length
            ∧ Did s t fun c => { c with
                pendStr := sput c.pendStr (Claims.key s.cur) (Claims.register (sget [] c.pendStr (Claims.key s.cur)) f.sa.toNat d) }))
      ∧ (Issues s p (opsOf (.lbrk p f)) → NextWith (exec (.lbrk p f) s) fun t =>
        ∃ l, s.cur.loops[f.off.toNat % 8]? = some l ∧ l.tag = (s.cur.tl, s.cur.ui.inh, s.cur.wdepth)
        ∧ (Claims.condition s f.cond.toNat (s.sr f.sa.toNat) (s.sr f.sb.toNat) → Did s t fun c =>
            { c with loops := s.cur.loops.set (f.off.toNat % 8) { l with forced := true, serve := false }
                     closing := c.closing && !l.serve })
        ∧ (¬ Claims.condition s f.cond.toNat (s.sr f.sa.toNat) (s.sr f.sb.toNat) → Did s t id)))
  ∧ (∀ (s : State) (p : Pfx) (l : Loop), Issues s p (opsOf (.emptyBundle p)) → s.cur.dbgStep = false →
      s.cur.loops.getLast? = some l → l.tag = (s.cur.tl, s.cur.ui.inh, s.cur.wdepth) → s.cur.pc = l.last →
      NextWith (exec (.emptyBundle p) s) fun t =>
        let c := t.ctx s.fck
        (l.iter + 1 < l.trip → l.forced = false → l.serve = false →
          c.pc = l.loopPc + 1
          ∧ (∃ v, c.loops = s.cur.loops.dropLast ++ [{ l with iter := l.iter + 1, serve := v }]
              ∧ (s.cur.preempt = none → v = false)))
        ∧ ((l.iter + 1 < l.trip → l.forced = false) → (l.iter + 1 < l.trip ∨ l.serve = true) →
          (∀ r d, (r, d) ∈ l.strides → (l.strides.map Prod.fst).Nodup → (∀ x ∈ l.strides, x.1 < 64 ∧ x.1 ≠ 0) →
              (∀ w ∈ s.cur.inflight, w.dest ≠ .s (s.cur.sphys r)) → c.s r = s.cur.s r + d)
          ∧ (∀ r, r < 64 → (∀ x ∈ l.strides, x.1 < 64 ∧ x.1 ≠ r) → c.s r = s.cur.s r))
        ∧ ((l.iter + 1 = l.trip ∨ l.forced = true) → l.serve = false →
            (∀ o, s.cur.loops.dropLast.getLast? = some o → s.cur.active o = true → o.last ≠ l.last) →
            Did s t fun c => { c with loops := s.cur.loops.dropLast })
        ∧ (l.serve = true → c.pc = l.loopPc ∧ c.loops = s.cur.loops.dropLast
            ∧ c.resume = some { pc := l.loopPc, tag := l.tag, count := l.trip - l.iter - 1, strides := l.strides })
        ∧ t.mem = s.atIssue.mem ∧ t.chips = s.atIssue.chips)

end

namespace Sys2Proof.Machine
open Sys2Proof

/-! ## Special registers (R158, R159) -/

/-- Table 8-7: what special register `n` reads as. -/
def Claims.special (s : State) (n : Nat) : Option W64 :=
  let c := s.cur
  let k := ckCore s.fck
  let pos := ckPos s.fck
  let chip := s.atIssue.chip pos
  let w := fun x : Nat => BitVec.ofNat 64 x
  match n with
  | 0x000 => some (w (ckCtx s.fck))
  | 0x001 => some (w (logicalCore s.atIssue k))
  | 0x002 => some (w (chip.logicalOf pos))
  | 0x003 => some c.memb
  | 0x004 => some c.cons
  | 0x005 => some (w (c.part % 8))
  | 0x006 => some c.node
  | 0x010 => some (w chip.ct)
  | 0x011 => some (w (chip.ct / 1500))
  | 0x012 => some (w (frameOf s.atIssue pos c.gid))
  | 0x020 => some (w (c.vBase % 1024 * 65536 + c.vSize % 1024))
  | 0x021 => some (w (c.wp % 256))
  | 0x022 => some (w (c.wdepth % 64))
  | 0x030 => some (c.npdef.setWidth 64)
  | 0x031 => some (c.dom.setWidth 64)
  | 0x032 => some (c.flags.setWidth 64)
  | 0x033 => some (w (c.peak % 32 * 65536 + c.slip % 32 * 256 + c.budget % 32))
  | 0x034 => some c.rowprog
  | 0x035 => some (fretWord c)
  | 0x040 | 0x041 | 0x042 | 0x043 | 0x044 | 0x045 | 0x046 | 0x047 => some (sget 0 (s.atIssue.core k).chwm (n - 0x40))
  | 0x050 => some (w (bit01 c.ui.en * 2 ^ 49 + bit01 c.ui.inh * 2 ^ 48 + c.ui.pend % 256 * 2 ^ 40 + c.ui.vec.toNat))
  | 0x051 => some (c.ui.pc.setWidth 64)
  | 0x100 => some (w c.tl)
  | 0x101 => some c.trap1.cause
  | 0x102 => some c.trap2.cause
  | 0x103 => some c.trap1.ret
  | 0x104 => some c.trap2.ret
  | 0x105 => some c.trap1.val
  | 0x106 => some c.trap2.val
  | 0x107 => some c.trap1.mask
  | 0x108 => some c.trap2.mask
  | 0x109 => some c.tsave
  | 0x10A => some c.tvec
  | 0x110 => some (suspectWord (s.atIssue.core k))
  | _ => none

/-- Table 8-7 and the register tables: what a write of `v` to special register `n` in cycle `now` changes; reserved fields are ignored, and
flags that landed in the cycle are ORed into FLAGS (R139). -/
def Claims.setSpecial (now n : Nat) (v : W64) (c : Ctx) : Option Ctx :=
  match n with
  | 0x030 => some { c with npdef := v.setWidth 6 }
  | 0x031 => some { c with dom := v.setWidth 3 }
  | 0x032 => some { c with flags := v.setWidth 7 ||| (if c.flagCy = now then c.flagNew else 0) }
  | 0x033 => some { c with budget := if v.toNat % 32 ≤ 16 then v.toNat % 32 else 16 }
  | 0x034 => some { c with rowprog := v &&& 0xFFF07FFF }
  | 0x050 => some { c with ui := { c.ui with pend := c.ui.pend &&& (0xFF - v.toNat / 2 ^ 40 % 256), vec := v.setWidth 32 } }
  | 0x051 => some { c with ui := { c.ui with pc := v.setWidth 32 } }
  | 0x101 => some { c with trap1 := { c.trap1 with cause := v &&& 0xFFFDFF } }
  | 0x102 => some { c with trap2 := { c.trap2 with cause := v &&& 0xFFFDFF } }
  | 0x103 => some { c with trap1 := { c.trap1 with ret := v &&& 0x1FFFFFFFF } }
  | 0x104 => some { c with trap2 := { c.trap2 with ret := v &&& 0x1FFFFFFFF } }
  | 0x105 => some { c with trap1 := { c.trap1 with val := v } }
  | 0x106 => some { c with trap2 := { c.trap2 with val := v } }
  | 0x107 => some { c with trap1 := { c.trap1 with mask := v &&& 0xFF } }
  | 0x108 => some { c with trap2 := { c.trap2 with mask := v &&& 0xFF } }
  | 0x109 => some { c with tsave := v }
  | 0x10A => some { c with tvec := v &&& 0x3FFFFFFFFFC0 }
  | _ => none

end Sys2Proof.Machine

section
open Sys2Proof Sys2Proof.Machine

/-- MFSR that issues puts in flight the value that its special register holds in the cycle of issue; a read of SLACKREG sets PEAK to
the slip; nothing else changes. MTSR changes the writable fields of its special register, from the next bundle on, and nothing else;
a register that Table 8-7 does not make writable is no case: its write traps. -/
def Obligations.SpecialRegisters : Prop :=
  (∀ (s : State) (p : Pfx) (f : Ri), Issues s p (opsOf (.mfsr p f)) → Calm s →
      ∃ v, Claims.special s f.imm.toNat = some v ∧ NextWith (exec (.mfsr p f) s) fun t =>
        Did s t fun c => scalarWrite s (s6 f.d) v (latBound f.lat.toNat)
          (if f.imm.toNat = 0x033 then { c with peak := c.slip } else c))
  ∧ (∀ (s : State) (p : Pfx) (f : Ri), Issues s p (opsOf (.mtsr p f)) → Calm s →
      NextWith (exec (.mtsr p f) s) fun t =>
        (Claims.setSpecial (s.atIssue.now s.fck) f.imm.toNat (s.sr (s6 f.a)) s.cur.stepped).isSome = true
        ∧ Did s t fun c => (Claims.setSpecial (s.atIssue.now s.fck) f.imm.toNat (s.sr (s6 f.a)) c).getD c)

end

namespace Sys2Proof.Machine
open Sys2Proof

/-! ## Traps (R309 to R314) -/

/-- The bundle of `ops` reaches issue and traps with `t` (R308, R309): it passes what Reaches says, and its checks fail. -/
structure Claims.Traps (s : State) (p : Pfx) (ops : List Parts) (t : TrapInfo) : Prop extends Reaches s p ops where
  fails : bundleTrap (s.env p ops) ops = some t

/-- A handler can be entered: the level is below 2, and TVEC.BASE is bundle 0 of a sealed KIND 2 image (R311). -/
def Claims.handler (s : State) : Prop := s.cur.tl < 2 ∧ (s.atIssue.resImage (bitsOf s.cur.tvec.toNat 45 6 * 64)).isSome = true

/-- The writes in flight that a trap captures (R313): those of code at the level left, but not those of M-slot operations, LDT, LDVT
and LAT 15, which land in place. -/
def Claims.captured (s : State) : List Write := s.cur.inflight.filter fun w => !w.hold && w.lvl == s.cur.tl

/-- TCAUSE (Table 15-2). -/
def Claims.tcause (t : TrapInfo) : W64 :=
  BitVec.ofNat 64 (t.own % 256 * 65536 + t.tok % 64 * 1024 + (if t.isAsync then 256 else 0) + t.cause % 256)

/-- A context that has entered the handler of `t` (R311, R313): the level, its trap registers, resident privilege, the handler's
bundle in the image at TVEC.BASE (R70), no stride registered by the handler (R156); the captured writes have left for the late-write
buffer, each with its remaining count. -/
def Claims.entered (c : Ctx) (t : TrapInfo) (idx now : Nat) (taken : List Write) : Ctx :=
  let r : TrapRegs := { cause := Claims.tcause t, val := t.value, mask := BitVec.ofNat 64 (t.slots % 256)
                        ret := BitVec.ofNat 64 ((if c.res then 2 ^ 32 else 0) + idx % 2 ^ 32) }
  { c with
    tl := c.tl + 1, res := true, pc := 4 * t.cause + 128 * c.tl
    trap1 := if c.tl = 0 then r else c.trap1
    trap2 := if c.tl = 0 then c.trap2 else r
    inflight := c.inflight.filter fun w => w.hold || w.lvl != c.tl
    late := c.late ++ taken.map fun w =>
      { w := w, tag := c.tl + 1, rem := Nat.max 1 (w.acc.getD w.t + w.bound - now), cy := now }
    walkVa := none, walkMig := none, walkRes := none, fetched := none, fillBad := none, trapDue := none, objReq := none
    resImg := sput c.resImg (c.tl + 1) (bitsOf c.tvec.toNat 45 6 * 64)
    pendStr := sput c.pendStr (Claims.key { c with tl := c.tl + 1 }) [] }

/-- The place of the next record of the chiplet's log (R357). -/
def Claims.logPlace (s : State) : Nat :=
  let c := s.atIssue.chip (ckPos s.fck)
  bitsOf c.tbBase.toNat 45 12 * 4096 + 32 * (c.tbWr.toNat % c.tbCap)

/-- State `t` is `s` with what a trap's entry does beside its context: the cycles of the core `k`, translations that faulted and are not
kept (R202), and the trap event in the log. -/
structure Claims.TrapFrame (s t : State) (k : CoreSt) : Prop where
  ctxs  : ∀ n, n ≠ s.fck → t.ctx n = s.atIssue.ctx n
  cores : ∀ n, n ≠ ckCore s.fck → t.core n = s.atIssue.core n
  core  : ∃ n l m, (∀ e ∈ l, e ∈ k.tlb) ∧ (∀ e ∈ m, e ∈ k.ctlb) ∧ t.core (ckCore s.fck) = { k with cycle := n, tlb := l, ctlb := m }
  chips : ∀ n, n ≠ ckPos s.fck → t.chip n = s.atIssue.chip n
  quiet : (s.atIssue.chip (ckPos s.fck)).tbMode ≠ 1 → t.chips = s.atIssue.chips ∧ t.mem = s.atIssue.mem
  mem   : ∀ a, (a < Claims.logPlace s ∨ Claims.logPlace s + 32 ≤ a) → t.mem.read a = s.atIssue.mem.read a

/-- The context of `s` has left its core, and its node is reported failed with FCAUSE (R164, R312). -/
def Claims.Killed (s t : State) (ck cause : Nat) : Prop :=
  let c := s.ctx ck
  (t.ctx ck).st = .idle ∧ (t.ctx ck).mq = [] ∧ (t.ctx ck).lq = [] ∧ (t.ctx ck).tq = [] ∧ (t.ctx ck).cq = []
  ∧ (t.ctx ck).inflight = [] ∧ (t.ctx ck).late = [] ∧ (t.ctx ck).outst = []
  ∧ ∃ pos, ∃ r ∈ (t.chip pos).reports, r.gid = c.gid ∧ r.idx = c.idx ∧ r.cause = cause

end Sys2Proof.Machine

section
open Sys2Proof Sys2Proof.Machine

/-- A bundle that traps at issue changes nothing but the trap registers of the level taken, enters the handler at index 4c + 128(L −
1) with TRET at the trapping bundle, and moves the writes in flight into the late-write buffer, where they fit (R309, R311, R313). A
trap taken at TL = 2, or with TVEC.BASE no bundle 0 of a sealed KIND 2 image, kills the context with the trap's cause (R311, R312).
-/
def Obligations.TrapsEnterOrKill : Prop :=
  (∀ (s : State) (i : Instr) (p : Pfx) (o : Parts) (t : TrapInfo),
      partsOf i = some o → pfxOf? i = p → (∀ e u, o.onFault e u = u) →
      Claims.Traps s p [o] t → s.atIssue.weak = [] → s.atIssue.bad = [] → Claims.handler s →
      s.cur.late.length + (Claims.captured s).length ≤ 96 →
      NextWith (exec i s) fun u =>
        u.ctx s.fck = Claims.entered s.cur t s.cur.pc (s.atIssue.now s.fck) (Claims.captured s) ∧ Claims.TrapFrame s u (s.atIssue.core (ckCore s.fck)))
  ∧ (∀ (s : State) (i : Instr) (p : Pfx) (o : Parts) (t : TrapInfo),
      partsOf i = some o → pfxOf? i = p → (∀ e u, o.onFault e u = u) →
      Claims.Traps s p [o] t → s.atIssue.weak = [] → s.atIssue.bad = [] → 2 ≤ s.cur.tl ∨ ¬ Claims.handler s →
      NextWith (exec i s) fun u => Claims.Killed s.atIssue u s.fck t.cause)

end

namespace Sys2Proof.Machine
open Sys2Proof

/-- The one operation of a bundle passes the checks of R77 and R78, and no register that it reads holds an error. -/
def Claims.Legal (s : State) (p : Pfx) (i : Instr) : Prop :=
  gate s.cur p = .go ∧ staticTrap s.cur p (opsOf i) = none ∧ s.atIssue.bad = []

/-- The RRR divisions of the S slot. -/
def Claims.division? : Instr → Option (Pfx × Rrr)
  | .div p f | .divu p f | .rem p f | .remu p f => some (p, f)
  | _ => none


end Sys2Proof.Machine

section
open Sys2Proof Sys2Proof.Machine

/-- The faults of the S slot at issue (R381): a zero divisor 0x07; a branch out of the innermost active body 0x13; a call at depth
63 and a return at depth 0 0x0B; a return over an open level, LSTR and LBRK of a level that is not active 0x13; TRET at TL 0, UIRET
outside its handler, HALT in a handler and DOM of 5 to 7 0x01; BKPT 0x19; VSHRINK beyond SIZE 0x03; a misaligned ICINV 0x08. Each
names slot S in TMASK; TVAL is the slot, for BKPT its code and for ICINV the address. -/
def Obligations.ScalarSlotFaults : Prop :=
  ∀ (s : State) (p : Pfx),
    (∀ i f, Claims.division? i = some (p, f) → Claims.Legal s p i → (s.sr (s6 f.b)).setWidth (Claims.width f.ef) = 0 →
      Claims.trapAt s p i 0 0x07 (Claims.word i))
    ∧ (∀ i f l, Claims.br? i = some (p, f) → Claims.Legal s p i →
        Claims.condition s f.cond.toNat (s.sr f.sa.toNat) (s.sr f.sb.toNat) →
        s.cur.loops.getLast? = some l → l.tag = (s.cur.tl, s.cur.ui.inh, s.cur.wdepth) →
        Claims.target i f s ≤ l.loopPc ∨ l.last < Claims.target i f s → Claims.trapAt s p i 0 0x13 (Claims.word i))
    ∧ (∀ i f, Claims.call? i = some (p, f) → Claims.Legal s p i → s.cur.wdepth = 63 → Claims.trapAt s p i 0 0x0B (Claims.word i))
    ∧ (∀ f, Claims.Legal s p (.ret p f) → s.cur.wdepth = 0 → Claims.trapAt s p (.ret p f) 0 0x0B (Claims.word (.ret p f)))
    ∧ (∀ f l, Claims.Legal s p (.ret p f) → s.cur.wdepth ≠ 0 → s.cur.loops.getLast? = some l →
        l.tag = (s.cur.tl, s.cur.ui.inh, s.cur.wdepth) → Claims.trapAt s p (.ret p f) 0 0x13 (Claims.word (.ret p f)))
    ∧ (∀ f, Claims.Legal s p (.loop p f) → Claims.reopened s = none → 0xFFFFFFFF < (s.sr f.sa.toNat).toNat →
        Claims.trapAt s p (.loop p f) 0 0x13 (Claims.word (.loop p f)))
    ∧ (∀ f, Claims.Legal s p (.loop p f) → Claims.reopened s = none → 6 ≤ s.cur.loops.length → (s.sr f.sa.toNat) ≠ 0 →
        Claims.trapAt s p (.loop p f) 0 0x13 (Claims.word (.loop p f)))
    ∧ (∀ f, Claims.Legal s p (.lbrk p f) →
        (∀ l, s.cur.loops[f.off.toNat % 8]? = some l → l.tag ≠ (s.cur.tl, s.cur.ui.inh, s.cur.wdepth)) →
        Claims.trapAt s p (.lbrk p f) 0 0x13 (Claims.word (.lbrk p f)))
    ∧ (∀ f, Claims.Legal s p (.lstr p f) → f.off.toNat % 8 ≠ s.cur.loops.length →
        (∀ l, s.cur.loops[f.off.toNat % 8]? = some l → l.tag ≠ (s.cur.tl, s.cur.ui.inh, s.cur.wdepth)) →
        Claims.trapAt s p (.lstr p f) 0 0x13 (Claims.word (.lstr p f)))
    ∧ (∀ f, Claims.Legal s p (.tret p f) → s.cur.tl = 0 → Claims.trapAt s p (.tret p f) 0 0x01 (Claims.word (.tret p f)))
    ∧ (∀ f, Claims.Legal s p (.uiret p f) → s.cur.ui.inh = false →
        Claims.trapAt s p (.uiret p f) 0 0x01 (Claims.word (.uiret p f)))
    ∧ (∀ f, Claims.Legal s p (.halt p f) → s.cur.tl ≠ 0 → Claims.trapAt s p (.halt p f) 0 0x01 (Claims.word (.halt p f)))
    ∧ (∀ f, Claims.Legal s p (.mtsr p f) → f.imm.toNat = 0x031 → 5 ≤ (s.sr (s6 f.a)).toNat % 8 →
        Claims.trapAt s p (.mtsr p f) 0 0x01 (Claims.word (.mtsr p f)))
    ∧ (∀ f, Claims.Legal s p (.bkpt p f) → Claims.trapAt s p (.bkpt p f) 0 0x19 (f.imm.setWidth 64))
    ∧ (∀ f, Claims.Legal s p (.vshrink p f) → s.cur.vSize < f.imm.toNat →
        Claims.trapAt s p (.vshrink p f) 0 0x03 (Claims.word (.vshrink p f)))
    ∧ (∀ f, Claims.Legal s p (.icinv p f) → f.x.toNat = 0 → (s.sr (s6 f.a)).toNat % 4096 ≠ 0 →
        Claims.trapAt s p (.icinv p f) 0 0x08 (s.sr (s6 f.a)))

end

namespace Sys2Proof.Machine
open Sys2Proof

/-- An RRR operation whose fields are all zero. -/
def Claims.bare : Rrr := { lat := 0, rm := 0, fi := 0, fo := 0, sat := 0, ef := 0, d := 0, a := 0, b := 0, msk := 0, x := 0 }

end Sys2Proof.Machine

section
open Sys2Proof Sys2Proof.Machine

/-- The checks of a slot before issue (R77, R79, R80, R85, R89): an operation that stands alone in its bundle traps with the first
that fails, in the order of R77: a nonzero field that must be zero 0x02, an illegal field value with its own cause, an illegal LAT,
a resident operation at node privilege 0x1D, a vector register beyond the allotment 0x03. The operations that only resident code may
run, with legal fields, trap at node privilege with cause 0x1D (R158, R161, R164 to R166). -/
def Obligations.SlotChecks : Prop :=
  (∀ (s : State) (i : Instr) (p : Pfx) (o : Parts), partsOf i = some o → gate s.cur p = .go → o.slot ≠ 7 → p = Pfx.zero →
      1 ≤ s.cur.npdef.toNat → s.cur.npdef.toNat ≤ 8 →
      let trap := fun c : Nat => bundleTrap (s.env p [o]) [o]
        = some { cause := c, own := 0, tok := 0, isAsync := false, slots := 2 ^ o.slot, value := o.word }
      (o.zeroOk = false → trap 0x02)
      ∧ (∀ b, o.zeroOk = true → o.bad = some b → b ≠ 0x12 → trap b)
      ∧ (∀ b, o.zeroOk = true → o.bad = none → o.latBad = some b → b ≠ 0x12 → trap b)
      ∧ (o.zeroOk = true → o.bad = none → o.latBad = none → o.priv = true → s.cur.res = false → trap 0x1D)
      ∧ (o.zeroOk = true → o.bad = none → o.latBad = none → (o.priv = true → s.cur.res = true) →
          (∃ n ∈ o.vregs, s.cur.vSize ≤ n) → trap 0x03))
  ∧ (∀ (s : State) (p : Pfx), gate s.cur p = .go → s.cur.res = false → p = Pfx.zero →
      (∀ f, f.imm.toNat = 0x100 ∨ f.imm.toNat = 0x109 → sysRi f = true → s6Ok f.d = true → f.a = 0 → latReg f.lat 2 = none →
        Claims.trapAt s p (.mfsr p f) 0 0x1D (Claims.word (.mfsr p f)))
      ∧ (∀ f, f.imm.toNat = 0x109 ∨ f.imm.toNat = 0x10A → sysRi f = true → f.d = 0 → s6Ok f.a = true → f.lat = 0 →
        Claims.trapAt s p (.mtsr p f) 0 0x1D (Claims.word (.mtsr p f)))
      ∧ (∀ f, bareRrr f = true → f.lat = 0 → Claims.trapAt s p (.tret p f) 0 0x1D (Claims.word (.tret p f)))
      ∧ (∀ f, f = { Claims.bare with a := f.a, b := f.b } → s6Ok f.a = true → s6Ok f.b = true →
        Claims.trapAt s p (.kill p f) 0 0x1D (Claims.word (.kill p f)) ∧ Claims.trapAt s p (.tlbinv p f) 0 0x1D (Claims.word (.tlbinv p f)))
      ∧ (∀ f, f = { Claims.bare with a := f.a } → s6Ok f.a = true → Claims.trapAt s p (.icinv p f) 0 0x1D (Claims.word (.icinv p f))))

end

namespace Sys2Proof.Machine
open Sys2Proof

/-- ECALL and TRAP, with their causes (Table 8-9). -/
def Claims.code? : Instr → Option (Pfx × Ri × Nat)
  | .ecall p f => some (p, f, 0x1B)
  | .trap p f => some (p, f, 0x1C)
  | _ => none

end Sys2Proof.Machine

section
open Sys2Proof Sys2Proof.Machine

/-- ECALL and TRAP commit and then trap, with TRET at the next bundle; BKPT takes no effect and traps with TRET at itself; TVAL is
the code, TMASK bit 0 (R160). At TL = 2 they kill the context (R312). TRET resumes at TRET.IDX of the level left, with its
privilege, and lets the level's late writes land again, their counts from the first resumed bundle, two cycles on (R161, R314); those
of a consort's member that returns to level 0 wait until the consort resumes (R317).
UIRET resumes at UIPC outside the handler (R319). The next bundle must not be the one after the body of the level that becomes
active. -/
def Obligations.TrapsAndReturns : Prop :=
  (∀ (s : State) (p : Pfx), s.cur.late.length + (Claims.captured s).length ≤ 96 →
      (∀ i f cause, Claims.code? i = some (p, f, cause) → Issues s p (opsOf i) → Calm s →
        NextWith (exec i s) fun u =>
          (Claims.handler s →
            u.ctx s.fck = Claims.entered s.cur.stepped
              { cause := cause, own := 0, tok := 0, isAsync := false, slots := 1, value := f.imm.setWidth 64 } (s.cur.pc + 1)
              (s.atIssue.now s.fck + 1) (Claims.captured s)
            ∧ Claims.TrapFrame s u ((s.atIssue.core (ckCore s.fck)).stepped s.fck))
          ∧ (¬ Claims.handler s → Claims.Killed s.atIssue u s.fck cause))
      ∧ (∀ f, Reaches s p (opsOf (.bkpt p f)) → Claims.Legal s p (.bkpt p f) → s.atIssue.weak = [] → Claims.handler s →
        NextWith (exec (.bkpt p f) s) fun u =>
          u.ctx s.fck = Claims.entered s.cur
            { cause := 0x19, own := 0, tok := 0, isAsync := false, slots := 1, value := f.imm.setWidth 64 } s.cur.pc
            (s.atIssue.now s.fck) (Claims.captured s)
          ∧ Claims.TrapFrame s u (s.atIssue.core (ckCore s.fck))))
  ∧ (∀ (s : State) (p : Pfx) (f : Rrr), Calm s →
      (Issues s p (opsOf (.tret p f)) →
        let l := s.cur.tl
        let r := if l = 1 then s.cur.trap1.ret else s.cur.trap2.ret
        let joint : Bool := l == 1 && (s.atIssue.core (ckCore s.fck)).consort.isSome
        (∀ x, s.cur.loops.getLast? = some x → x.tag = (l - 1, s.cur.ui.inh, s.cur.wdepth) → r.toNat % 2 ^ 32 ≠ x.last + 1) →
        l ≠ 0 ∧ NextWith (exec (.tret p f) s) fun t =>
          DidBoth s t (fun c =>
            { c with
              tl := l - 1, res := r.getLsbD 32, pc := r.toNat % 2 ^ 32
              late := if joint then c.late else c.late.filter fun e => e.tag != l
              inflight := if joint then c.inflight else c.inflight ++ (c.late.filter fun e => e.tag == l).map fun e =>
                if e.w.acc = none then { e.w with t := s.atIssue.now s.fck + 1 }
                else { e.w with t := s.atIssue.now s.fck + 1, acc := some (s.atIssue.now s.fck + 1), bound := e.rem }
              resImg := if l = 1 then sput c.resImg 0 (sget 0 c.resImg 1) else c.resImg
              heldM := (t.ctx s.fck).heldM })
            (fun k => { k with cycle := k.cycle + 1 }))
      ∧ (Issues s p (opsOf (.uiret p f)) →
        (∀ x, s.cur.loops.getLast? = some x → x.tag = (0, false, s.cur.wdepth) → s.cur.ui.pc.toNat ≠ x.last + 1) →
        s.cur.ui.inh = true ∧ NextWith (exec (.uiret p f) s) fun t =>
          Did s t fun c => { c with ui := { c.ui with inh := false }, pc := c.ui.pc.toNat }))

end

namespace Sys2Proof.Machine
open Sys2Proof

/-! ## System operations (R162 to R168) -/

end Sys2Proof.Machine

section
open Sys2Proof Sys2Proof.Machine

/-- HALT: the context issues nothing more and the core is free for the next ready context (R162). YIELD makes the context ready and
hands the core on, and in a consort only commits (R163). KILL of an idle context, or of one whose HALT has committed, does nothing;
else the context leaves its core with what it had started, and its node is reported failed with FCAUSE S[B][7:0] (R164). TLBINV
starts the invalidation, and its token is pending until it completes (R165, R205). ICINV removes one block, or all, from the core's
instruction store (R166). -/
def Obligations.LeavingTheCore : Prop :=
  ((∀ (s : State) (p : Pfx) (f : Rrr), Calm s →
        (Issues s p (opsOf (.halt p f)) → s.cur.tl = 0 ∧ s.cur.mq = [] ∧ s.cur.lq = [] ∧ s.cur.tq = [] ∧ s.cur.cq = []
          ∧ NextWith (exec (.halt p f) s) fun t => DidBoth s t (fun c => { c with halted := true }) fun k =>
            { k with active := none, cycle := k.cycle + 1 })
        ∧ (Issues s p (opsOf (.yield p f)) → NextWith (exec (.yield p f) s) fun t =>
          ((s.atIssue.core (ckCore s.fck)).consort = none →
            DidBoth s t (fun c => { c with st := .ready }) fun k => { k with active := none, yielded := true })
          ∧ ((s.atIssue.core (ckCore s.fck)).consort ≠ none → Did s t id)))
    ∧ (∀ (s : State) (p : Pfx) (f : Rrr), Issues s p (opsOf (.kill p f)) → Calm s →
        let n := ckCore s.fck * 4 + (s.sr (s6 f.a)).toNat % 4
        NextWith (exec (.kill p f) s) fun t =>
          ((s.atIssue.ctx n).st = .idle ∨ (s.atIssue.ctx n).halted = true → Did s t id)
          ∧ ((s.atIssue.ctx n).st ≠ .idle → (s.atIssue.ctx n).halted = false →
              Claims.Killed s.atIssue t n ((s.sr (s6 f.b)).toNat % 256))))
  ∧ (∀ (s : State) (p : Pfx) (f : Rrr), Calm s →
      (Issues s p (opsOf (.tlbinv p f)) →
        exec (.tlbinv p f) s = .next (s.issued fun t =>
          (setPend t s.fck (f.x.toNat % 64)).modChip (ckPos s.fck) fun c =>
            { c with tlbinvs := c.tlbinvs ++
                [{ ck := s.fck, bundle := s.cur.bundleNo, tok := f.x.toNat % 64, scope := f.x.toNat / 64 % 4, part := (s.sr (s6 f.b)).toNat % 8
                   va := (s.sr (s6 f.a)).toNat, users := none }] }))
      ∧ (Issues s p (opsOf (.icinv p f)) → NextWith (exec (.icinv p f) s) fun t =>
        DidBoth s t id fun k =>
          { k with istore := if f.x.toNat = 1 then [] else k.istore.filter fun b => b.2 != (s.sr (s6 f.a)).toNat }))

end

namespace Sys2Proof.Machine
open Sys2Proof

/-- VGROW succeeds for one context whose allotment has `z` registers: those above it are all free (R168). -/
def Claims.growable (s : State) (ck z n : Nat) : Prop :=
  let b := (s.ctx ck).vBase + z
  n = 0 ∨ (b + n ≤ 640 ∧ ∀ y, y < 4 → y ≠ ckCtx ck →
    let o := s.ctx (ckCore ck * 4 + y)
    o.vSize = 0 ∨ o.vBase + o.vSize ≤ b ∨ b + n ≤ o.vBase)

/-- The members of the consort of the context in focus with the sizes of their allotments as of the bundle; outside a consort the
context alone. -/
def Claims.sizes (s : State) : List (Nat × Nat) :=
  match (s.atIssue.core (ckCore s.fck)).consort with
  | some co => if s.fck ∈ co.members then co.members.zip co.sizes else [(s.fck, s.cur.vSize)]
  | none => [(s.fck, s.cur.vSize)]

end Sys2Proof.Machine

section
open Sys2Proof Sys2Proof.Machine

/-- VSHRINK releases the top n registers and discards the writes in flight to them (R167). VGROW adds n registers that read zero and
writes 1, or changes nothing and writes 0 (R168); in a consort it succeeds only where it succeeds on every member, whose allotments
are judged as of the lead's bundle. -/
def Obligations.VectorAllotment : Prop :=
  ∀ (s : State) (p : Pfx) (f : Ri), Calm s →
    let n := f.imm.toNat
    let b := s.cur.vBase + s.cur.vSize
    (Issues s p (opsOf (.vshrink p f)) → NextWith (exec (.vshrink p f) s) fun t =>
      let kept := fun w : Write => ∀ r, w.dest = .v r → r < b - n ∨ b ≤ r
      n ≤ s.cur.vSize ∧ SameElse s.atIssue t s.fck ∧ t.core (ckCore s.fck) = (s.atIssue.core (ckCore s.fck)).stepped s.fck
      ∧ (∀ w, w ∈ (t.ctx s.fck).inflight ↔ w ∈ s.cur.inflight ∧ kept w)
      ∧ (∀ e, e ∈ (t.ctx s.fck).late ↔ e ∈ s.cur.late ∧ kept e.w)
      ∧ t.ctx s.fck = { s.cur.stepped with vSize := s.cur.vSize - n, inflight := (t.ctx s.fck).inflight
                                           late := (t.ctx s.fck).late })
    ∧ (Issues s p (opsOf (.vgrow p f)) → NextWith (exec (.vgrow p f) s) fun t =>
      let ok := ∀ m ∈ Claims.sizes s, Claims.growable s.atIssue m.1 m.2 n
      (¬ ok → Did s t (scalarWrite s (s6 f.d) 0 (latBound f.lat.toNat)))
      ∧ (ok → SameRest s.atIssue t s.fck
          ∧ t.core (ckCore s.fck) = (s.atIssue.core (ckCore s.fck)).stepped s.fck
          ∧ t.ctx s.fck = { scalarWrite s (s6 f.d) 1 (latBound f.lat.toNat) s.cur.stepped with vSize := s.cur.vSize + n }
          ∧ (∀ a, a < vregAddr (ckCore s.fck) b ∨ vregAddr (ckCore s.fck) (b + n) ≤ a → t.mem.read a = s.atIssue.mem.read a)
          ∧ (s.atIssue.memOk → ∀ a, vregAddr (ckCore s.fck) b ≤ a → a < vregAddr (ckCore s.fck) (b + n) → t.mem.read a = 0)))

end

namespace Sys2Proof.Machine
open Sys2Proof

/-! ## Bundles that write nothing (R76, R88, R107) -/

end Sys2Proof.Machine

section
open Sys2Proof Sys2Proof.Machine

/-- An empty bundle issues and changes nothing but the next bundle (R76). With FIO a bundle issues only in the first iteration of
loop level LV, with LIO only in the last; where it does not issue it takes its cycle and changes nothing else (R88, R118). A bundle
that waits for a condition of Table 6-2 changes nothing: its context is blocked, its core passes on, and the next context issues two
cycles on (R107, R108). A stall keeps the core for a cycle. The order of waits and checks and the dead cycle are read from the rules
(log entries 7, 124 and 125). -/
def Obligations.BundlesThatDoNothing : Prop :=
  ((∀ (s : State) (p : Pfx), Issues s p (opsOf (.emptyBundle p)) → Calm s →
        NextWith (exec (.emptyBundle p) s) fun t => Did s t id)
    ∧ (∀ (s : State) (i : Instr) (p : Pfx) (o : Parts) (l : Loop), partsOf i = some o → pfxOf? i = p → Reaches s p [o] →
        preemptPoint s.atIssue s.fck = false → s.cur.userReady = false → Calm s →
        s.cur.loops[p.lv.toNat]? = some l →
        (p.fio = 1 ∧ l.iter ≠ 0) ∨ (p.lio = 1 ∧ l.iter + 1 ≠ l.trip ∧ l.forced = false ∧ l.serve = false) →
        NextWith (exec i s) fun t => Did s t id))
  ∧ (∀ (s : State) (i : Instr) (p : Pfx) (o : Parts) (w : Wait), partsOf i = some o → pfxOf? i = p → (∀ e u, o.arrive e u = u) →
      s.cur.live = true → s.cur.stalled = false → ¬ (s.cur.stepDue.isSome = true ∧ s.cur.tl = 0) →
      bundleHeld (s.env p [o]) [o] = some w →
      NextWith (exec i s) fun t => SameElse s.atIssue t s.fck ∧
        (w ≠ .stall →
          t.ctx s.fck = { s.cur with st := .blocked, walkVa := (t.ctx s.fck).walkVa }
          ∧ t.core (ckCore s.fck)
            = { s.atIssue.core (ckCore s.fck) with
                active := none, lastActive := ckCtx s.fck
                cycle := s.atIssue.now s.fck + (if (s.atIssue.core (ckCore s.fck)).consort.isNone then 2 else 1) })
        ∧ (w = .stall → t.ctx s.fck = s.cur
          ∧ t.core (ckCore s.fck) = { s.atIssue.core (ckCore s.fck) with cycle := s.atIssue.now s.fck + 1 }))

end

namespace Sys2Proof.Machine
open Sys2Proof

/-! ## Vector operations (R122, R169 to R190) -/

/-- Element `e` of width `w` of a register (R129). -/
def Claims.el (w e v : Nat) : Nat := v / 2 ^ (w * e) % 2 ^ w

/-- The mask that governs an operation with MK = `k` (R122). -/
def Claims.mask (s : State) (k : Nat) : BitVec 128 := if k = 0 then Claims.topMask s else s.cur.m k

/-- Element `e` of width `w` is active: the mask bit of its lowest byte lane is 1 (R122, R170). -/
def Claims.act (w : Nat) (m : BitVec 128) (e : Nat) : Bool := m.getLsbD (e * w / 8)

/-- The flags of the active ones of elements `lo` to below `hi` (R122, R139). -/
def Claims.flags (lo hi : Nat) (act : Nat → Bool) (g : Nat → BitVec 7) : BitVec 7 :=
  ((List.range hi).filter fun e => decide (lo ≤ e) && act e).foldr (fun e a => a ||| g e) 0

/-- The bundle puts in flight the write of the active ones of elements `lo` to below `hi`, of width `w`, of vector register `d`, with the
codes that `el` gives, and the flags `fl`; the bytes of no other element are written, and nothing else changes. -/
def Claims.Elements (s t : State) (d w lo hi bound : Nat) (m : BitVec 128) (el : Nat → Nat) (fl : BitVec 7) : Prop :=
  ∃ (val : VReg) (lanes : BitVec 128), Did s t (vectorWrite s d lanes val bound fl)
    ∧ (∀ j, j < 128 → (lanes.getLsbD j = true ↔ lo * w / 8 ≤ j ∧ j < hi * w / 8 ∧ m.getLsbD (j - j % Nat.max 1 (w / 8)) = true))
    ∧ ∀ e, lo ≤ e → e < hi → Claims.act w m e = true → Claims.el w e val.toNat = el e

/-- A code of an integer format of width `w` as an integer. -/
def Claims.int (w : Nat) (sgn : Bool) (x : Nat) : Int := if sgn = true ∧ 2 ^ (w - 1) ≤ x then (x : Int) - (2 ^ w : Nat) else x

/-- INTC (Table 7-5): wraparound, or with SAT the nearest value of the format with flag SA where that changes it. -/
def Claims.narrow (w : Nat) (sgn sat : Bool) (r : Int) : Nat × BitVec 7 :=
  let lo : Int := if sgn then -((2 ^ (w - 1) : Nat) : Int) else 0
  let hi : Int := if sgn then ((2 ^ (w - 1) : Nat) : Int) - 1 else ((2 ^ w : Nat) : Int) - 1
  if sat = true ∧ r < lo then ((lo % (2 ^ w : Nat)).toNat, 0x20)
  else if sat = true ∧ hi < r then ((hi % (2 ^ w : Nat)).toNat, 0x20)
  else ((r % (2 ^ w : Nat)).toNat, 0)

/-- The element-wise RRR operations that have an integer form. -/
def Claims.vecInt? : Instr → Option (Pfx × Rrr)
  | .vadd p _ f | .vsub p _ f | .vmul p _ f | .vmulh p _ f | .vmad p _ f | .vmsb p _ f | .vmin p _ f | .vmax p _ f | .vabs p _ f
  | .vneg p _ f | .vavg p _ f | .vand p _ f | .vor p _ f | .vxor p _ f | .vandn p _ f | .vshl p _ f | .vshr p _ f | .vsra p _ f
  | .vpopc p _ f | .vclz p _ f => some (p, f)
  | _ => none

/-- Tables 9-2 and 9-3: the code of an active element, and its flags, from the codes of A, B and the old D. -/
def Claims.vecIntEl (i : Instr) (w : Nat) (sgn sat : Bool) (a b d : Nat) : Nat × BitVec 7 :=
  let x := Claims.int w sgn a
  let y := Claims.int w sgn b
  let z := Claims.int w sgn d
  match i with
  | .vadd _ _ _ => Claims.narrow w sgn sat (x + y)
  | .vsub _ _ _ => Claims.narrow w sgn sat (x - y)
  | .vmul _ _ _ => Claims.narrow w sgn sat (x * y)
  | .vmulh _ _ _ => Claims.narrow w sgn false (x * y / (2 ^ w : Nat))
  | .vmad _ _ _ => Claims.narrow w sgn sat (z + x * y)
  | .vmsb _ _ _ => Claims.narrow w sgn sat (z - x * y)
  | .vmin _ _ _ => Claims.narrow w sgn false (if x ≤ y then x else y)
  | .vmax _ _ _ => Claims.narrow w sgn false (if x ≤ y then y else x)
  | .vabs _ _ _ => Claims.narrow w sgn sat (if x < 0 then -x else x)
  | .vneg _ _ _ => Claims.narrow w sgn sat (-x)
  | .vavg _ _ _ => Claims.narrow w sgn false ((x + y + 1) / 2)
  | .vand _ _ _ => (a &&& b, 0)
  | .vor _ _ _ => (a ||| b, 0)
  | .vxor _ _ _ => (a ^^^ b, 0)
  | .vandn _ _ _ => (a &&& (2 ^ w - 1 - b), 0)
  | .vshl _ _ _ => (a * 2 ^ (b % w) % 2 ^ w, 0)
  | .vshr _ _ _ => (a / 2 ^ (b % w), 0)
  | .vsra _ _ _ => Claims.narrow w true false (Claims.int w true a / (2 ^ (b % w) : Nat))
  | .vpopc _ _ _ => (((List.range w).filter fun k => a.testBit k).length, 0)
  | .vclz _ _ _ => (if a = 0 then w else w - 1 - Nat.log2 a, 0)
  | _ => (0, 0)

end Sys2Proof.Machine

section
open Sys2Proof Sys2Proof.Machine

/-- Every element-wise RRR operation on an integer format writes, in each active element, the value of Table 9-2 or 9-3, with SA
where an active element saturates; inactive elements keep their values, and nothing else changes (R122, R170, R172, R174). -/
def Obligations.VectorIntegerOperations : Prop :=
  ∀ (s : State) (i : Instr) (p : Pfx) (f : Rrr), Claims.vecInt? i = some (p, f) → isFltGrp f.ef.toNat = false →
    Issues s p (opsOf i) → Calm s →
    NextWith (exec i s) fun t =>
      let w := (fmtD f.ef.toNat).bits
      let sgn := (fmtD f.ef.toNat).kind == .int true
      let m := Claims.mask s f.msk.toNat
      let r := fun e => Claims.vecIntEl i w sgn (f.sat == 1) (Claims.el w e (s.vr f.a.toNat)) (Claims.el w e (s.vr f.b.toNat))
        (Claims.el w e (s.vr f.d.toNat))
      Claims.Elements s t f.d.toNat w 0 (1024 / w) (latBound f.lat.toNat) m (fun e => (r e).1)
        (Claims.flags 0 (1024 / w) (Claims.act w m) fun e => (r e).2)

end

namespace Sys2Proof.Machine
open Sys2Proof

/-- The element-wise RRR operations that have a float form. -/
def Claims.vecFlt? : Instr → Option (Pfx × Rrr)
  | .vadd p _ f | .vsub p _ f | .vmul p _ f | .vmad p _ f | .vmsb p _ f | .vrcp p _ f | .vrsq p _ f | .vsqrt p _ f | .vmin p _ f
  | .vmax p _ f | .vabs p _ f | .vneg p _ f | .vavg p _ f => some (p, f)
  | .vdiv p f => some (p, f)
  | _ => none

/-- R173: the first NaN of the inputs decides; any other result is rounded once by ENC. `fn` gives the exact result of the inputs read
through FIN, with the flags of an invalid operation or of a division by zero. -/
def Claims.rounded (f : Rrr) (ins : List Nat) (fn : List Num → Num × BitVec 7) : Nat × BitVec 7 :=
  let t := fltD f.ef
  let rs := ins.map fun x => readF t (f.fi == 1) x
  let read := rs.foldl (fun g r => g ||| r.2) 0
  let (x, g) := match (rs.map Prod.fst).find? Num.isNaN with
    | some x => (x, 0)
    | none => fn (rs.map Prod.fst)
  let (c, h) := encF t f.rm.toNat (f.sat == 1) (f.fo == 1) x
  (c, read ||| g ||| h)

/-- A multiply-add whose product is 0 × ∞ is invalid although the addend is a NaN (R173). -/
def Claims.fused (f : Rrr) (sub : Bool) (a b d : Nat) : Nat × BitVec 7 :=
  let t := fltD f.ef
  let x := (readF t (f.fi == 1) a).1
  let y := (readF t (f.fi == 1) b).1
  let r := Claims.rounded f [a, b, d] fun l =>
    numFma f.rm.toNat sub (l.headD Num.zero) (l.getD 1 Num.zero) (l.getD 2 Num.zero)
  (r.1, r.2 ||| (if x.isNaN ∨ y.isNaN then 0 else (numMul x y).2))

/-- The float column of Table 9-2. -/
def Claims.vecFltEl (i : Instr) (f : Rrr) (a b d : Nat) : Nat × BitVec 7 :=
  let t := fltD f.ef
  let rm := f.rm.toNat
  let two := fun (g : Num → Num → Num × BitVec 7) (l : List Num) => g (l.headD Num.zero) (l.getD 1 Num.zero)
  match i with
  | .vadd _ _ _ => Claims.rounded f [a, b] (two fun x y => ieeeAdd rm x y)
  | .vsub _ _ _ => Claims.rounded f [a, b] (two fun x y => ieeeAdd rm x y.negate)
  | .vmul _ _ _ => Claims.rounded f [a, b] (two numMul)
  | .vmad _ _ _ => Claims.fused f false a b d
  | .vmsb _ _ _ => Claims.fused f true a b d
  | .vdiv _ _ => Claims.rounded f [a, b] (two numDiv)
  | .vrcp _ _ _ => Claims.rounded f [a] fun l => numDiv (.fin false 1 0) (l.headD Num.zero)
  | .vrsq _ _ _ => Claims.rounded f [a] fun l => numRsq (l.headD Num.zero)
  | .vsqrt _ _ _ => Claims.rounded f [a] fun l => numSqrt (l.headD Num.zero)
  | .vavg _ _ _ => Claims.rounded f [a, b] (two fun x y => ((ieeeAdd rm x y).1.scale (-1), (ieeeAdd rm x y).2))
  | .vmin _ _ _ => floatMinMax t false a b
  | .vmax _ _ _ => floatMinMax t true a b
  | .vabs _ _ _ => (a % 2 ^ (efBits f.ef - 1), 0)
  | .vneg _ _ _ => (if a < 2 ^ (efBits f.ef - 1) then a + 2 ^ (efBits f.ef - 1) else a - 2 ^ (efBits f.ef - 1), 0)
  | _ => (0, 0)

end Sys2Proof.Machine

section
open Sys2Proof Sys2Proof.Machine

/-- Every element-wise RRR operation on F16, BF16 or F32 writes, in each active element, the exact result of Table 9-2 rounded once,
or the special of R173; each active element sets its flags, and nothing else changes (R172, R173). -/
def Obligations.VectorFloatOperations : Prop :=
  ∀ (s : State) (i : Instr) (p : Pfx) (f : Rrr), Claims.vecFlt? i = some (p, f) → isFltGrp f.ef.toNat = true →
    Issues s p (opsOf i) → Calm s →
    NextWith (exec i s) fun t =>
      let w := (fmtD f.ef.toNat).bits
      let m := Claims.mask s f.msk.toNat
      let r := fun e => Claims.vecFltEl i f (Claims.el w e (s.vr f.a.toNat)) (Claims.el w e (s.vr f.b.toNat))
        (Claims.el w e (s.vr f.d.toNat))
      Claims.Elements s t f.d.toNat w 0 (1024 / w) (latBound f.lat.toNat) m (fun e => (r e).1)
        (Claims.flags 0 (1024 / w) (Claims.act w m) fun e => (r e).2)


/-- Rounding (Table 5-3): the number m / 2^k of a sign, to an integer. RM 0 takes the nearest, a tie the even one; 1 goes toward
zero; 2 toward −∞ and 3 toward +∞. Sums of finite numbers are exact (R128, R172): the sum's value, on any grid fine enough for both
terms, is the sum of their values, and so for products; only an exactly zero sum has a sign by rule. -/
def Obligations.ExactArithmeticAndRounding : Prop :=
  (∀ (neg : Bool) (m k : Nat),
      let r := fun rm => roundShift rm neg m k
      (2 * (r 0 * 2 ^ k) ≤ 2 * m + 2 ^ k ∧ 2 * m ≤ 2 * (r 0 * 2 ^ k) + 2 ^ k
        ∧ (0 < k → 2 * (r 0 * 2 ^ k) = 2 * m + 2 ^ k ∨ 2 * m = 2 * (r 0 * 2 ^ k) + 2 ^ k → r 0 % 2 = 0))
      ∧ (r 1 * 2 ^ k ≤ m ∧ m < (r 1 + 1) * 2 ^ k)
      ∧ (r 2 = if neg then (m + 2 ^ k - 1) / 2 ^ k else m / 2 ^ k)
      ∧ (r 3 = if neg then m / 2 ^ k else (m + 2 ^ k - 1) / 2 ^ k))
  ∧ (∀ (rm : Nat) (n1 n2 : Bool) (m1 m2 : Nat) (e1 e2 : Int),
      (∃ n m e, ieeeAdd rm (.fin n1 m1 e1) (.fin n2 m2 e2) = (.fin n m e, 0)
        ∧ ∀ g, g ≤ e1 → g ≤ e2 → signed n (alignTo m e g) = signed n1 (alignTo m1 e1 g) + signed n2 (alignTo m2 e2 g))
      ∧ (∃ n m e, numMul (.fin n1 m1 e1) (.fin n2 m2 e2) = (.fin n m e, 0) ∧ e = e1 + e2
        ∧ signed n m = signed n1 m1 * signed n2 m2))

end

namespace Sys2Proof.Machine
open Sys2Proof

/-- The compares. -/
def Claims.cmp? : Instr → Option (Pfx × Rrr)
  | .vceq p _ f | .vcne p _ f | .vclt p _ f | .vcle p _ f | .vcun p _ f => some (p, f)
  | _ => none

/-- R175: the outcome of a compare of two codes, and its flags; for floats −0 equals +0, a compare with a NaN is false but for VCNE and
VCUN, VCLT and VCLE set NV for any NaN, and the others for a signalling one. -/
def Claims.outcome (i : Instr) (f : Rrr) (a b : Nat) : Prop × BitVec 7 :=
  let t := fmtD f.ef.toNat
  if isFltGrp f.ef.toNat then
    let x := readF (fltD f.ef) false a
    let y := readF (fltD f.ef) false b
    let nan := x.1.isNaN = true ∨ y.1.isNaN = true
    let o := numCmp x.1 y.1
    let quiet := if x.1.isNaN || y.1.isNaN then x.2 ||| y.2 else 0
    let loud : BitVec 7 := if x.1.isNaN || y.1.isNaN then 0x01 else 0
    match i with
    | .vceq _ _ _ => (¬ nan ∧ o = .eq, quiet)
    | .vcne _ _ _ => (nan ∨ o ≠ .eq, quiet)
    | .vclt _ _ _ => (¬ nan ∧ o = .lt, loud)
    | .vcle _ _ _ => (¬ nan ∧ (o = .lt ∨ o = .eq), loud)
    | _ => (nan, quiet)
  else
    let x := Claims.int t.bits (t.kind == .int true) a
    let y := Claims.int t.bits (t.kind == .int true) b
    match i with
    | .vceq _ _ _ => (x = y, 0)
    | .vcne _ _ _ => (x ≠ y, 0)
    | .vclt _ _ _ => (x < y, 0)
    | .vcle _ _ _ => (x ≤ y, 0)
    | _ => (False, 0)

end Sys2Proof.Machine

section
open Sys2Proof Sys2Proof.Machine

/-- A compare writes its outcome to every byte-lane bit of each active element in mask register D[2:0], with the flags of the active
elements; the lanes of inactive elements keep their values, and nothing else changes (R175). -/
def Obligations.VectorCompares : Prop :=
  ∀ (s : State) (i : Instr) (p : Pfx) (f : Rrr), Claims.cmp? i = some (p, f) → Issues s p (opsOf i) → Calm s →
    NextWith (exec i s) fun t =>
      let w := (fmtD f.ef.toNat).bits
      let m := Claims.mask s f.msk.toNat
      let r := fun e => Claims.outcome i f (Claims.el w e (s.vr f.a.toNat)) (Claims.el w e (s.vr f.b.toNat))
      ∃ bits lanes : BitVec 128, f.d.toNat ≠ 0 ∧ f.d.toNat < 8
        ∧ Did s t (maskWrite s f.d.toNat lanes bits (latBound f.lat.toNat)
            (Claims.flags 0 (1024 / w) (Claims.act w m) fun e => (r e).2))
        ∧ (∀ j, j < 128 → (lanes.getLsbD j = true ↔ m.getLsbD (j - j % (w / 8)) = true))
        ∧ ∀ j, j < 128 → lanes.getLsbD j = true → (bits.getLsbD j = true ↔ (r (j / (w / 8))).1)


/-- The moves and the immediate forms: VSEL and VMOV move encodings; VSPLAT and VSPLATI spread a scalar and an immediate; the RI
forms act with IMM22 under the top of the mask stack; VEXT reads one element into a scalar register and VINS writes one (R176 to
R178). VINS writes all of D, and VEXT extends as log entries 28 and 29 read the rules. -/
def Obligations.VectorMovesAndImmediates : Prop :=
  ∀ (s : State) (p : Pfx) (u : VUnit), Calm s →
    (∀ f : Rrr, let w := (fmtD f.ef.toNat).bits
      let n := 1024 / w
      let m := Claims.mask s f.msk.toNat
      let a := fun e => Claims.el w e (s.vr f.a.toNat)
      let b := fun e => Claims.el w e (s.vr f.b.toNat)
      let k := (s.sr (s6 f.b)).toNat % n
      let bound := latBound f.lat.toNat
      (Issues s p (opsOf (.vmov p u f)) → NextWith (exec (.vmov p u f) s) fun t => Claims.Elements s t f.d.toNat w 0 n bound m a 0)
      ∧ (Issues s p (opsOf (.vsel p u f)) → NextWith (exec (.vsel p u f) s) fun t =>
          Claims.Elements s t f.d.toNat w 0 n bound m
            (fun e => if Claims.act w (Claims.mask s f.x.toNat) e then a e else b e) 0)
      ∧ (Issues s p (opsOf (.vsplat p u f)) → NextWith (exec (.vsplat p u f) s) fun t =>
          Claims.Elements s t f.d.toNat w 0 n bound m (fun _ => (s.sr (s6 f.a)).toNat % 2 ^ w) 0)
      ∧ (Issues s p (opsOf (.vext p u f)) → NextWith (exec (.vext p u f) s) fun t =>
          let sgn := (fmtD f.ef.toNat).kind == .int true && !(fmtD f.ef.toNat).block
          Did s t (scalarWrite s (s6 f.d) (BitVec.ofInt 64 (Claims.int w sgn (a k))) bound))
      ∧ (Issues s p (opsOf (.vins p u f)) → NextWith (exec (.vins p u f) s) fun t =>
          Claims.Elements s t f.d.toNat w 0 n bound (BitVec.allOnes 128)
            (fun e => if e = k then (s.sr (s6 f.a)).toNat % 2 ^ w else Claims.el w e (s.vr f.d.toNat)) 0))
    ∧ (∀ f : Ri, let w := (fmtD f.ef.toNat).bits
      let sgn := (fmtD f.ef.toNat).kind == .int true
      let n := 1024 / w
      let m := Claims.topMask s
      let a := fun e => Claims.el w e (s.vr f.a.toNat)
      let k := f.imm.toNat
      let add := fun e => Claims.narrow w sgn (f.sat == 1) (Claims.int w sgn (a e) + f.imm.toInt)
      let wrote := fun (i : Instr) (el : Nat → Nat) (fl : BitVec 7) => Issues s p (opsOf i) →
        NextWith (exec i s) fun t => Claims.Elements s t f.d.toNat w 0 n (latBound f.lat.toNat) m el fl
      wrote (.vaddi p u f) (fun e => (add e).1) (Claims.flags 0 n (Claims.act w m) fun e => (add e).2)
      ∧ wrote (.vshli p u f) (fun e => a e * 2 ^ k % 2 ^ w) 0
      ∧ wrote (.vshri p u f) (fun e => a e / 2 ^ k) 0
      ∧ wrote (.vsrai p u f) (fun e => (Claims.narrow w true false (Claims.int w true (a e) / (2 ^ k : Nat))).1) 0
      ∧ wrote (.vandi p u f) (fun e => a e &&& (f.imm.toInt % (2 ^ w : Nat)).toNat) 0
      ∧ wrote (.vsplati p u f) (fun _ => (f.imm.toInt % (2 ^ w : Nat)).toNat) 0)

end

namespace Sys2Proof.Machine
open Sys2Proof

/-- The terms of a reduction in index order: with ACC element 0 of D, then the active elements of A (R179). -/
def Claims.terms (s : State) (f : Rrr) : List Nat :=
  let w := (fmtD f.ef.toNat).bits
  let act := ((List.range (1024 / w)).filter (Claims.act w (Claims.mask s f.msk.toNat))).map fun e =>
    Claims.el w e (s.vr f.a.toNat)
  if f.x = 1 then Claims.el w 0 (s.vr f.d.toNat) :: act else act

/-- The reductions. -/
def Claims.red? : Instr → Option (Pfx × Rrr)
  | .vredadd p _ f | .vredmax p _ f | .vredmin p _ f | .vredand p _ f | .vredor p _ f => some (p, f)
  | _ => none

/-- Table 9-5 on integer formats: the exact sum narrowed, the largest and smallest term, AND and OR, and with no term the identity. -/
def Claims.redInt (i : Instr) (w : Nat) (sgn sat : Bool) (ts : List Nat) : Nat × BitVec 7 :=
  let xs := ts.map (Claims.int w sgn)
  let least : Int := if sgn then -((2 ^ (w - 1) : Nat) : Int) else 0
  let most : Int := if sgn then ((2 ^ (w - 1) : Nat) : Int) - 1 else ((2 ^ w : Nat) : Int) - 1
  match i with
  | .vredadd _ _ _ => Claims.narrow w sgn sat xs.sum
  | .vredmax _ _ _ => Claims.narrow w sgn false (xs.foldl max least)
  | .vredmin _ _ _ => Claims.narrow w sgn false (xs.foldl min most)
  | .vredand _ _ _ => (ts.foldl (· &&& ·) (2 ^ w - 1), 0)
  | _ => (ts.foldl (· ||| ·) 0, 0)

end Sys2Proof.Machine

section
open Sys2Proof Sys2Proof.Machine

/-- A reduction writes element 0 of D, whatever its mask bit, and nothing else (R179); on floats VREDADD rounds each partial sum in
index order and takes the specials of R140 and R141 (R144), and VREDMAX and VREDMIN follow R141. VDOT4 adds to each active element g
of D the four products of group g, rounded or narrowed once (R180). Zero sums and 4-bit formats follow log entries 29 and 30. -/
def Obligations.VectorReductions : Prop :=
  ∀ (s : State) (p : Pfx) (f : Rrr), Calm s →
    let t0 := fmtD f.ef.toNat
    let w := t0.bits
    let sgn := t0.kind == .int true
    (∀ i, Claims.red? i = some (p, f) → Issues s p (opsOf i) → NextWith (exec i s) fun t =>
      let ts := Claims.terms s f
      let r := if f.x = 1 ∧ ts.length = 1 then (ts.headD 0, 0)
        else if isFltGrp f.ef.toNat then
          match i with
          | .vredadd _ _ _ => redAddF (fltD f.ef) (modeOf f) ts
          | .vredmax _ _ _ => redMaxF (fltD f.ef) true ts
          | _ => redMaxF (fltD f.ef) false ts
        else Claims.redInt i w sgn (f.sat == 1) ts
      ∃ (val : VReg) (lanes : BitVec 128), Did s t (vectorWrite s f.d.toNat lanes val (latBound f.lat.toNat) r.2)
        ∧ (∀ j, j < 128 → (lanes.getLsbD j = true ↔ j < Nat.max 1 (w / 8)))
        ∧ Claims.el w 0 val.toNat = r.1 % 2 ^ w
        ∧ (w = 4 → Claims.el 4 1 val.toNat = Claims.el 4 1 (s.vr f.d.toNat)))
    ∧ (∀ u, Issues s p (opsOf (.vdot4 p u f)) → NextWith (exec (.vdot4 p u f) s) fun t =>
      let dw := if f.ef = 0x0B then 64 else 32
      let n := if w = 8 then 32 else 16
      let m := Claims.mask s f.msk.toNat
      let a := fun g j => Claims.el w (4 * g + j) (s.vr f.a.toNat)
      let b := fun g j => Claims.el w (4 * g + j) (s.vr f.b.toNat)
      let d := fun g => Claims.el dw g (s.vr f.d.toNat)
      let dot := fun g => ((List.range 4).map fun j => Claims.int w sgn (a g j) * Claims.int w sgn (b g j)).sum
      isFltGrp f.ef.toNat = false →
        let r := fun g => Claims.narrow dw true (f.sat == 1) (Claims.int dw true (d g) + dot g)
        Claims.Elements s t f.d.toNat dw 0 n (latBound f.lat.toNat) m (fun g => (r g).1)
          (Claims.flags 0 n (Claims.act dw m) fun g => (r g).2))
    ∧ (∀ u, Issues s p (opsOf (.vdot4 p u f)) → isFltGrp f.ef.toNat = true → NextWith (exec (.vdot4 p u f) s) fun t =>
      let m := Claims.mask s f.msk.toNat
      let x := fun (v : Nat) g j => readF (fltD f.ef) (f.fi == 1) (Claims.el 16 (4 * g + j) v)
      let pr := fun g j =>
        let q := numMul (x (s.vr f.a.toNat) g j).1 (x (s.vr f.b.toNat) g j).1
        (q.1, q.2 ||| (x (s.vr f.a.toNat) g j).2 ||| (x (s.vr f.b.toNat) g j).2)
      let d := fun g => readF f32 false (Claims.el 32 g (s.vr f.d.toNat))
      let r := fun g => dotF (modeOf f) (d g).1 [pr g 0, pr g 1, pr g 2, pr g 3]
      Claims.Elements s t f.d.toNat 32 0 16 (latBound f.lat.toNat) m (fun g => (r g).1)
        (Claims.flags 0 16 (Claims.act 32 m) fun g => (r g).2 ||| (d g).2))


/-- Lane movement (Table 9-8): each active element of D receives the element of A or B, or zero, that the table names, all read at
issue. -/
def Obligations.LaneMovement : Prop :=
  ∀ (s : State) (p : Pfx) (u : VUnit) (f : Rrr), Calm s →
    let w := (fmtD f.ef.toNat).bits
    let n := 1024 / w
    let a := fun e => Claims.el w e (s.vr f.a.toNat)
    let b := fun e => Claims.el w e (s.vr f.b.toNat)
    let k := (s.sr (s6 f.b)).toInt
    let x := f.x.toNat
    let moved := fun (i : Instr) (el : Nat → Nat) => Issues s p (opsOf i) → NextWith (exec i s) fun t =>
      Claims.Elements s t f.d.toNat w 0 n (latBound f.lat.toNat) (Claims.mask s f.msk.toNat) el 0
    moved (.vshuf p u f) (fun e => a (b e % n))
    ∧ moved (.vslide p u f) (fun e => if 0 ≤ (e : Int) + k ∧ (e : Int) + k < n then a ((e : Int) + k).toNat else 0)
    ∧ moved (.vrotl p u f) (fun e => a (((e : Int) - k) % n).toNat)
    ∧ moved (.vzip p u f) (fun e => if e % 2 = 0 then a (e / 2 + x * (n / 2)) else b (e / 2 + x * (n / 2)))
    ∧ moved (.vunzip p u f) (fun e => if e < n / 2 then a (2 * e + x) else b (2 * (e - n / 2) + x))


/-- The mask stack and the mask registers (R182 to R184): MPUSH pushes A within the top, or A alone with ABS; MINV inverts the top
within the entry below; MPOP removes it; at depth 16 a push traps with cause 0x0C, and at depth 0 MINV and MPOP with 0x0D, each in
slot VA. They take LAT 0 and write no register. MAND, MOR, MNOT and MCPY write all 128 lanes of mask D; MCNT counts lanes. -/
def Obligations.MaskOperations : Prop :=
  ∀ (s : State) (p : Pfx) (f : Rrr),
    (Claims.Legal s p (.mpush p f) → 16 ≤ s.cur.mstack.length →
        Claims.trapAt s p (.mpush p f) 1 0x0C (Claims.word (.mpush p f)))
    ∧ (Claims.Legal s p (.minv p f) → s.cur.mstack = [] → Claims.trapAt s p (.minv p f) 1 0x0D (Claims.word (.minv p f)))
    ∧ (Claims.Legal s p (.mpop p f) → s.cur.mstack = [] → Claims.trapAt s p (.mpop p f) 1 0x0D (Claims.word (.mpop p f)))
    ∧ (Calm s →
    let a := Claims.mask s f.a.toNat
    let b := Claims.mask s f.b.toNat
    let wrote := fun (i : Instr) (v : BitVec 128) => Issues s p (opsOf i) → 1 ≤ f.d.toNat ∧ f.d.toNat ≤ 7 ∧
      NextWith (exec i s) fun t => Did s t (maskWrite s f.d.toNat (BitVec.allOnes 128) v (latBound f.lat.toNat) 0)
    (Issues s p (opsOf (.mpush p f)) → f = { Claims.bare with a := f.a, x := f.x } ∧ f.a.toNat < 8 ∧ f.x.toNat < 2
      ∧ s.cur.mstack.length < 16 ∧ NextWith (exec (.mpush p f) s) fun t =>
        Did s t fun c => { c with mstack := (if f.x = 1 then a else Claims.topMask s &&& a) :: c.mstack })
    ∧ (Issues s p (opsOf (.minv p f)) → f = Claims.bare ∧ ∃ m r, s.cur.mstack = m :: r ∧ NextWith (exec (.minv p f) s) fun t =>
      Did s t fun c => { c with mstack := (match r with | [] => ~~~m | u :: _ => u &&& ~~~m) :: r })
    ∧ (Issues s p (opsOf (.mpop p f)) → f = Claims.bare ∧ ∃ m r, s.cur.mstack = m :: r ∧ NextWith (exec (.mpop p f) s) fun t =>
      Did s t fun c => { c with mstack := r })
    ∧ wrote (.mand p f) (a &&& b) ∧ wrote (.mor p f) (a ||| b) ∧ wrote (.mnot p f) (~~~a) ∧ wrote (.mcpy p f) a
    ∧ (Issues s p (opsOf (.mcnt p f)) → NextWith (exec (.mcnt p f) s) fun t =>
      let k := if f.ef = 0 then 1 else (fmtD f.ef.toNat).bits / 8
      Did s t (scalarWrite s (s6 f.d)
        (BitVec.ofNat 64 ((List.range 128).filter fun j => decide (j % k = 0) && a.getLsbD j).length) (latBound f.lat.toNat))))

end

namespace Sys2Proof.Machine
open Sys2Proof

/-- The write of lanes of vector register `n` by operation number `k` of those that the bundle puts in flight. -/
def Claims.writeNth (s : State) (k n : Nat) (lanes : BitVec 128) (v : VReg) (bound : Nat) (fl : BitVec 7) (c : Ctx) : Ctx :=
  if lanes = 0 then c
  else c.putWrite
    { id := s.atIssue.nextId + k, dest := .v (s.cur.vBase + n), val := v, lanes := lanes, groups := BitVec.allOnes 32, ready := true
      t := s.atIssue.now s.fck, acc := some (s.atIssue.now s.fck), bound := bound, lvl := s.cur.tl, hold := false, fl := fl }

/-- The write to scalar register `n` with flags that land with it; with s0 the flags alone are set (R139). -/
def Claims.scalarFlags (s : State) (n : Nat) (v : W64) (bound : Nat) (fl : BitVec 7) (c : Ctx) : Ctx :=
  if n = 0 then c.raiseFlags (s.atIssue.now s.fck) fl
  else c.putWrite
    { id := s.atIssue.nextId, dest := .s (s.cur.sphys n), val := v.setWidth 1024, lanes := laneS, groups := 3, ready := true
      t := s.atIssue.now s.fck, acc := some (s.atIssue.now s.fck), bound := bound, lvl := s.cur.tl, hold := false, fl := fl }

/-- VDSMUL with ACC on floats: a product of zero and ∞ is invalid although the addend is a NaN (R173). -/
def Claims.dsInvalid (f : Rrr) (v : Machine.Num) (b : Nat) : BitVec 7 :=
  let y := (readF (fltD f.ef) (f.fi == 1) b).1
  if y.isNaN then 0 else (numMul v y).2

end Sys2Proof.Machine

section
open Sys2Proof Sys2Proof.Machine

/-- Conversions (R185 to R190): VCVT element by element; VWIDEN of part P of A; VNARROW into part P of D, whose other elements keep
the values read at issue; VDSENC and VDSMUL; VQNT's scale form and quantising form, and VDQNT, on blocks of 128 elements. That
VNARROW writes all of D is a reading (log entry 28). -/
def Obligations.Conversions : Prop :=
  ∀ (s : State) (p : Pfx) (f : Rrr), Calm s →
    let t0 := fmtD f.ef.toNat
    let sf := fmtD (f.x.toNat % 32)
    let part := f.x.toNat / 32 % 4
    let half := f.x.toNat / 256
    let w := t0.bits
    let m := Claims.mask s f.msk.toNat
    let bound := latBound f.lat.toNat
    let conv := fun x => convEl t0 sf (modeOf f) x
    let a := fun e => Claims.el sf.bits e (s.vr f.a.toNat)
    let ns := 1024 / sf.bits
    let n := 1024 / w
    let grp := fun (r e : Nat) => Claims.el sf.bits (e % ns) (s.vr (r + e / ns))
    let c := (s.sr (s6 f.b)).toNat % 256
    let wrote := fun (i : Instr) (w lo hi : Nat) (el : Nat → Nat × BitVec 7) => Issues s p (opsOf i) → NextWith (exec i s) fun t =>
      Claims.Elements s t f.d.toNat w lo hi bound m (fun e => (el e).1 % 2 ^ w)
        (Claims.flags lo hi (Claims.act w m) fun e => (el e).2)
    wrote (.vcvt p f) w 0 n (fun e => conv (a e))
    ∧ wrote (.vwiden p f) w 0 n (fun e => conv (a (e + part * n)))
    ∧ (Issues s p (opsOf (.vnarrow p f)) → NextWith (exec (.vnarrow p f) s) fun t =>
      Claims.Elements s t f.d.toNat w 0 n bound (BitVec.allOnes 128)
        (fun e => if part * ns ≤ e ∧ e < part * ns + ns ∧ Claims.act w m e then (conv (a (e - part * ns))).1 % 2 ^ w
          else Claims.el w e (s.vr f.d.toNat))
        (Claims.flags (part * ns) (part * ns + ns) (Claims.act w m) fun e => (conv (a (e - part * ns))).2))
    ∧ (wrote (.vdsenc p f) 8 (part * ns) (part * ns + ns) fun e =>
        let x := readNum sf false (a (e - part * ns))
        ((encDs x.1).1, x.2 ||| (encDs x.1).2))
    ∧ (isFltGrp f.ef.toNat = false → wrote (.vdsmul p f) w 0 n fun e =>
        let u := dsValue (Claims.el 8 (e + part * n) (s.vr f.a.toNat)) * Claims.int w true (Claims.el w e (s.vr f.b.toNat))
        Claims.narrow w true (f.sat == 1)
          (u + if f.x.toNat / 128 % 2 = 1 then Claims.int w true (Claims.el w e (s.vr f.d.toNat)) else 0))
    ∧ (isFltGrp f.ef.toNat = true → wrote (.vdsmul p f) w 0 n fun e =>
        let v := Machine.Num.ofInt (dsValue (Claims.el 8 (e + part * n) (s.vr f.a.toNat)))
        let b := Claims.el w e (s.vr f.b.toNat)
        let d := Claims.el w e (s.vr f.d.toNat)
        if f.x.toNat / 128 % 2 = 1 then
          let r := Claims.rounded f [b, d] fun l => numFma f.rm.toNat false v (l.headD Machine.Num.zero) (l.getD 1 Machine.Num.zero)
          (r.1, r.2 ||| Claims.dsInvalid f v b)
        else Claims.rounded f [b] fun l => numMul v (l.headD Machine.Num.zero))
    ∧ (Issues s p (opsOf (.vqntScale p f)) → NextWith (exec (.vqntScale p f) s) fun t =>
      let xs := (List.range 128).map fun e => readNum sf (f.fi == 1) (grp f.a.toNat e)
      Did s t (Claims.scalarFlags s (s6 f.d) (BitVec.ofNat 64 (blockScale f.ef.toNat (xs.map Prod.fst))) bound
        (xs.foldl (fun g x => g ||| x.2) 0)))
    ∧ (Issues s p (opsOf (.vdqnt p f)) → NextWith (exec (.vdqnt p f) s) fun t =>
      let x := fun (j e : Nat) => readScaled sf false (a (j * n + e + 128 * half)) c
      let r := fun j e => encNum t0 f.rm.toNat (f.sat == 1) (f.fo == 1) false (x j e).1
      ∃ (val : Nat → VReg) (lanes : BitVec 128),
        Did s t (fun k => (List.range (128 / n)).foldl (fun k j => Claims.writeNth s j (f.d.toNat + j) lanes (val j) bound
          (Claims.flags 0 n (Claims.act w m) fun e => (x j e).2 ||| (r j e).2) k) k)
        ∧ (∀ j, j < 128 → (lanes.getLsbD j = true ↔ m.getLsbD (j - j % (w / 8)) = true))
        ∧ ∀ j e, j < 128 / n → e < n → Claims.act w m e = true → Claims.el w e (val j).toNat = (r j e).1 % 2 ^ w)
    ∧ (wrote (.vqnt p f) w (128 * half) (128 * half + 128) fun e => quantEl t0 sf (modeOf f) c (grp f.a.toNat (e - 128 * half)))

end

namespace Sys2Proof.Machine
open Sys2Proof

/-! ## The M slot (R234 to R255) -/

/-- Bits [hi:lo] of a descriptor. -/
def Claims.field (d : BitVec 256) (hi lo : Nat) : Nat := d.toNat / 2 ^ lo % 2 ^ (hi + 1 - lo)

/-- The M operations that write no register, with their opcodes. -/
def Claims.eng? : Instr → Option (Pfx × Eng × Nat)
  | .mma p f => some (p, f, 0x08)
  | .mmaz p f => some (p, f, 0x09)
  | .mmac p f => some (p, f, 0x0A)
  | .mmar p f => some (p, f, 0x0B)
  | .mfret p f => some (p, f, 0x10)
  | .mfretr p f => some (p, f, 0x11)
  | .mpark p f => some (p, f, 0x12)
  | .munpark p f => some (p, f, 0x13)
  | .mmerge p f => some (p, f, 0x14)
  | .mdrain p f => some (p, f, 0x15)
  | .mfclr p f => some (p, f, 0x16)
  | .mzero p f => some (p, f, 0x18)
  | .mwrv p f => some (p, f, 0x1A)
  | .mdrainp p f => some (p, f, 0x1B)
  | .msts p f => some (p, f, 0x1D)
  | _ => none

/-- What an M operation does to the context's fret state when it issues (R247 to R252): the depth and the pair of the counts, and the
parked banks. A resumed count adds only the steps that ROWPROG leaves. -/
def Claims.fret (i : Instr) (f : Eng) (c : Ctx) : Ctx :=
  let d := sget 0 c.descs f.md.toNat
  let fa := f.mf.toNat % 32
  let fb := if f.mf.toNat / 32 % 32 = 0 then fa else f.mf.toNat / 32 % 32
  let count := fun n : Nat =>
    if Claims.field d 209 208 = 1 ∨ Claims.field d 211 210 = 1 ∨ n = 0 then c
    else { c with fDepth := c.fDepth + n, fPair := pairOf fa fb }
  let n := f.ad.toNat % 4
  let b := sget Parked.reset c.parked n
  match i with
  | .mfret _ _ => count (Claims.field d 206 192)
  | .mfretr _ _ => count (Claims.field d 206 192 - c.rowprog.toNat % 2 ^ 15)
  | .mpark _ _ => { c with parked := sput c.parked n { parked := true, depth := c.fDepth, pair := c.fPair }, fDepth := 0, fPair := 0 }
  | .munpark _ _ => { c with parked := sput c.parked n Parked.reset, fDepth := b.depth, fPair := b.pair }
  | .mmerge _ _ =>
    { c with parked := sput c.parked n Parked.reset, fDepth := c.fDepth + b.depth, fPair := if c.fPair = 0 then b.pair else c.fPair }
  | .mfclr _ _ => { c with fDepth := 0, fPair := 0 }
  | .mdrain _ _ => if f.mf.toNat / 2 % 2 = 1 then c else { c with fDepth := 0, fPair := 0 }
  | _ => c

/-- A token that an operation names as produced is pending from its issue on (R261). -/
def Claims.pending (n : Nat) (c : Ctx) : Ctx :=
  if n = 0 then c else { c with toks := sput c.toks n { sget Token.reset c.toks n with pend := true } }

/-- The engine accepts an M operation at issue: it is not busy, and no operation of the context or of another one of the core is queued,
the queues being served oldest bundle first (R111, R112). -/
def Claims.accepts (s : State) : Prop :=
  s.focus.busy.m = false ∧ s.cur.mq = [] ∧ ∀ y, y < 4 → y ≠ ckCtx s.fck → (s.atIssue.ctx (ckCore s.fck * 4 + y)).mq = []

/-- The write of an operation's result, which comes after the bundle: it has no value yet, and its count starts where the unit accepts the
operation (R109, R111). -/
def Claims.laterWrite (s : State) (k : Nat) (d : Dest) (lanes : BitVec 128) (hold : Bool) (bound : Nat) : Write :=
  { id := s.atIssue.nextId + k, dest := d, val := 0, lanes := lanes, groups := d.groups, ready := false, t := s.atIssue.now s.fck
    acc := none, bound := bound, lvl := s.cur.tl, hold := hold, fl := 0 }

/-- The writes whose operation is accepted in the cycle of issue count their bounds from it, a captured one what is left of it
(R111, R313). -/
def Claims.acceptWrites (s : State) (ids : List Nat) (c : Ctx) : Ctx :=
  let now := s.atIssue.now s.fck
  { c with
    inflight := c.inflight.map fun w => if w.id ∈ ids ∧ w.acc = none then { w with acc := some now } else w
    late := c.late.map fun l =>
      if l.w.id ∈ ids ∧ l.w.acc = none then { l with w := { l.w with acc := some now }, rem := now + l.w.bound - l.cy } else l }

end Sys2Proof.Machine

section
open Sys2Proof Sys2Proof.Machine

/-- An M operation that issues is accepted by the engine, or enters the context's queue, with what it read; its token is pending and
the fret state moves on; nothing else changes, and its result comes with the engine's own steps (R111, R234, R240, R247, R261). MRDV
and MSTAT put the writes of their results in flight too, to two vector registers and to a scalar register; these land in place, and
no trap entry captures them (R254, R255, R313). -/
def Obligations.MatrixOperationsEnter : Prop :=
  (∀ (s : State) (i : Instr) (p : Pfx) (f : Eng) (op : Nat), Claims.eng? i = some (p, f, op) → Issues s p (opsOf i) → Calm s →
      NextWith (exec i s) fun t =>
        ∃ o : EngOp, o.id = s.atIssue.nextId ∧ o.op = op ∧ o.f = f ∧ o.ctx = ckCtx s.fck ∧ o.bundle = s.cur.bundleNo
          ∧ o.started = false ∧ o.part = s.cur.part ∧ o.prof = (if p.np = 0 then s.cur.npdef.toNat else p.np.toNat)
          ∧ o.bound = o.boundOf ∧ o.acc = (if unitRefuses s.atIssue s.fck 0 false = true then none else some (s.atIssue.now s.fck))
          ∧ (op ≠ 0x12 ∧ op ≠ 0x13 ∧ op ≠ 0x14 → o.tile = s.cur.tBase + f.ad.toNat)
          ∧ (op = 0x12 ∨ op = 0x13 ∨ op = 0x14 → o.tile = s.cur.tBase + 16 * (f.ad.toNat % 4))
          ∧ (op ≠ 0x1B → o.desc = sget 0 s.cur.descs f.md.toNat)
          ∧ (op = 0x1A ∨ op = 0x1B ∨ op = 0x1D → o.sp = s.sr f.sp.toNat)
          ∧ (op = 0x1A → o.vdat.map BitVec.toNat = [s.vr (f.mf.toNat % 1024), s.vr (f.mf.toNat % 1024 + 1)])
          ∧ (Claims.accepts s → DidBoth s t (fun c => Claims.fret i f (Claims.pending f.ko.toNat c))
              fun k => { k with engine := k.engine ++ [o] })
          ∧ (¬ Claims.accepts s → Did s t fun c =>
              { Claims.fret i f (Claims.pending f.ko.toNat { c with mq := c.mq ++ [o] }) with
                  peak := Nat.max s.cur.peak (t.ctx s.fck).slip }))
  ∧ (∀ (s : State) (p : Pfx) (f : Eng), Calm s →
      let id := s.atIssue.nextId
      let bound := latBound f.lat.toNat
      let enters := fun (i : Instr) (op : Nat) (ws : List Write) => Issues s p (opsOf i) → NextWith (exec i s) fun t =>
        ∃ o : EngOp, o.id = id ∧ o.op = op ∧ o.f = f ∧ o.ctx = ckCtx s.fck ∧ o.bundle = s.cur.bundleNo ∧ o.started = false
          ∧ o.bound = bound ∧ o.wids = ws.map (·.id) ∧ (op = 0x19 → o.sp = s.sr f.sp.toNat ∧ o.tile = s.cur.tBase + f.ad.toNat)
          ∧ (op = 0x1E → f.mf.toNat = 0 → o.tile = s.cur.tBase + f.ad.toNat)
          ∧ (op = 0x1E → f.mf.toNat = 1 →
              let b := sget Parked.reset s.cur.parked f.ad.toNat
              o.stat = BitVec.ofNat 64 (b.depth % 2 ^ 15 + b.pair % 4 * 2 ^ 16 + (if b.parked then 2 ^ 18 else 0)))
          ∧ (Claims.accepts s → DidBoth s t
              (fun c => Claims.acceptWrites s o.wids (Claims.pending f.ko.toNat (ws.foldl Ctx.putWrite c)))
              fun k => { k with engine := k.engine ++ [o] })
          ∧ (¬ Claims.accepts s → Did s t fun c =>
              { Claims.pending f.ko.toNat { ws.foldl Ctx.putWrite c with mq := c.mq ++ [o] } with
                  peak := Nat.max s.cur.peak (t.ctx s.fck).slip })
      enters (.mrdv p f) 0x19
        [Claims.laterWrite s 1 (.v (s.cur.vBase + f.mf.toNat % 1024)) (BitVec.allOnes 128) true bound,
          Claims.laterWrite s 2 (.v (s.cur.vBase + (f.mf.toNat % 1024 + 1))) (BitVec.allOnes 128) true bound]
      ∧ enters (.mstat p f) 0x1E
        (if f.sp = 0 then [] else [Claims.laterWrite s 1 (.s (s.cur.sphys f.sp.toNat)) laneS true bound]))

end

namespace Sys2Proof.Machine
open Sys2Proof

/-! ## The L and T slots (R208 to R216) -/

/-- The operations of the L and T slots, with the row of Tables 11-1 to 11-4 that describes each. -/
def Claims.mem? : Instr → Option (Pfx × MemF × MemDef)
  | .ld p f => some (p, f, ldDef)
  | .ldaq p f => some (p, f, ldaqDef)
  | .ldf p f => some (p, f, ldfDef)
  | .ldv p f => some (p, f, ldvDef)
  | .ldvs p f => some (p, f, ldvsDef)
  | .ldvx p f => some (p, f, ldvxDef)
  | .ldvb p f => some (p, f, ldvbDef)
  | .qpop p f => some (p, f, qpopDef)
  | .ldt p f => some (p, f, ldtDef)
  | .ldvt p f => some (p, f, ldvtDef)
  | .st p f => some (p, f, stDef)
  | .strl p f => some (p, f, strlDef)
  | .stf p f => some (p, f, stfDef)
  | .stv p f => some (p, f, stvDef)
  | .stvs p f => some (p, f, stvsDef)
  | .stvx p f => some (p, f, stvxDef)
  | .qpush p f => some (p, f, qpushDef)
  | .amoadd p f => some (p, f, amoaddDef)
  | .amomin p f => some (p, f, amominDef)
  | .amomax p f => some (p, f, amomaxDef)
  | .amominu p f => some (p, f, amominuDef)
  | .amomaxu p f => some (p, f, amomaxuDef)
  | .amoand p f => some (p, f, amoandDef)
  | .amoor p f => some (p, f, amoorDef)
  | .amoxor p f => some (p, f, amoxorDef)
  | .amoswap p f => some (p, f, amoswapDef)
  | .amocas p f => some (p, f, amocasDef)
  | .amofadd p f => some (p, f, amofaddDef)
  | _ => none

/-- The effective address of Table 11-1, modulo 2^64. -/
def Claims.address (s : State) (f : MemF) : W64 :=
  if f.am = 1 then s.sr f.base.toNat + s.sr (s6 f.x)
  else if f.am = 2 then s.sr f.base.toNat
  else s.sr f.base.toNat + f.imm.signExtend 64

/-- The write of scalar register `n` by operation number `k` of those that the bundle puts in flight. -/
def Claims.scalarNth (s : State) (k n : Nat) (v : W64) (bound : Nat) (c : Ctx) : Ctx :=
  if n = 0 then c
  else c.putWrite
    { id := s.atIssue.nextId + k, dest := .s (s.cur.sphys n), val := v.setWidth 1024, lanes := laneS, groups := 3, ready := true
      t := s.atIssue.now s.fck, acc := some (s.atIssue.now s.fck), bound := bound, lvl := s.cur.tl, hold := false, fl := 0 }

/-- What the issue of an L or T operation does to its context beside its access: the write of the destination of a load or an atomic
is in flight, that of a token-tracked load left to land in place (R313), the token of LDT and LDVT pending, and AM 2 puts the write
of BASE + IMM18 in flight. -/
def Claims.memIssued (s : State) (f : MemF) (d : MemDef) (c : Ctx) : Ctx :=
  let lat := latBound f.lat.toNat
  let c1 := if d.store then c
    else if d.vec then c.putWrite (Claims.laterWrite s 0 (.v (s.cur.vBase + f.d.toNat)) (BitVec.allOnes 128) (f.lat == 15) lat)
    else if s6 f.d = 0 then c
    else c.putWrite (Claims.laterWrite s 0 (.s (s.cur.sphys (s6 f.d))) laneS (f.lat == 15) lat)
  let c2 := Claims.pending (if d.xUse = .token then s6 f.x else 0) c1
  if f.am = 2 then
    Claims.scalarNth s 1 f.base.toNat (s.sr f.base.toNat + f.imm.signExtend 64) (if d.store then 1 else lat) c2
  else c2

end Sys2Proof.Machine

section
open Sys2Proof Sys2Proof.Machine

/-- An L or T operation that issues reads its operands and translates its addresses then, and puts the writes of its registers in
flight. Where its unit is busy, or older operations stand before it, it enters the slot queue; else it is accepted, from which its
bound counts, and waits to perform, but a local one performs at once as far as the orders of R268 to R272 let it (R111, R114, R208 to
R216). -/
def Obligations.MemoryOperationsIssue : Prop :=
  ∀ (s : State) (i : Instr) (p : Pfx) (f : MemF) (d : MemDef), Claims.mem? i = some (p, f, d) → Issues s p (opsOf i) → Calm s →
    let a := d.access f (s.env p (opsOf i)) s.atIssue.nextId
    let queued := unitRefuses s.atIssue s.fck d.unit a.isLocal
    let a1 := { a with acc := some (s.atIssue.now s.fck) }
    (d.xUse ≠ .queue ∧ f.am ≠ 3 → a.va = Claims.address s f)
    ∧ (d.store → ¬ d.vec → a.data.toNat = (s.sr (s6 f.d)).toNat)
    ∧ (d.store → d.vec → a.data.toNat = s.vr f.d.toNat)
    ∧ (d.amo.isSome → a.opnd = s.sr (s6 f.x))
    ∧ (d.amo = some 9 → a.expect = s.sr (s6 f.d))
    ∧ (f.am = 3 → a.pieces =
        [{ pa := winBase (ckCore s.fck) + 0x580000 + ckCtx s.fck * 0x10000 + s.cur.wdepth * 1024 + f.imm.toInt.toNat
           off := 0, len := wdBytes (d.wd f) }])
    ∧ NextWith (exec i s) fun t =>
      (queued = true → Did s t fun c =>
          let c1 := Claims.memIssued s f d c
          { (if d.unit = 1 then { c1 with lq := c1.lq ++ [a] } else { c1 with tq := c1.tq ++ [a] }) with
            peak := Nat.max s.cur.peak (t.ctx s.fck).slip })
      ∧ (queued = false → a.isLocal = false → Did s t fun c =>
          let c1 := Claims.acceptWrites s [a.id] (Claims.memIssued s f d c)
          { c1 with outst := c1.outst ++ [a1] })
      ∧ (queued = false → a.isLocal = true → ∃ n, t = s.issued fun u =>
          performAll ((u.withId n).modCtx s.fck fun c =>
            let c1 := Claims.acceptWrites s [a.id] (Claims.memIssued s f d c)
            { c1 with outst := c1.outst ++ [a1] }) s.fck a1)

end

namespace Sys2Proof.Machine
open Sys2Proof

/-- No store has performed at a scope before it is in memory (R268). -/
def Claims.noneSeen (s : State) : Prop := ∀ x ∈ s.ctxs, ∀ b ∈ x.2.unperformed, b.seen = 0

/-- The frame slot of LDF and STF (Table 11-1, R124). -/
def Claims.frameSlot (s : State) (f : MemF) : Nat :=
  winBase (ckCore s.fck) + 0x580000 + ckCtx s.fck * 0x10000 + s.cur.wdepth * 1024 + f.imm.toInt.toNat

end Sys2Proof.Machine

section
open Sys2Proof Sys2Proof.Machine

/-- STF and LDF with no earlier access to perform, of this context or of another of the core, and no store that another scope has seen
and memory has not (R268): STF stores the low bytes of S[D] into the frame slot of the context's depth, and
no other byte of memory changes; LDF has its value in flight, sign-extended for WD 0 to 3 and zero-extended for WD 4 to 6, and
memory does not change (R195, R209, R213). -/
def Obligations.FrameSlots : Prop :=
  ∀ (s : State) (p : Pfx) (f : MemF), Calm s → s.cur.outst = [] → s.cur.lq = [] → s.cur.tq = [] → s.focus.busy.l = false →
    s.focus.busy.t = false → unitOk s.focus.pos s.focus.core s.focus.ctx = true → s.cur.wdepth ≤ 63 →
    let n := wdBytes f.wd.toNat
    let a := Claims.frameSlot s f
    (∀ o ∈ (s.atIssue.core (ckCore s.fck)).objs, o.addr + o.kind.fieldBytes ≤ a ∨ a + n ≤ o.addr) →
    Claims.noneSeen s.atIssue → (∀ y, y < 4 → y ≠ ckCtx s.fck →
      (s.atIssue.ctx (ckCore s.fck * 4 + y)).lq = [] ∧ (s.atIssue.ctx (ckCore s.fck * 4 + y)).tq = []) →
    (Issues s p (opsOf (.stf p f)) → NextWith (exec (.stf p f) s) fun t =>
      (s.atIssue.memOk → ∀ j, j < n → t.mem.read (a + j) = ((s.sr (s6 f.d)) >>> (8 * j)).setWidth 8)
      ∧ (∀ b, b < a ∨ a + n ≤ b → t.mem.read b = s.atIssue.mem.read b)
      ∧ SameRest s.atIssue t s.fck ∧ t.core (ckCore s.fck) = (s.atIssue.core (ckCore s.fck)).stepped s.fck
      ∧ t.ctx s.fck = s.cur.stepped)
    ∧ (Issues s p (opsOf (.ldf p f)) → NextWith (exec (.ldf p f) s) fun t =>
      let m := s.atIssue.mem.readLE a n
      let v : W64 := if f.wd.toNat < 4 ∧ 2 ^ (8 * n - 1) ≤ m then BitVec.ofInt 64 ((m : Int) - (2 ^ (8 * n) : Nat))
        else BitVec.ofNat 64 m
      (∀ w ∈ s.cur.inflight, w.id ≠ s.atIssue.nextId) → (∀ e ∈ s.cur.late, e.w.id ≠ s.atIssue.nextId) →
        Did s t (scalarWrite s (s6 f.d) v (latBound f.lat.toNat)))

end

namespace Sys2Proof.Machine
open Sys2Proof

/-- A piece of an access that may perform: the access waits in its context, has met no abort, and no order of R210 and of R268 to R272
holds it. -/
def Claims.performs (s : State) (ck j : Nat) (a : Access) (q : Piece) : Prop :=
  (s.ctx ck).outst.find? (fun x => x.id == a.id) = some a ∧ a.aborted = 0 ∧ mayPerform s ck a = true
    ∧ a.sent.contains j = false ∧ a.done.contains j = false ∧ a.pieces[j]? = some q ∧ pieceWaits a j q = false
    ∧ Claims.noneSeen s

/-- The place is memory of the context's own chiplet: DRAM, or an on-chip memory that is no control window and holds no registered
object. -/
def Claims.plainPlace (s : State) (ck : Nat) (q : Piece) : Prop :=
  match placeOf s (ckPos ck) q.pa with
  | .dram p => p = ckPos ck
  | .window k off => corePos k = ckPos ck ∧ areaOf off ≠ .ctl ∧ (s.core (homeCore (realPa s (ckPos ck) q.pa))).objs = []
  | .held _ _ _ => False
  | .chipCtl _ _ => False
  | .host _ => False
  | .hole => False

/-- What an atomic leaves in its word (Table 11-4), of width `w`, from the old value, the operand and the expected value. -/
def Claims.atomic (op w m x e : Nat) : Nat :=
  let sg := Claims.int w true
  match op with
  | 0 => (m + x) % 2 ^ w
  | 1 => if sg m ≤ sg x then m else x
  | 2 => if sg x ≤ sg m then m else x
  | 3 => if m ≤ x then m else x
  | 4 => if x ≤ m then m else x
  | 5 => m &&& x
  | 6 => m ||| x
  | 7 => m ^^^ x
  | 8 => x
  | 9 => if m = e then x else m
  | _ => (FOp.add.el f32 { rm := 0, fi := false, fo := false, sat := false } m x 0).1

end Sys2Proof.Machine

section
open Sys2Proof Sys2Proof.Machine

/-- A piece that performs in memory without errors: a store writes its bytes of the register, an atomic the word of Table 11-4, and
a load nothing; no other byte of memory changes, and no other context or chiplet. What a load reads is that memory holds, and an
atomic the word before (R209, R210, R216). Node-privilege stores into a sealed image are not this case (R47). Queue operations
perform at the queue's two ends (R215): QPOP takes the oldest entry, QPUSH appends the low 64 bits of its register. -/
def Obligations.AccessesPerform : Prop :=
  (∀ (s : State) (ck j : Nat) (a : Access) (q : Piece), s.bad = [] → s.weak = [] → s.images = [] → s.memOk →
      Claims.performs s ck j a q → Claims.plainPlace s ck q → (s.ctx ck).halted = false → a.tok = 0 →
      let t := performAccess s ck a.id j
      let pa := realPa s (ckPos ck) q.pa
      let same := fun lo n => ∀ b, b < lo ∨ lo + n ≤ b → t.mem.read b = s.mem.read b
      (a.kind = .store → same pa q.len
        ∧ ∀ k, k < q.len → t.mem.read (pa + k) = (a.data >>> (8 * (q.off + k))).setWidth 8)
      ∧ (∀ op n, a.kind = .amo op n → op ≤ 10 → n = 4 ∨ n = 8 → (op = 10 → n = 4) → same pa n
        ∧ t.mem.readLE pa n = Claims.atomic op (8 * n) (s.mem.readLE pa n) (a.opnd.toNat % 2 ^ (8 * n)) (a.expect.toNat % 2 ^ (8 * n)))
      ∧ ((∃ sg n, a.kind = .load sg n) ∨ (∃ n, a.kind = .bcast n) ∨ a.kind = .loadV → t.mem = s.mem)
      ∧ (∀ sg n w, a.kind = .load sg n → a.pieces = [q] → a.done = [] → j = 0 → q.len = n → q.off = 0 →
          n = 1 ∨ n = 2 ∨ n = 4 ∨ n = 8 →
          a.dest.isSome = true → (s.ctx ck).inflight = [w] → w.id = a.id →
          ∃ u, (t.ctx ck).inflight = [u] ∧ u.id = w.id ∧ u.dest = w.dest ∧ u.ready = true
            ∧ (u.val.setWidth 64 : W64) = BitVec.ofInt 64 (Claims.int (8 * n) sg (s.mem.readLE pa n)))
      ∧ (∀ n, n ≠ ck → t.ctx n = s.ctx n) ∧ t.chips = s.chips)
  ∧ (∀ (s : State) (ck j n : Nat) (a : Access), (s.ctx ck).outst.find? (fun x => x.id == a.id) = some a → a.aborted = 0 →
      mayPerform s ck a = true → a.tok = 0 → a.kind = .qpop n ∨ a.kind = .qpush n →
      let t := performAccess s ck a.id j
      let k := ckCore ck
      (∀ w r, a.kind = .qpop n → sget [] (s.core k).queues n = w :: r →
        sget [] (t.core k).queues n = r
        ∧ (a.dest.isSome = true → ∀ x ∈ (t.ctx ck).inflight, x.id = a.id → x.val = w.setWidth 1024 ∧ x.ready = true))
      ∧ (a.kind = .qpop n → sget [] (s.core k).queues n = [] → t = s)
      ∧ (a.kind = .qpush n → (sget [] (s.core k).queues n).length < 16 →
          sget [] (t.core k).queues n = sget [] (s.core k).queues n ++ [a.data.setWidth 64])
      ∧ (a.kind = .qpush n → 16 ≤ (sget [] (s.core k).queues n).length → t = s)
      ∧ t.mem = s.mem ∧ ∀ m, m ≠ n → sget [] (t.core k).queues m = sget [] (s.core k).queues m)

end

namespace Sys2Proof.Machine
open Sys2Proof

/-! ## The C slot (R218 to R229) -/

end Sys2Proof.Machine

section
open Sys2Proof Sys2Proof.Machine

/-- The set-up operations write the fields of their descriptor that Table 12-4 names, and nothing else: MDSA and MDSB an address
from S[SP] and a stride from S[AD], MDSK the K count, MDSS the scale offsets and modes (R238). CDSET and CDFMT write the fields of
their shape register that Table 11-5 names (R218). Every later bundle reads them. -/
def Obligations.DescriptorsAndShapes : Prop :=
  (∀ (s : State) (p : Pfx) (f : Eng), Calm s →
      let n := f.md.toNat
      let d := sget 0 s.cur.descs n
      let x := s.sr f.sp.toNat
      let y := s.sr f.ad.toNat
      let wrote := fun (i : Instr) (parts : List (Nat × Nat × Nat)) => Issues s p (opsOf i) → NextWith (exec i s) fun t =>
        ∃ e : BitVec 256, Did s t (fun c => { c with descs := sput c.descs n e })
          ∧ (∀ q ∈ parts, Claims.field e q.1 q.2.1 = q.2.2)
          ∧ ∀ j, j < 256 → (∀ q ∈ parts, j < q.2.1 ∨ q.1 < j) → e.getLsbD j = d.getLsbD j
      wrote (.mdsa p f) [(47, 0, x.toNat), (159, 128, y.toNat)]
      ∧ wrote (.mdsb p f) [(111, 64, x.toNat), (191, 160, y.toNat)]
      ∧ wrote (.mdsk p f) [(206, 192, x.toNat)]
      ∧ wrote (.mdss p f) [(233, 212, x.toNat), (255, 234, y.toNat), (209, 208, f.mf.toNat % 4), (211, 210, f.mf.toNat / 4 % 4)])
  ∧ (∀ (s : State) (p : Pfx) (f : Cpy), Calm s →
      let h := sget Shape.reset s.cur.shapes f.cd.toNat
      let a := s.sr f.ss.toNat
      let b := s.sr f.sd.toNat
      let l := f.ch.toNat
      let h1 := { h with count := h.count.set l a.toNat, sstr := h.sstr.set l (b.extractLsb' 32 32).toInt,
                         dstr := h.dstr.set l (b.extractLsb' 0 32).toInt }
      (Issues s p (opsOf (.cdset p f)) → l < 6 ∧ a.toNat < 2 ^ 24 ∧ NextWith (exec (.cdset p f) s) fun t =>
        Did s t fun c => { c with shapes := sput c.shapes f.cd.toNat h1 })
      ∧ (Issues s p (opsOf (.cdfmt p f)) →
          a.toNat < 2 ^ 13 ∧ (a.toNat / 256 = 0 ∨ a.toNat / 256 = 13 ∨ a.toNat / 256 = 14 ∨ a.toNat / 256 = 15)
          ∧ b.toNat < 2 ^ 48 ∧ b.toNat % 4 = 0 ∧ NextWith (exec (.cdfmt p f) s) fun t =>
        Did s t fun c => { c with shapes := sput c.shapes f.cd.toNat { h with fmt := a, roa := b.toNat } }))

end

namespace Sys2Proof.Machine
open Sys2Proof

/-- The operations of the copy engine but the multicast, each with its kind. -/
def Claims.cpy? : Instr → Option (Pfx × Cpy × CopyKind)
  | .cpy p f => some (p, f, .cpy)
  | .cpyr p f => some (p, f, .cpyr)
  | .chain p f => some (p, f, .chain)
  | .cpyw p f => some (p, f, .cpyw)
  | .lxfer p f => some (p, f, .lxfer)
  | .lxred p f => some (p, f, .lxred)
  | .xamo p f => some (p, f, .xamo)
  | .cabort p f => some (p, f, .cabort)
  | _ => none

/-- The operation that a C slot starts: what it read at issue, and that it has not started (R220). -/
structure Claims.Copy (s : State) (p : Pfx) (f : Cpy) (k : CopyKind) (o : CopyOp) : Prop where
  id      : o.id = s.atIssue.nextId
  kind    : o.kind = k
  ctx     : o.ctx = ckCtx s.fck ∧ o.hart = none ∧ o.bundle = s.cur.bundleNo ∧ o.lvl = s.cur.tl
  channel : o.ch = f.ch.toNat
  addrs   : o.src = s.sr f.ss.toNat ∧ o.dst = s.sr f.sd.toNat
  toks    : o.ko = f.ko.toNat ∧ o.kis = [f.ki1.toNat, f.ki2.toNat, f.ki3.toNat]
  shape   : k = .cpy ∨ k = .cpym ∨ k = .cpyr ∨ k = .lxfer ∨ k = .lxred → o.shape = sget Shape.reset s.cur.shapes f.cd.toNat
  shapes  : k = .chain → o.shapes = s.cur.shapes ∧ o.nextRec = (s.sr f.ss.toNat).toNat
  rights  : o.part = s.cur.part ∧ o.res = s.cur.res ∧ o.scope = p.sc.toNat
  domain  : o.dom = if s.cur.compPhase then some s.cur.dom.toNat else none
  flags   : o.un = f.cf.getLsbD 5 ∧ (k = .cpyr → o.rg = f.cf.getLsbD 6) ∧ (k = .cpym → o.mc = f.cf.getLsbD 7)
              ∧ (k = .lxfer ∨ k = .lxred → o.wl = f.cf.getLsbD 4)
  atomic  : k = .xamo → o.aop = f.cf.toNat % 16 ∧ o.w32 = f.cd.getLsbD 0
  fresh   : o.started = false ∧ o.ended = false ∧ o.aborted = false ∧ o.stop? = none ∧ o.chunks = [] ∧ o.credits = []
              ∧ o.wrote = [] ∧ o.migs = [] ∧ o.sched = none

/-- The copy engine takes operation `o` (R221); CABORT stops its context's older operations of the channel (R227). -/
def Claims.engineTakes (o : CopyOp) (k : CoreSt) : CoreSt :=
  { k with copies := (if o.kind = .cabort then
      k.copies.map fun x => if x.ch = o.ch ∧ x.ctx = o.ctx ∧ x.hart = none then { x with aborted := true } else x
    else k.copies) ++ [o] }

/-- The C unit accepts an operation at issue: it is not busy, and no operation of the context or of another one of the core is queued
(R111, R112). -/
def Claims.acceptsCopy (s : State) : Prop :=
  s.focus.busy.c = false ∧ s.cur.cq = [] ∧ ∀ y, y < 4 → y ≠ ckCtx s.fck → (s.atIssue.ctx (ckCore s.fck * 4 + y)).cq = []

end Sys2Proof.Machine

section
open Sys2Proof Sys2Proof.Machine

/-- A C operation that issues is accepted by the copy engine, or enters the context's queue, with what it read, and its token is
pending; nothing else changes, and its bytes move with the engine's own steps (R111, R220, R222, R225 to R229, R261). CPYM issues in
the same way (R223): its targets are the cores of the chiplet that the high half of S[SD] names, and it holds every bank of each
that it writes, from its issue on; no other part of another core changes. -/
def Obligations.CopyOperationsIssue : Prop :=
  (∀ (s : State) (i : Instr) (p : Pfx) (f : Cpy) (k : CopyKind), Claims.cpy? i = some (p, f, k) → Issues s p (opsOf i) → Calm s →
      NextWith (exec i s) fun t => f.ch.toNat < 8 ∧ ∃ o : CopyOp, Claims.Copy s p f k o
        ∧ (Claims.acceptsCopy s → DidBoth s t (Claims.pending f.ko.toNat) (Claims.engineTakes o))
        ∧ (¬ Claims.acceptsCopy s → Did s t fun c =>
            { Claims.pending f.ko.toNat { c with cq := c.cq ++ [o] } with peak := Nat.max s.cur.peak (t.ctx s.fck).slip }))
  ∧ (∀ (s : State) (p : Pfx) (f : Cpy), Issues s p (opsOf (.cpym p f)) → Calm s →
      let named := fun n : Nat => n < 32 ∧ (s.sr f.sd.toNat).getLsbD (32 + n) = true
      let phys := fun n : Nat => coreKey (ckPos s.fck) ((s.atIssue.chip (ckPos s.fck)).lc n).pcore
      NextWith (exec (.cpym p f) s) fun t => f.ch.toNat < 8 ∧ ∃ o : CopyOp, Claims.Copy s p f .cpym o
        ∧ (∀ n, n ∈ o.targets ↔ ∃ l, named l ∧ n = phys l)
        ∧ (∀ n b m, (n, b, m) ∈ o.holds ↔ n ∈ o.targets ∧ b < 32 ∧ m ≠ 0 ∧ m = mcBytes o b)
        ∧ (∀ l, named l → ∀ b, b < 32 → mcBytes o b ≠ 0 →
            (sget Bank.reset (s.atIssue.core (phys l)).banks b).inuse = false)
        ∧ (∀ n b, sget Bank.reset (t.core n).banks b =
            let v := sget Bank.reset (s.atIssue.core n).banks b
            { v with hold := v.hold + (o.holds.filter fun h => h.1 == n && h.2.1 == b).length })
        ∧ (∀ n, n ≠ ckCore s.fck → t.core n = { s.atIssue.core n with banks := (t.core n).banks })
        ∧ t.mem = s.atIssue.mem ∧ t.chips = s.atIssue.chips ∧ t.posts = s.atIssue.posts ∧ t.objMsgs = s.atIssue.objMsgs
        ∧ (∀ n, n ≠ s.fck → t.ctx n = s.atIssue.ctx n)
        ∧ (Claims.acceptsCopy s → t.ctx s.fck = Claims.pending f.ko.toNat s.cur.stepped
            ∧ t.core (ckCore s.fck) = { Claims.engineTakes o ((s.atIssue.core (ckCore s.fck)).stepped s.fck) with
                banks := (t.core (ckCore s.fck)).banks })
        ∧ (¬ Claims.acceptsCopy s → t.ctx s.fck =
              { Claims.pending f.ko.toNat { s.cur.stepped with cq := s.cur.cq ++ [o] } with
                  peak := Nat.max s.cur.peak (t.ctx s.fck).slip }
            ∧ t.core (ckCore s.fck) = { (s.atIssue.core (ckCore s.fck)).stepped s.fck with
                banks := (t.core (ckCore s.fck)).banks }))

end

namespace Sys2Proof.Machine
open Sys2Proof

/-! ## The Y slot (R115, R125, R258 to R293) -/

/-- The tokens that a SYN operation names in K1 to K3. -/
def Claims.tokens (f : Syn) : List Nat := [f.k1.toNat, f.k2.toNat, f.k3.toNat]

/-- Each of the tokens named, token 0 apart, changes by `g` (R260). -/
def Claims.eachToken (ks : List Nat) (g : Token → Token) (c : Ctx) : Ctx :=
  { c with toks := ks.foldl (fun m n => if n = 0 then m else sput m n (g (sget Token.reset m n))) c.toks }

/-- No L or T access of an earlier bundle has still to perform. -/
def Claims.noneEarlier (s : State) : Prop := s.cur.outst = [] ∧ s.cur.lq = [] ∧ s.cur.tq = []

/-- The accesses of earlier bundles that have not performed at the scope of the bundle: a release waits for them (R270). -/
def Claims.earlier (s : State) (p : Pfx) : List Nat :=
  ((s.cur.outst ++ s.cur.lq ++ s.cur.tq).filter fun b => !performedAt s.atIssue s.fck b p.sc.toNat).map (·.id)

/-- A post of the bundle (R264). -/
def Claims.postOf (s : State) (p : Pfx) (ck n : Nat) : Post :=
  { ck := ck, tok := n, src := s.fck, after := Claims.earlier s p, scope := p.sc.toNat, bundle := s.cur.bundleNo }

/-- The marks that stores of the context bear are those of `t` (R268). -/
def Claims.marksOf (s t : State) (c : Ctx) : Ctx :=
  { c with outst := (t.ctx s.fck).outst, lq := (t.ctx s.fck).lq, tq := (t.ctx s.fck).tq }

end Sys2Proof.Machine

section
open Sys2Proof Sys2Proof.Machine

/-- TKWAIT issues when every token it names has fired, and consumes one firing of each unless KEEP is set (R263). TKCLR sets FIRE of
tokens that are not pending to 0 (R265). TKPOST fires a token of the context itself, or of the context that S[A] names, when the L
and T accesses of earlier bundles have performed at the bundle's scope (R264); a firing at FIRE 15 is lost and raises the asynchronous
cause 0x12 (R266).
When a post reaches its own context is a reading (log entry 38). -/
def Obligations.TokenOperations : Prop :=
  ∀ (s : State) (p : Pfx) (f : Syn), Calm s →
    let ks := Claims.tokens f
    let tok := fun n => sget Token.reset s.cur.toks n
    (Issues s p (opsOf (.tkwait p f)) → (∀ n ∈ ks, n ≠ 0 → 1 ≤ (tok n).fire) ∧ NextWith (exec (.tkwait p f) s) fun t =>
      (f.sf.getLsbD 0 = true → Did s t id)
      ∧ (f.sf.getLsbD 0 = false → Did s t (Claims.eachToken ks fun k => { k with fire := k.fire - 1 })))
    ∧ (Issues s p (opsOf (.tkclr p f)) → (∀ n ∈ ks, n ≠ 0 → (tok n).pend = false) ∧ NextWith (exec (.tkclr p f) s) fun t =>
      Did s t (Claims.eachToken ks fun k => { k with fire := 0 }))
    ∧ (f.sf.getLsbD 0 = false → Issues s p (opsOf (.tkpost p f)) → let n := f.k1.toNat
      n ≠ 0
      ∧ (Claims.earlier s p = [] → NextWith (exec (.tkpost p f) s) fun t =>
          (Claims.noneEarlier s → Claims.marksOf s t s.cur = s.cur)
          ∧ ((tok n).fire < 15 → Did s t fun c =>
              Claims.marksOf s t (Claims.eachToken [n] (fun k => { k with fire := k.fire + 1 }) c))
          ∧ (15 ≤ (tok n).fire → Did s t fun c =>
              { Claims.marksOf s t c with
                async := [{ cause := 0x12, own := 0, tok := n, slots := 0, value := BitVec.ofNat 64 n, rp := none, id := 0, bundle := none
                            cy := s.atIssue.now s.fck }] }))
      ∧ (Claims.earlier s p ≠ [] → exec (.tkpost p f) s = .next (s.issued fun u =>
          { u with posts := u.posts ++ [Claims.postOf s p s.fck n] })))
    ∧ (f.sf.getLsbD 0 = true → Issues s p (opsOf (.tkpost p f)) →
      let v := (s.sr (s6 f.a)).toNat
      let q := (s.atIssue.chip (ckPos s.fck)).posOf (v / 4 % 128 / 32)
      let e := (s.atIssue.chip q).lc (v / 4 % 32)
      v < 512 ∧ e.valid = true ∧ exec (.tkpost p f) s = .next (s.issued fun u =>
        { u with posts := u.posts ++ [Claims.postOf s p (ctxKey q e.pcore (v % 4)) f.k1.toNat] }))

end

namespace Sys2Proof.Machine
open Sys2Proof

/-- The immediate of the SYN immediate form. -/
def Claims.synImm (f : Syn) : Nat := ((f.k1.toNat * 64 + f.k2.toNat) * 64 + f.k3.toNat) * 8 + f.sf.toNat

end Sys2Proof.Machine

section
open Sys2Proof Sys2Proof.Machine

/-- SLACK sets the slip budget (R115), UIEN the user-interrupt enable (R293), FENCE starts to order accesses (R271); DRAIN, TWAIT
and the checks issue only where what they wait for or compare holds, and do nothing more than that DRAIN passes the stores that have
performed at its scope (R125, R271, R292, R293). CHKA alone in its
bundle names an empty slot, and traps; beside an L or T operation it passes where S[A] is that operation's address. CHKA follows log
entry 27. -/
def Obligations.WaitsAndChecks : Prop :=
  ∀ (s : State) (p : Pfx) (f : Syn), Calm s →
    let a := s.sr (s6 f.a)
    let b := s.sr (s6 f.b)
    let k := s.atIssue.core (ckCore s.fck)
    (Issues s p (opsOf (.slack p f)) → Claims.synImm f ≤ 16 ∧ NextWith (exec (.slack p f) s) fun t =>
      Did s t fun c => { c with budget := Claims.synImm f })
    ∧ (Issues s p (opsOf (.uien p f)) → NextWith (exec (.uien p f) s) fun t =>
      Did s t fun c => { c with ui := { c.ui with en := f.sf.getLsbD 0 } })
    ∧ (Issues s p (opsOf (.fence p f)) → f.sf.toNat ≤ 2 ∧ NextWith (exec (.fence p f) s) fun t =>
      Did s t fun c => { c with fences := c.fences ++ [{ bundle := s.cur.bundleNo, kind := f.sf.toNat, scope := p.sc.toNat }] })
    ∧ (Issues s p (opsOf (.drain p f)) →
      (∀ x ∈ s.cur.outst ++ s.cur.lq ++ s.cur.tq, performedAt s.atIssue s.fck x (Nat.max p.sc.toNat x.scope) = true)
      ∧ (f.sf.getLsbD 0 = true → s.cur.mq = [] ∧ s.cur.cq = [] ∧ (∀ o ∈ k.engine, o.ctx ≠ ckCtx s.fck)
          ∧ ∀ o ∈ k.copies, o.ctx = ckCtx s.fck → o.hart ≠ none)
      ∧ NextWith (exec (.drain p f) s) fun t =>
        Did s t (Claims.marksOf s t) ∧ (Claims.noneEarlier s → Claims.marksOf s t s.cur = s.cur))
    ∧ (Issues s p (opsOf (.twait p f)) → a.toNat ≤ (s.atIssue.chip (ckPos s.fck)).ct
      ∧ NextWith (exec (.twait p f) s) fun t => Did s t id)
    ∧ (Issues s p (opsOf (.chkeq p f)) → a = b ∧ NextWith (exec (.chkeq p f) s) fun t => Did s t id)
    ∧ (Issues s p (opsOf (.chkv p f)) → s.vr f.a.toNat = s.vr f.b.toNat ∧ NextWith (exec (.chkv p f) s) fun t => Did s t id)
    ∧ (∀ o : Parts, o.slot = (if f.sf.getLsbD 0 then 5 else 4) → Issues s p [o, chkaParts p f] →
      let e := s.env p [o, chkaParts p f]
      (if f.sf.getLsbD 0 then e.eaT else e.eaL) = some a
      ∧ issueState p [o, chkaParts p f] none s = commit e [o])
    ∧ (Claims.Legal s p (.chka p f) → Claims.trapAt s p (.chka p f) 7 0x01 (Claims.word (.chka p f)))
    ∧ (Claims.Legal s p (.chkeq p f) → a ≠ b → Claims.trapAt s p (.chkeq p f) 7 0x0E (Claims.word (.chkeq p f)))
    ∧ (Claims.Legal s p (.chkv p f) → s.vr f.a.toNat ≠ s.vr f.b.toNat →
      Claims.trapAt s p (.chkv p f) 7 0x0E (Claims.word (.chkv p f)))

end

namespace Sys2Proof.Machine
open Sys2Proof

/-- The three registers of VOTE (R292). -/
def Claims.voters (f : Syn) : Nat × Nat × Nat :=
  (f.a.toNat, Claims.synImm f / 2048, Claims.synImm f / 2 % 1024)

/-- A core whose unit `u` has one more wrong vote; at 8 its unit trips (R292, R332). -/
def Claims.suspected (u : Nat) (k : CoreSt) : CoreSt :=
  let n := Nat.min 255 (sget 0 k.suspect u + 1)
  { k with suspect := sput k.suspect u n, trip := if 8 ≤ n ∧ k.trip.testBit u = false then k.trip + 2 ^ u else k.trip }

end Sys2Proof.Machine

section
open Sys2Proof Sys2Proof.Machine

/-- VOTE (R292): three equal values change nothing; where the first differs from two equal ones its unit is scored and register A
takes their value within 2 cycles; where the second differs its unit is scored; any other case traps. -/
def Obligations.Votes : Prop :=
  ∀ (s : State) (p : Pfx) (f : Syn), Calm s →
    let (ra, rb, rc) := Claims.voters f
    let unit := if Claims.synImm f % 2 = 1 then 1 else 0
    let vals := fun (eq : Nat → Nat → Prop) (fix : Ctx → Ctx) =>
      (Issues s p (opsOf (.vote p f)) → NextWith (exec (.vote p f) s) fun t =>
        (eq ra rb → eq rb rc → Did s t id)
        ∧ (¬ eq ra rb → eq rb rc → DidBoth s t fix (Claims.suspected unit))
        ∧ (¬ eq rb rc → eq ra rc ∧ DidBoth s t id (Claims.suspected 2)))
      ∧ (Claims.Legal s p (.vote p f) → ¬ eq rb rc → ¬ eq ra rc →
        Claims.trapAt s p (.vote p f) 7 0x0E (Claims.word (.vote p f)))
    (Claims.synImm f % 2 = 0 → vals (fun m n => s.sr m = s.sr n) (scalarWrite s ra (s.sr rb) 2))
    ∧ (Claims.synImm f % 2 = 1 → vals (fun m n => s.vr m = s.vr n)
        (vectorWrite s ra (BitVec.allOnes 128) (BitVec.ofNat 1024 (s.vr rb)) 2 0))

end

namespace Sys2Proof.Machine
open Sys2Proof

/-- Bank `b` of the core is one of those that the mask in S[A] names (R286). -/
def Claims.named (s : State) (f : Syn) (b : Nat) : Prop :=
  s.cur.bBase ≤ b ∧ (s.sr (s6 f.a)).getLsbD (b - s.cur.bBase) = true

end Sys2Proof.Machine

section
open Sys2Proof Sys2Proof.Machine

/-- BREL ends the use of the banks named that the context owns, or with FREE gives them back, with what is still under way in them
as their tail and their objects registered no more (R276, R288). BACQ takes into use banks of its own that nothing holds and in
which nothing is under way (R287). No other bank changes. -/
def Obligations.BankHandOver : Prop :=
  ∀ (s : State) (p : Pfx) (f : Syn), Calm s →
    let k := ckCore s.fck
    let mine := fun b => (sget Bank.reset (s.atIssue.core k).banks b).owner = some (ckCtx s.fck)
    let old := fun b => sget Bank.reset (s.atIssue.core k).banks b
    let inMask := (s.sr (s6 f.a)).toNat < 2 ^ s.cur.bCount
    (f.sf.getLsbD 0 = false → Issues s p (opsOf (.brel p f)) → inMask ∧ NextWith (exec (.brel p f) s) fun t =>
      DidBoth s t id (fun c => { c with banks := (t.core k).banks })
      ∧ ∀ b, (Claims.named s f b ∧ mine b → sget Bank.reset (t.core k).banks b = { old b with inuse := false })
        ∧ (¬ (Claims.named s f b ∧ mine b) → sget Bank.reset (t.core k).banks b = old b))
    ∧ (f.sf.getLsbD 0 = true → Issues s p (opsOf (.brel p f)) → inMask ∧ NextWith (exec (.brel p f) s) fun t =>
      DidBoth s t id (fun c => { c with banks := (t.core k).banks, objs := (t.core k).objs })
      ∧ (∀ b, (Claims.named s f b ∧ mine b → sget Bank.reset (t.core k).banks b =
            { old b with owner := none, inuse := false, tail := (old b).tail ++ liveOps s.atIssue s.fck b })
          ∧ (¬ (Claims.named s f b ∧ mine b) → sget Bank.reset (t.core k).banks b = old b))
      ∧ ∀ o, o ∈ (t.core k).objs ↔ o ∈ (s.atIssue.core k).objs
          ∧ ¬ (homeCore o.addr = k ∧ Claims.named s f (bankOf o.addr) ∧ mine (bankOf o.addr)))
    ∧ (Issues s p (opsOf (.bacq p f)) → inMask
      ∧ (∀ b, Claims.named s f b → mine b ∧ (old b).hold = 0 ∧ tailLive s.atIssue k (old b) = false)
      ∧ NextWith (exec (.bacq p f) s) fun t =>
        DidBoth s t id (fun c => { c with banks := (t.core k).banks })
        ∧ ∀ b, (Claims.named s f b → sget Bank.reset (t.core k).banks b = { old b with inuse := true, tail := [] })
          ∧ (¬ Claims.named s f b → sget Bank.reset (t.core k).banks b = old b))

end

namespace Sys2Proof.Machine
open Sys2Proof

/-- The operation that a bundle sends to the home core of an object: 0 BARA, 1 BARX, 2 RREL, 3 REOS; a release but for BARX. -/
def Claims.objMsg (s : State) (p : Pfx) (f : Syn) (kind : ObjKind) (op pa arg cnt : Nat) (prod direct : Bool) : ObjMsg :=
  { id := s.atIssue.nextId, ck := s.fck, kind := kind, op := op, addr := pa, va := s.sr (s6 f.a), arg := arg, cnt := cnt
    prod := prod, direct := direct, after := if op = 1 then [] else Claims.earlier s p, node := s.cur.node.toNat
    scope := p.sc.toNat, bundle := s.cur.bundleNo }

/-- The operation is carried out at once where the object is homed in the issuing core, nothing earlier has to perform first, and the
object is not held; any other travels (R259). -/
def Claims.sent (m : ObjMsg) (u : State) : State :=
  let u1 := u.withId (u.nextId + 1)
  if homeCore m.addr = ckCore m.ck ∧ m.after = [] ∧ objWaits u m.addr = false then
    (performObj (if m.op = 1 then u1 else passStores u1 m.ck m.bundle m.scope) m).1
  else { u1 with objMsgs := u1.objMsgs ++ [m] }

/-- The home core has answered the request that the bundle made of it: a wait for a phase (4), or for a stage in a role (5). -/
def Claims.answered (s : State) (op a arg : Nat) (prod : Bool) : Prop :=
  ∃ r got, s.cur.objReq = some (r, some got) ∧ r.op = op ∧ r.addr = a ∧ r.arg = arg ∧ r.prod = prod

/-- The context's request is over. -/
def Claims.noReq (s u : State) : State := u.modCtx s.fck fun c => { c with objReq := none }

end Sys2Proof.Machine

section
open Sys2Proof Sys2Proof.Machine

/-- BARA, BARX, RREL and REOS send their operation to the object's home core (R259, R277, R282, R283). BARW, RACQ and PHASE issue
only when the phase has passed or the stage can be acquired: BARW registers its barrier, RACQ acquires its stage, and PHASE enters
its phase kind, after it has arrived where it names a barrier (R279, R281, R291); at another core the request that the bundle made
there has been answered (R259). When a wait registers is a reading (log entry 36). -/
def Obligations.ObjectOperationsIssue : Prop :=
  ∀ (s : State) (p : Pfx) (f : Syn), Calm s →
    let b := (s.sr (s6 f.b)).toNat
    let at_ := fun (i : Instr) (kind : ObjKind) (then_ : Nat → Prop) => Issues s p (opsOf i) →
      ∃ pa k off, objOf kind f (s.env p (opsOf i)) = .ok pa (.window k off) ∧ then_ (winBase k + off)
    let sends := fun (i : Instr) (kind : ObjKind) (op arg cnt : Nat) (prod direct : Bool) => at_ i kind fun a =>
      exec i s = .next (s.issued (Claims.sent (Claims.objMsg s p f kind op a arg cnt prod direct)))
    let passed := fun a => 1 ≤ ((barPhase s.atIssue a : Int) - b) % 65536 ∧ ((barPhase s.atIssue a : Int) - b) % 65536 ≤ 32767
    let prod := !f.sf.getLsbD 0
    let here := fun a => homeCore a = ckCore s.fck
    let phase := fun (u : State) => u.modCtx s.fck fun c => { c with compPhase := prod, arrived := false }
    sends (.bara p f) .barrier 0 0 0 false false
    ∧ sends (.barx p f) .barrier 1 0 b false false
    ∧ sends (.rrel p f) .ring 2 (b % 8) (b / 65536) prod (f.sf.getLsbD 1)
    ∧ sends (.reos p f) .ring 3 (b % 8) (b / 65536) true false
    ∧ (at_ (.barw p f) .barrier fun a =>
        (here a → passed a ∧ exec (.barw p f) s = .next (s.issued fun u => Claims.noReq s (register u .barrier a)))
        ∧ (¬ here a → Claims.answered s 4 a b false ∧ exec (.barw p f) s = .next (s.issued (Claims.noReq s))))
    ∧ (at_ (.racq p f) .ring fun a =>
        (here a → (ringState s.atIssue a ≠ 0 ∨ ringStage s.atIssue a (b % 8) = if prod then 0 else 3)
          ∧ exec (.racq p f) s = .next (s.issued fun u =>
              Claims.noReq s (acquireStage (touchObj (register u .ring a) a) a (b % 8) prod s.cur.node.toNat)))
        ∧ (¬ here a → Claims.answered s 5 a (b % 8) prod ∧ exec (.racq p f) s = .next (s.issued (Claims.noReq s))))
    ∧ (f.a = 0 → Issues s p (opsOf (.phase p f)) → NextWith (exec (.phase p f) s) fun t =>
        Did s t fun c => { c with compPhase := prod, arrived := false })
    ∧ (f.a ≠ 0 → at_ (.phase p f) .barrier fun a =>
        (here a → passed a ∧ s.cur.arrived = true
          ∧ exec (.phase p f) s = .next (s.issued fun u => phase (Claims.noReq s (register u .barrier a))))
        ∧ (¬ here a → Claims.answered s 4 a b false
          ∧ exec (.phase p f) s = .next (s.issued fun u => phase (Claims.noReq s u))))

end

namespace Sys2Proof.Machine
open Sys2Proof

/-- A registered object of a kind that takes operations: its fields are in range, memory around it holds no errors, and no update of an
earlier count waits for an evaluation (R276, R278). -/
structure Claims.Object (s : State) (kind : ObjKind) (a : Nat) (o : Obj) : Prop where
  here  : objAt (s.core (homeCore a)) a = some o
  at_   : o.addr = a
  same  : o.kind = kind
  fits  : o.broken = false ∧ o.frozen = false
  good  : fieldsBad s kind a = false
  clean : s.bad = [] ∧ s.weak = [] ∧ s.memOk
  now   : ∀ u, o.upd = some u → s.ctOf (corePos (homeCore a)) ≤ u

/-- Nothing but `n` bytes of memory at `a` changes. -/
def Claims.OnlyBytes (s t : State) (a n : Nat) : Prop :=
  (∀ x, x < a ∨ a + n ≤ x → t.mem.read x = s.mem.read x) ∧ t.ctxs = s.ctxs ∧ t.chips = s.chips

/-- The object at `a` has taken an update, which its next evaluation takes in with the CT of the update (R278). -/
def Claims.Updated (s t : State) (a n : Nat) : Prop :=
  Claims.OnlyBytes s t a n
  ∧ ∃ o, objAt (t.core (homeCore a)) a = some o ∧ o.upd = some (s.ctOf (corePos (homeCore a)))

/-- A barrier after an evaluation: the phase advances when both conditions hold, with the CT of the last update, and in no other case
(R278). -/
def Claims.Evaluated (s t : State) (a : Nat) (o : Obj) : Prop :=
  let go := barExpect s a ≤ barArrived s a ∧ barBytes s a = 0
  barExpect t a = barExpect s a ∧ barMask t a = barMask s a ∧ barBytes t a = barBytes s a
  ∧ (go → barPhase t a = (barPhase s a + 1) % 65536 ∧ barArrived t a = barArrived s a - barExpect s a
      ∧ objW t a 3 = (o.upd.getD (s.ctOf (corePos (homeCore a)))) % 2 ^ 64)
  ∧ (¬ go → barPhase t a = barPhase s a ∧ barArrived t a = barArrived s a ∧ objW t a 3 = objW s a 3)

end Sys2Proof.Machine

section
open Sys2Proof Sys2Proof.Machine

/-- Barriers at their home core (R277, R278): BARA adds one arrival, up to 65,535, and BARX adds to BYTES, signed 48 bits; the phase
advances with the evaluation after the updates of the cycle. Rings at their home core (R282, R283): a release of a stage that is not
held in its role is refused; a consumer's stage becomes free; a producer's DIRECT stage becomes full with FILL := n, and RCVD grows by
n, and any other lands; REOS sets its ENDED bit and adds to DECL. At the evaluation a landing stage that has its bytes becomes full,
and when every producer has ended the ring ends, or is overrun where more bytes came than were declared. Objects are evaluated at the
home core's turns (log entry 36). -/
def Obligations.ObjectsAtTheirHome : Prop :=
  (∀ (s : State) (m : ObjMsg) (o : Obj), m.kind = .barrier → Claims.Object s .barrier m.addr o →
      let a := m.addr
      let t := (performObj s m).1
      let rest := (performObj s m).2 = none ∧ Claims.Updated s t a 32 ∧ barPhase t a = barPhase s a ∧ barExpect t a = barExpect s a
        ∧ barMask t a = barMask s a ∧ objW t a 3 = objW s a 3
      (m.op = 0 → rest ∧ barArrived t a = Nat.min 65535 (barArrived s a + 1) ∧ barBytes t a = barBytes s a)
      ∧ (m.op = 1 → rest ∧ barArrived t a = barArrived s a
        ∧ toSigned 48 (barBytes t a) = toSigned 48 (ofSigned 48 (toSigned 48 (barBytes s a) + m.cnt)))
      ∧ Claims.OnlyBytes s (evalObj s o) a 32 ∧ Claims.Evaluated s (evalObj s o) a o)
  ∧ (∀ (s : State) (m : ObjMsg) (o : Obj), m.kind = .ring → Claims.Object s .ring m.addr o →
      let a := m.addr
      let i := m.arg
      let n := ringNprod s a
      let r := performObj s m
      let t := r.1
      let stages := fun v => ringStage t a i = v ∧ ∀ j, j < 8 → j ≠ i → ringStage t a j = ringStage s a j
      let done := r.2 = none ∧ Claims.Updated s t a 64 ∧ ringState t a = ringState s a
      i < 8 → m.cnt < 2 ^ 48 →
      (m.op = 2 → (ringNst s a ≤ i ∨ ringStage s a i ≠ (if m.prod then 1 else 4) ∨ m.prod ∧ ringSbytes s a < m.cnt) →
        r.2 = some 0x01 ∧ t.mem = s.mem)
      ∧ (m.op = 2 → m.prod = false → i < ringNst s a → ringStage s a i = 4 →
        done ∧ stages 0 ∧ ringRcvd t a = ringRcvd s a)
      ∧ (m.op = 2 → m.prod = true → m.direct = true → i < ringNst s a → ringStage s a i = 1 → m.cnt ≤ ringSbytes s a →
        done ∧ stages 3 ∧ ringFill t a i = m.cnt ∧ ringRcvd t a = (ringRcvd s a + m.cnt) % 2 ^ 48)
      ∧ (m.op = 2 → m.prod = true → m.direct = false → i < ringNst s a → ringStage s a i = 1 → m.cnt ≤ ringSbytes s a →
        done ∧ stages 2 ∧ ringFill t a i = ringFill s a i ∧ ringRcvd t a = ringRcvd s a
        ∧ ∃ x, objAt (t.core (homeCore a)) a = some x ∧ sget 0 x.landing i = m.cnt)
      ∧ (m.op = 3 → i < n → (ringEnded s a).testBit i = false →
        done ∧ ringEnded t a = ringEnded s a + 2 ^ i ∧ ringDecl t a = (ringDecl s a + m.cnt) % 2 ^ 48
        ∧ ringRcvd t a = ringRcvd s a ∧ ∀ j, j < 8 → ringStage t a j = ringStage s a j)
      ∧ (m.op = 3 → (n ≤ i ∨ (ringEnded s a).testBit i = true) → r.2 = some 0x01 ∧ t.mem = s.mem))
  ∧ (∀ (s : State) (a : Nat) (o : Obj), Claims.Object s .ring a o → (s.chip (corePos (homeCore a))).tbMode ≠ 1 →
      let t := evalObj s o
      let full := fun i => decide (ringStage s a i = 2 ∧ sget 0 o.landing i ≤ ringFill s a i)
      let rcvd := (ringRcvd s a + (((List.range 8).filter full).map (ringFill s a)).sum) % 2 ^ 48
      let isOver := ringState s a = 0 ∧ ringEnded s a % 2 ^ ringNprod s a = 2 ^ ringNprod s a - 1
      (∀ i, i < 8 → ringStage t a i = if full i then 3 else ringStage s a i)
      ∧ ringRcvd t a = rcvd ∧ ringDecl t a = ringDecl s a ∧ ringEnded t a = ringEnded s a
      ∧ (isOver → rcvd = ringDecl s a → ringState t a = 1)
      ∧ (isOver → ringDecl s a < rcvd → ringState t a = 3)
      ∧ (¬ isOver ∨ rcvd < ringDecl s a → ringState t a = ringState s a))


/-- TEVT (R293): where its partition is not recorded or replayed it changes nothing; where it is recorded and the log has room, the
next record of the log holds the code, the value and the CT, and no other byte of memory changes. A replay with no further record
compares nothing (log entry 57). -/
def Obligations.ProgramEvents : Prop :=
  ∀ (s : State) (p : Pfx) (f : Syn), Issues s p (opsOf (.tevt p f)) → Calm s →
    let c := s.atIssue.chip (ckPos s.fck)
    let a := Claims.logPlace s
    (s.sr (s6 f.a)).toNat < 65536
    ∧ (c.tbMode = 0 → NextWith (exec (.tevt p f) s) fun t => Did s t id)
    ∧ (c.tbMode = 1 → c.tbPart s.cur.part = true → c.tbPol = 0 → NextWith (exec (.tevt p f) s) fun t =>
      64 < c.tbFree ∧ t.ctx s.fck = s.cur.stepped
      ∧ (s.atIssue.memOk →
          t.mem.readLE a 8 = c.ct % 2 ^ 64
          ∧ t.mem.readLE (a + 8) 8 = c.tbSeq.toNat * 2 ^ 32 + 4 * 2 ^ 24 + ckPos s.fck % 4 * 2 ^ 14
              + logicalCore s.atIssue (ckCore s.fck) % 128 * 2 ^ 7 + ckCtx s.fck * 2 ^ 5
          ∧ t.mem.readLE (a + 16) 8 = (s.sr (s6 f.a)).toNat ∧ t.mem.readLE (a + 24) 8 = (s.sr (s6 f.b)).toNat)
      ∧ ∀ x, x < a ∨ a + 32 ≤ x → t.mem.read x = s.atIssue.mem.read x)

end

namespace Sys2Proof.Machine
open Sys2Proof

/-! ## Harts (R104, R230, R231) -/

/-- State `t` is `s` with the hart in focus changed by `f`. -/
structure Claims.HartDid (s t : State) (f : Hart → Hart) : Prop where
  loader : s.focus.storer = false → t.core s.fk = { s.core s.fk with loader := f (s.core s.fk).loader }
  storer : s.focus.storer = true → t.core s.fk = { s.core s.fk with storer := f (s.core s.fk).storer }
  cores  : ∀ n, n ≠ s.fk → t.core n = s.core n
  rest   : t.ctxs = s.ctxs ∧ t.chips = s.chips ∧ t.mem = s.mem ∧ t.bad = s.bad ∧ t.posts = s.posts ∧ t.objMsgs = s.objMsgs
             ∧ t.hostWrites = s.hostWrites

/-- The hart has written `v` to register `rd`, x0 apart, and goes on at `pc`. -/
def Claims.wrote (rd : RReg) (v pc : W32) (h : Hart) : Hart :=
  { h with regs := if rd = 0 then h.regs else sput h.regs rd.toNat v, pc := pc }

/-- The hart in focus has stopped, and the node that owns it has failed with FCAUSE (R230). -/
def Claims.HartFailed (s t : State) (cause : Nat) : Prop :=
  t.hart.running = false ∧ Claims.Killed s t (s.fk * 4 + ((s.core s.fk).owner).getD 0) cause

/-- A word from an integer. -/
def Claims.w32 (n : Int) : W32 := BitVec.ofInt 32 n

/-- The operations on two registers of RV32IM, Zba and Zbb. -/
def Claims.rvOp (o : RvOp) (a b : W32) : Int :=
  let x := a.toInt
  let y := b.toInt
  let m := a.toNat
  let n := b.toNat
  let k := n % 32
  let all := 2 ^ 32 - 1
  match o with
  | .add => x + y
  | .sub => x - y
  | .sll => m * 2 ^ k
  | .slt => if x < y then 1 else 0
  | .sltu => if m < n then 1 else 0
  | .xor => (m ^^^ n : Nat)
  | .srl => (m / 2 ^ k : Nat)
  | .sra => x / 2 ^ k
  | .or => (m ||| n : Nat)
  | .and => (m &&& n : Nat)
  | .mul => x * y
  | .mulh => x * y / 2 ^ 32
  | .mulhsu => x * n / 2 ^ 32
  | .mulhu => (m * n / 2 ^ 32 : Nat)
  | .div => if y = 0 then -1 else x.tdiv y
  | .divu => if n = 0 then -1 else (m / n : Nat)
  | .rem => if y = 0 then x else x.tmod y
  | .remu => if n = 0 then m else (m % n : Nat)
  | .sh1add => 2 * m + n
  | .sh2add => 4 * m + n
  | .sh3add => 8 * m + n
  | .andn => (m &&& (all - n) : Nat)
  | .orn => (m ||| (all - n) : Nat)
  | .xnor => (all - (m ^^^ n) : Nat)
  | .max => if x < y then y else x
  | .maxu => if m < n then n else m
  | .min => if x < y then x else y
  | .minu => if m < n then m else n
  | .rol => m * 2 ^ k + (m / 2 ^ (32 - k) : Nat)
  | .ror => (m / 2 ^ k : Nat) + m * 2 ^ (32 - k)

/-- The operations on a register and an immediate, a shift amount, or nothing. -/
def Claims.rvImm (o : RvImm) (a i : W32) : Int :=
  match o with
  | .addi => a.toInt + i.toInt
  | .slti => if a.toInt < i.toInt then 1 else 0
  | .sltiu => if a.toNat < i.toNat then 1 else 0
  | .xori => (a.toNat ^^^ i.toNat : Nat)
  | .ori => (a.toNat ||| i.toNat : Nat)
  | .andi => (a.toNat &&& i.toNat : Nat)
def Claims.rvShi (o : RvShi) (a : W32) (k : Nat) : Int :=
  match o with
  | .slli => a.toNat * 2 ^ k
  | .srli => (a.toNat / 2 ^ k : Nat)
  | .srai => a.toInt / 2 ^ k
  | .rori => (a.toNat / 2 ^ k : Nat) + a.toNat * 2 ^ (32 - k)
def Claims.rvUn (o : RvUn) (a : W32) : Int :=
  let b := fun i => a.toNat / 256 ^ i % 256
  let some_ := fun i => if b i = 0 then 0 else 255 * 256 ^ i
  match o with
  | .clz => (if a = 0 then 32 else 31 - Nat.log2 a.toNat : Nat)
  | .ctz => (((List.range 32).find? fun k => a.toNat.testBit k).getD 32 : Nat)
  | .cpop => (((List.range 32).filter fun k => a.toNat.testBit k).length : Nat)
  | .sextb => (a.setWidth 8).toInt
  | .sexth => (a.setWidth 16).toInt
  | .zexth => (a.toNat % 65536 : Nat)
  | .orcb => (some_ 0 + some_ 1 + some_ 2 + some_ 3 : Nat)
  | .rev8 => (b 0 * 256 ^ 3 + b 1 * 256 ^ 2 + b 2 * 256 + b 3 : Nat)

/-- The branch conditions. -/
def Claims.rvTaken (c : RvBr) (a b : W32) : Prop :=
  match c with
  | .beq => a = b
  | .bne => a ≠ b
  | .blt => a.toInt < b.toInt
  | .bge => b.toInt ≤ a.toInt
  | .bltu => a.toNat < b.toNat
  | .bgeu => b.toNat ≤ a.toNat

/-- An instruction of `len` bytes that touches neither memory nor a control and status register: its destination, the value, and the next
pc where the branch of the instruction, if it is one, is taken or not. -/
def Claims.rvValue (h : Hart) (len : Nat) (taken : Bool) : RvInst → Option (RReg × W32 × W32)
  | .lui rd i => some (rd, Claims.w32 (4096 * i.toInt), h.pc + Claims.w32 len)
  | .auipc rd i => some (rd, h.pc + Claims.w32 (4096 * i.toInt), h.pc + Claims.w32 len)
  | .jal rd i => some (rd, h.pc + Claims.w32 len, h.pc + Claims.w32 (2 * i.toInt))
  | .jalr rd a i => some (rd, h.pc + Claims.w32 len, Claims.w32 (((h.x a).toInt + i.toInt) / 2 * 2))
  | .branch _ _ _ i => some (0, 0, h.pc + if taken then Claims.w32 (2 * i.toInt) else Claims.w32 len)
  | .imm o rd a i => some (rd, Claims.w32 (Claims.rvImm o (h.x a) (Claims.w32 i.toInt)), h.pc + Claims.w32 len)
  | .shi o rd a n => some (rd, Claims.w32 (Claims.rvShi o (h.x a) n.toNat), h.pc + Claims.w32 len)
  | .un o rd a => some (rd, Claims.w32 (Claims.rvUn o (h.x a)), h.pc + Claims.w32 len)
  | .op o rd a b => some (rd, Claims.w32 (Claims.rvOp o (h.x a) (h.x b)), h.pc + Claims.w32 len)
  | .fence _ _ _ | .fencei _ _ _ => some (0, 0, h.pc + Claims.w32 len)
  | .load _ _ _ _ | .store _ _ _ _ | .csr _ _ _ _ | .ebreak => none

/-- The instruction that a form holds, with its length; none for an illegal compressed one. -/
def Claims.rvInst : RvForm → Option (RvInst × Nat)
  | .full r => some (r, 4)
  | .compressed c => (expandC c).map fun r => (r, 2)

/-- The instruction is a branch that its registers take. -/
def Claims.rvBranches (h : Hart) (r : RvInst) : Prop :=
  match r with
  | .branch c a b _ => Claims.rvTaken c (h.x a) (h.x b)
  | _ => False

end Sys2Proof.Machine

section
open Sys2Proof Sys2Proof.Machine

/-- An instruction of a hart that touches no memory writes its register with the value of RV32IMC, Zba and Zbb, goes on at the next
pc, and changes nothing else (R104, R230). What RISC-V instructions compute is presumed from the manuals that R104 names (log entry
17). -/
def Obligations.HartArithmeticAndControl : Prop :=
  ∀ (s : State) (f : RvForm) (r : RvInst) (len : Nat) (taken : Bool) (rd : RReg) (v pc : W32), s.hart.live = true →
    Claims.rvInst f = some (r, len) → (taken = true ↔ Claims.rvBranches s.hart r) →
    Claims.rvValue s.hart len taken r = some (rd, v, pc) →
    NextWith (exec (.hartInstruction f) s) fun t => Claims.HartDid s t (Claims.wrote rd v pc)

end

namespace Sys2Proof.Machine
open Sys2Proof

/-- The physical address of hart address `a` where the map of Table 11-11 lets a hart load and store `n` bytes there. -/
def Claims.hartPlace (s : State) (a n : Nat) : Option Nat :=
  if 0x10000 ≤ a ∧ a + n ≤ 0x12000 then
    some (winBase s.fk + (if s.focus.storer then 0x658000 else 0x648000) + (a - 0x10000))
  else if 0x400000 ≤ a ∧ a + n ≤ 0x800000 then some (winBase s.fk + (a - 0x400000))
  else none

end Sys2Proof.Machine

section
open Sys2Proof Sys2Proof.Machine

/-- Loads and stores of a hart, its reads of control and status registers, and the exceptions (R230): a misaligned access fails the
node with 0x08, one outside the map with 0x0A, an illegal instruction with 0x01, ebreak with 0x19. A CSR reads a free value (log
entry 18). -/
def Obligations.HartMemoryAndExceptions : Prop :=
  ∀ (s : State) (f : RvForm), s.hart.live = true → s.bad = [] → s.weak = [] → Claims.noneSeen s →
    let i := Instr.hartInstruction f
    let h := s.hart
    (∀ w rd a im len, Claims.rvInst f = some (.load w rd a im, len) →
      let n := rvLdBytes w
      let va := (h.x a + Claims.w32 im.toInt).toNat
      NextWith (exec i s) fun t =>
        (va % n ≠ 0 → Claims.HartFailed s t 0x08)
        ∧ (va % n = 0 → Claims.hartPlace s va n = none → Claims.HartFailed s t 0x0A)
        ∧ ∀ pa, va % n = 0 → Claims.hartPlace s va n = some pa →
          let m := s.mem.readLE pa n
          let sgn := w = .lb ∨ w = .lh
          Claims.HartDid s t (Claims.wrote rd
            (Claims.w32 (if sgn ∧ 2 ^ (8 * n - 1) ≤ m then (m : Int) - (2 ^ (8 * n) : Nat) else m)) (h.pc + Claims.w32 len)))
    ∧ (∀ w a b im len, Claims.rvInst f = some (.store w a b im, len) →
      let n := rvStBytes w
      let va := (h.x a + Claims.w32 im.toInt).toNat
      NextWith (exec i s) fun t =>
        (va % n ≠ 0 → Claims.HartFailed s t 0x08)
        ∧ (va % n = 0 → Claims.hartPlace s va n = none → Claims.HartFailed s t 0x0A)
        ∧ ∀ pa, va % n = 0 → Claims.hartPlace s va n = some pa → (s.core (homeCore pa)).objs = [] →
          t.hart = Claims.wrote 0 0 (h.pc + Claims.w32 len) h ∧ t.ctxs = s.ctxs ∧ t.chips = s.chips
          ∧ (s.memOk → ∀ j, j < n → t.mem.read (pa + j) = ((h.x b) >>> (8 * j)).setWidth 8)
          ∧ ∀ x, x < pa ∨ pa + n ≤ x → t.mem.read x = s.mem.read x)
    ∧ (∀ o rd src n len, Claims.rvInst f = some (.csr o rd src n, len) → NextWith (exec i s) fun t =>
        let writes := o = .rw ∨ o = .rwi ∨ src ≠ 0
        (writes ∧ n.toNat / 1024 = 3 → Claims.HartFailed s t 0x01)
        ∧ (¬ (writes ∧ n.toNat / 1024 = 3) → ∃ v, Claims.HartDid s t (Claims.wrote rd v (h.pc + Claims.w32 len))))
    ∧ (∀ len, Claims.rvInst f = some (.ebreak, len) → NextWith (exec i s) fun t => Claims.HartFailed s t 0x19)
    ∧ (Claims.rvInst f = none → NextWith (exec i s) fun t => Claims.HartFailed s t 0x01)
    ∧ (∀ c, NextWith (exec (.hartException c) s) fun t => Claims.HartFailed s t c)
    ∧ NextWith (exec .hartEcall s) fun t =>
        let a := (h.x 10).toNat
        (a = 0 → Claims.HartDid s t fun h => { h with running := false, finished := true })
        ∧ (a ≠ 0 → Claims.HartFailed s t (if a % 256 = 0 then 0x1C else a % 256))

end

namespace Sys2Proof.Machine
open Sys2Proof

/-- A shape block in a hart's data store (Table 11-13). -/
structure Claims.Block (s : State) (pa : Nat) (o : CopyOp) : Prop where
  addrs : o.src.toNat = s.mem.readLE pa 8 ∧ o.dst.toNat = s.mem.readLE (pa + 8) 8
  shape : o.shape.fmt.toNat = s.mem.readLE (pa + 16) 8 ∧ o.shape.roa = s.mem.readLE (pa + 24) 8
  level : ∀ l, l < 6 → o.shape.count[l]? = some (s.mem.readLE (pa + 64 + 16 * l) 4)
  kind  : o.kind = if s.mem.readLE (pa + 32) 8 % 2 = 1 then .cpyr else .cpy

end Sys2Proof.Machine

section
open Sys2Proof Sys2Proof.Machine

/-- The custom instructions (R231, R232): jq.push on queues 0 to 3 of a loader, jq.pop on queues 4 to 7 of a storer, jc.wm, jt.post
and jr.wait. A hart that may not use one, or names a number out of range, fails its node with 0x01; a full or an empty queue stalls
the hart, and changes nothing. jc.sub: a number above 7 fails the node with 0x01, a misaligned block with 0x08, one outside the data
store with 0x0A; while the channel cannot accept it changes nothing; status 1 where a field of the block is out of range, with
nothing submitted; status 2 where the first byte of an operand does not translate; and where both do, the copy is accepted with
status 0. The statuses that R231 does not spell out are read as log entry 47 says. -/
def Obligations.HartCustomInstructions : Prop :=
  (∀ (s : State), s.hart.live = true → s.bad = [] → s.weak = [] →
      let h := s.hart
      let next := h.pc + 4#32
      let q := fun n : Nat => sget [] (s.core s.fk).queues n
      (∀ n b a, NextWith (exec (.jqPush n b a) s) fun t =>
        (s.focus.storer = true ∨ 4 ≤ n.toNat → Claims.HartFailed s t 0x01)
        ∧ (s.focus.storer = false → n.toNat < 4 → 16 ≤ (q n.toNat).length → t = s)
        ∧ (s.focus.storer = false → n.toNat < 4 → (q n.toNat).length < 16 →
            t.core s.fk = { s.core s.fk with
              queues := sput (s.core s.fk).queues n.toNat (q n.toNat ++ [h.x b ++ h.x a]), loader := Claims.wrote 0 0 next h }
            ∧ t.mem = s.mem ∧ t.ctxs = s.ctxs))
      ∧ (∀ n a d, NextWith (exec (.jqPop n a d) s) fun t =>
        let v := (h.x a).toNat
        let pa := winBase s.fk + 0x658000 + (v - 0x10000)
        let ok := s.focus.storer = true ∧ 4 ≤ n.toNat ∧ n.toNat < 8
        (¬ ok → Claims.HartFailed s t 0x01)
        ∧ (ok → v % 8 ≠ 0 → Claims.HartFailed s t 0x08)
        ∧ (ok → v % 8 = 0 → v < 0x10000 ∨ 0x12000 < v + 8 → Claims.HartFailed s t 0x0A)
        ∧ (ok → v % 8 = 0 → 0x10000 ≤ v → v + 8 ≤ 0x12000 → q n.toNat = [] → t = s)
        ∧ ∀ w r, ok → v % 8 = 0 → 0x10000 ≤ v → v + 8 ≤ 0x12000 → q n.toNat = w :: r → (s.core (homeCore pa)).objs = [] →
            sget [] (t.core s.fk).queues n.toNat = r ∧ t.hart = Claims.wrote d (w.setWidth 32) next h
            ∧ (s.memOk → t.mem.readLE pa 8 = w.toNat) ∧ ∀ x, x < pa ∨ pa + 8 ≤ x → t.mem.read x = s.mem.read x)
      ∧ (∀ n d, NextWith (exec (.jcWm n d) s) fun t =>
        (8 ≤ n.toNat → Claims.HartFailed s t 0x01)
        ∧ (n.toNat < 8 → Claims.HartDid s t (Claims.wrote d ((sget 0 (s.core s.fk).chwm n.toNat).setWidth 32) next)))
      ∧ (∀ n a, NextWith (exec (.jtPost n a) s) fun t =>
        (n.toNat = 0 ∨ 64 ≤ n.toNat → Claims.HartFailed s t 0x01)
        ∧ (0 < n.toNat → n.toNat < 64 → t.hart = Claims.wrote 0 0 next h ∧ t.mem = s.mem ∧ t.ctxs = s.ctxs
            ∧ ∃ src, t.posts = s.posts ++
                [{ ck := s.fk * 4 + (h.x a).toNat % 4, tok := n.toNat, src := src, after := [], scope := 2, bundle := 0 }]))
      ∧ (∀ b a d, NextWith (exec (.jrWait b a d) s) fun t =>
        let v := (h.x a).toNat
        let st := (h.x b).toNat
        let pa := winBase s.fk + (v - 0x400000)
        let status := fun k : W32 => t.hart = Claims.wrote d k next h
        (v % 64 ≠ 0 → Claims.HartFailed s t 0x08)
        ∧ (v % 64 = 0 → v < 0x400000 ∨ 0x800000 ≤ v → Claims.HartFailed s t 0x0A)
        ∧ (v % 64 = 0 → 0x400000 ≤ v → v < 0x800000 →
            let refused := objRefused s .ring pa
            let here := ∃ o, objAt (s.core (homeCore pa)) pa = some o ∧ o.frozen = false
              ∧ ∀ u, o.upd = some u → s.ctOf (corePos (homeCore pa)) ≤ u
            (refused ≠ none → refused ≠ some 0x0F → status 3)
            ∧ (refused = none → here → ringNst s pa ≤ st → status 3)
            ∧ (refused = none → here → st < ringNst s pa → ringState s pa = 2 → status 1)
            ∧ (refused = none → here → st < ringNst s pa → ringState s pa = 1 ∨ ringState s pa = 3 → status 2)
            ∧ (refused = none → here → st < ringNst s pa → ringState s pa = 0 →
                ringStage s pa st = (if s.focus.storer then 3 else 0) → status 0
                ∧ (s.memOk → ringStage t pa st = if s.focus.storer then 4 else 1))
            ∧ (refused = none → here → st < ringNst s pa → ringState s pa = 0 →
                ringStage s pa st ≠ (if s.focus.storer then 3 else 0) → t = s))))
  ∧ (∀ (s : State) (n : BitVec 7) (a d : RReg), s.hart.live = true → s.hart.mig = none → s.bad = [] → s.weak = [] →
      let h := s.hart
      let v := (h.x a).toNat
      let pa := winBase s.fk + (if s.focus.storer then 0x658000 else 0x648000) + (v - 0x10000)
      let inside := n.toNat < 8 ∧ v % 8 = 0 ∧ 0x10000 ≤ v ∧ v + 160 ≤ 0x12000
      NextWith (exec (.jcSub n a d) s) fun t =>
        (8 ≤ n.toNat → Claims.HartFailed s t 0x01)
        ∧ (n.toNat < 8 → v % 8 ≠ 0 → Claims.HartFailed s t 0x08)
        ∧ (n.toNat < 8 → v % 8 = 0 → v < 0x10000 ∨ 0x12000 < v + 160 → Claims.HartFailed s t 0x0A)
        ∧ (inside → s.focus.busy.c = true → t = s)
        ∧ (inside → s.focus.busy.c = false → blockBad s pa = true → Claims.HartDid s t (Claims.wrote d 1 (h.pc + 4#32)))
        ∧ (inside → s.focus.busy.c = false → blockBad s pa = false →
            let o := blockCopy s pa n.toNat
            let src := copyAddr s s.fk (o.acc s.fk pteER false false) s.focus.arg.flag s.focus.arg.n 1 o.src
            let dst := copyAddr s s.fk (o.acc s.fk pteEW true false) s.focus.arg.flag s.focus.arg.n 1 o.dst
            (∀ c r, src = (.fault c, s) → dst = (r, s) → t.hart = { Claims.wrote d 2 (h.pc + 4#32) h with mig := none }
              ∧ (t.core s.fk).copies = (s.core s.fk).copies)
            ∧ ∀ x y x2 y2, src = (.ok x y, s) → dst = (.ok x2 y2, s) →
            t.hart = { Claims.wrote d 0 (h.pc + 4#32) h with mig := none } ∧ t.mem = s.mem
            ∧ ∃ o : CopyOp, (t.core s.fk).copies = (s.core s.fk).copies ++ [o] ∧ Claims.Block s pa o ∧ o.id = s.nextId
              ∧ o.ch = n.toNat ∧ o.hart = some (if s.focus.storer then 1 else 0)))

end

namespace Sys2Proof.Machine
open Sys2Proof

/-! ## The graph engine (R17 to R29, R42, R349, R360) -/

/-- The engine of chiplet `pos` runs graph `gid`: no walk is in progress, no graph is about to stop, nothing is recorded or replayed, and
no sector holds an error. -/
structure Claims.Engine (s : State) (pos gid : Nat) (g : Graph) : Prop where
  held   : s.graph? pos gid = some g
  live   : 1 ≤ g.gstate ∧ g.gstate ≤ 4
  noWalk : (s.eng pos).walk = none
  stays  : (s.eng pos).dead = [] ∧ ∀ x ∈ (s.eng pos).graphs, x.2.ending = false
  quiet  : (s.chip pos).tbMode = 0
  clean  : s.bad = []

/-- The tick of chiplet `pos` (Table 8-8). -/
def Claims.tick (s : State) (pos : Nat) : Nat := (s.chip pos).ct / 1500

/-- A node after its ready condition has been evaluated (R20): an armed node with a token in every slot that it uses, whose release tick
has come where it is timed, becomes ready, with one token of each slot consumed and STAMP at CT; any other is as it was. -/
def Claims.evaluated (s : State) (pos : Nat) (g : Graph) (n : Node) : Node :=
  if n.st = 1 ∧ n.rcvd = n.req ∧ (n.timed = true → g.fstart + n.release ≤ Claims.tick s pos) then
    { n with st := 2, counts := n.consumed, readyCt := (s.chip pos).ct, stamp := (s.chip pos).ct }
  else n

/-- A count that stays at 65,535. -/
def Claims.more (n : Nat) : Nat := Nat.min 65535 (n + 1)

/-- No node has finished, and no fault report and no cancel message waits: what the engine takes before tokens and ticks (R21). -/
def Claims.noEnds (s : State) (pos : Nat) : Prop :=
  (∀ gid idx, nodeDone s pos gid idx = none) ∧ (s.chip pos).reports = [] ∧ (s.eng pos).walkQ = []

/-- No tick event of a graph is due (R27 to R29). -/
def Claims.noTicks (s : State) (pos : Nat) : Prop := ∀ x ∈ (s.eng pos).graphs, x.2.tickDue (Claims.tick s pos) = none

/-- Nothing that the engine takes before the tick events of graph `gid` waits, and no other graph has one (R21). -/
def Claims.ticksAlone (s : State) (pos gid : Nat) (g : Graph) : Prop :=
  Claims.noEnds s pos ∧ (s.eng pos).tokQ = []
  ∧ ∀ x ∈ (s.eng pos).graphs, x = (gid, g) ∨ x.2.tickDue (Claims.tick s pos) = none

/-- Nodes that are not armed are as they were. -/
def Claims.settledKept (s u : State) (pos gid : Nat) : Prop :=
  ∀ idx n, s.node? pos gid idx = some n → n.st ≠ 1 → u.node? pos gid idx = some n

end Sys2Proof.Machine

section
open Sys2Proof Sys2Proof.Machine

/-- Tokens (R19), where no completion and no report waits, the first in ascending graph id and node index (R21): a token that names no
node, or an idle one, is dropped; one that its slot does not expect is misrouted; one at count 15 is dropped, with a slip; any other
adds one to its slot. After the last event of the cycle the ready conditions are evaluated (R20, R21). A slot index beyond NCOUNT is
read as log entry 64 says, a cycle as log entry 111. -/
def Obligations.TokensArrive : Prop :=
  ∀ (s : State) (pos : Nat) (g : Graph) (t : TokMsg) (r : List TokMsg), s.focus.arg.pos = pos → Claims.Engine s pos t.gid g →
    Claims.noEnds s pos → (s.eng pos).tokQ = t :: r → (∀ x ∈ r, t.gid < x.gid ∨ t.gid = x.gid ∧ t.idx ≤ x.idx) →
    NextWith (exec .tokenArrival s) fun u =>
      let last := r = [] ∧ Claims.noTicks s pos
      let becomes := fun (idx : Nat) (n : Node) =>
        (last → u.node? pos t.gid idx = some (Claims.evaluated s pos g n)) ∧ (¬ last → u.node? pos t.gid idx = some n)
      let others := (u.eng pos).tokQ = r ∧ ∀ idx n, s.node? pos t.gid idx = some n → idx ≠ t.idx → becomes idx n
      ((s.node? pos t.gid t.idx = none ∨ ∃ n, s.node? pos t.gid t.idx = some n ∧ n.st = 0) →
        others ∧ ∃ g1, u.graph? pos t.gid = some g1 ∧ g1.drops = Claims.more g.drops)
      ∧ ∀ n, s.node? pos t.gid t.idx = some n → n.st ≠ 0 →
        (n.srcs[t.slot]?.getD 0 ≠ t.src ∨ n.used t.slot = false →
          others ∧ becomes t.idx n ∧ ∃ g1, u.graph? pos t.gid = some g1 ∧ g1.misroute = Claims.more g.misroute)
        ∧ (n.srcs[t.slot]?.getD 0 = t.src → n.used t.slot = true → 15 ≤ n.count t.slot →
          others ∧ becomes t.idx n
          ∧ ∃ g1, u.graph? pos t.gid = some g1 ∧ g1.drops = Claims.more g.drops ∧ g1.slips = Claims.more g.slips)
        ∧ (n.srcs[t.slot]?.getD 0 = t.src → n.used t.slot = true → n.count t.slot < 15 →
          others ∧ becomes t.idx { n with counts := n.counts.set t.slot (n.count t.slot + 1) })


/-- Frames (R20, R27 to R29), where nothing else waits for the engine (R21): the release tick evaluates the ready conditions; a frame
starts at the later of FSTART + PERIOD and the tick after its last blocking node ended, with the transitions of Table 2-4; at the
nominal end a frame with a blocking node waits, with GSTATE 3; a missed deadline and a stretch beyond STRETCH are slips, once each in
a frame. Log entries 64, 66 and 102 say what is read there. -/
def Obligations.FramesAndDeadlines : Prop :=
  ∀ (s : State) (pos gid : Nat) (g : Graph), s.focus.arg.pos = pos → s.focus.arg.gid = gid → Claims.Engine s pos gid g →
    Claims.ticksAlone s pos gid g →
    let tick := Claims.tick s pos
    (Claims.noTicks s pos → NextWith (exec .releaseTick s) fun u =>
      ∀ idx n, s.node? pos gid idx = some n → u.node? pos gid idx = some (Claims.evaluated s pos g n))
    ∧ (g.period ≠ 0 → g.blocked = false → Nat.max (g.fstart + g.period) (g.lastEnd + 1) ≤ tick →
      NextWith (exec .frameStart s) fun u =>
        (∃ g1, u.graph? pos gid = some g1 ∧ g1.fstart = Nat.max (g.fstart + g.period) (g.lastEnd + 1)
          ∧ g1.frameno = (g.frameno + 1) % 2 ^ 32 ∧ g1.gstate = (if g.gstate = 3 then 1 else g.gstate) ∧ g1.waiting = false)
        ∧ ∀ idx n, s.node? pos gid idx = some n → ∃ n1, u.node? pos gid idx = some n1
          ∧ (n.st = 5 ∨ n.st = 6 → (n1.st = 1 ∨ n1.st = 2) ∧ n1.rused = 0 ∧ n1.rvalid = false)
          ∧ (n.st = 4 ∧ n.timed = true → n1.st = 1 ∨ n1.st = 2)
          ∧ (n.st ≠ 1 → n.st ≠ 5 → n.st ≠ 6 → ¬ (n.st = 4 ∧ n.timed = true) → n1.st = n.st))
    ∧ (g.period ≠ 0 → g.waiting = false → g.blocked = true → g.fstart + g.period ≤ tick →
      NextWith (exec .nominalFrameEnd s) fun u => Claims.settledKept s u pos gid
        ∧ ∃ g1, u.graph? pos gid = some g1 ∧ g1.waiting = true ∧ g1.gstate = (if g.gstate = 1 then 3 else g.gstate))
    ∧ (∀ n, s.node? pos gid s.focus.arg.idx = some n → n.dl = true → n.dlSeen = false → g.fstart + n.deadline ≤ tick →
      g.frameDue tick = false → g.nominalDue tick = false →
      (∀ y ∈ g.nodes, y.1 = s.focus.arg.idx ∨ g.deadlineDue y.2 tick = false) →
      NextWith (exec .deadlineMiss s) fun u =>
        (∃ n1, u.node? pos gid s.focus.arg.idx = some n1 ∧ n1.dlSeen = true ∧ (n.st ≠ 1 → n1.st = n.st)
          ∧ (n.st = 1 → n1.st = 1 ∨ n1.st = 2))
        ∧ ∃ g1, u.graph? pos gid = some g1 ∧ (n.st = 1 ∨ n.st = 2 ∨ n.st = 3 ∨ n.st = 7 → g1.slips = Claims.more g.slips))
    ∧ (g.waiting = true → g.told = false → g.fstart + g.period + g.stretch < tick → g.frameDue tick = false →
      (∀ y ∈ g.nodes, g.deadlineDue y.2 tick = false) →
      NextWith (exec .stretchFault s) fun u => Claims.settledKept s u pos gid
        ∧ ∃ g1, u.graph? pos gid = some g1 ∧ g1.told = true ∧ g1.streak = g.streak + 1 ∧ g1.slips = Claims.more g.slips)

end

namespace Sys2Proof.Machine
open Sys2Proof

/-- The contexts of a placed node hold it no more (R58). -/
def Claims.left (s t : State) (pos : Nat) (p : Placed) : Prop := ∀ ck ∈ placeCtxs s pos p, (t.ctx ck).st = .idle

/-- No node has finished but, perhaps, `idx` of graph `gid` (R21). -/
def Claims.onlyDone (s : State) (pos gid idx : Nat) : Prop :=
  ∀ i j, nodeDone s pos i j ≠ none → i = gid ∧ j = idx

end Sys2Proof.Machine

section
open Sys2Proof Sys2Proof.Machine

/-- The end of a node (R23 to R26, R349), in the order of R21: a node whose contexts have finished becomes done, returns its place and
sends its tokens, and is armed again where it is untimed and uses tokens; a node that is reported failed has FCAUSE and RROW written,
and fails, or waits for its retry, or escalates its graph; a walk starts from it, or from the target of a cancel message unless that
is cancelled already. A walk completes once no node of its cone but the root runs: the engine has no walk, CANCELS has grown, a root
that waits for its retry is ready, with the cancelled nodes of its cone armed, and the Bridge is told of a root that stays failed
(R23 to R25). One walk at a time is a reading (log entry 63). -/
def Obligations.NodesAndWalksEnd : Prop :=
  (∀ (s : State) (pos gid idx : Nat) (g : Graph) (n : Node) (p : Placed), s.focus.arg.pos = pos → Claims.Engine s pos gid g →
      s.node? pos gid idx = some n → n.place = some p → n.st = 3 →
      (s.focus.arg.gid = gid → s.focus.arg.idx = idx → (∀ ck ∈ placeCtxs s pos p, ctxFinished s ck = true) →
        Claims.onlyDone s pos gid idx →
        NextWith (exec .nodeCompletion s) fun u =>
          Claims.left s u pos p ∧ ∃ n1, u.node? pos gid idx = some n1 ∧ n1.place = none ∧ n1.frame = g.frameno % 2 ^ 32
            ∧ (n.timed = true ∨ n.req = 0 → n1.st = 4 ∧ n1.stamp = (s.chip pos).ct)
            ∧ (n.timed = false → 1 ≤ n.req → n1.st = 1 ∨ n1.st = 2)
            ∧ ((∀ e ∈ n.succ, holderOf s pos (e / 65536 % 256) = some pos) →
                (u.eng pos).tokQ = (s.eng pos).tokQ ++ n.succ.map fun e =>
                  { gid := e / 65536 % 256, idx := e % 4096, slot := e / 4096 % 16, src := senderWord (e / 65536 % 256) gid idx }))
      ∧ (∀ r rest, (s.chip pos).reports = r :: rest → r.gid = gid → r.idx = idx → (s.eng pos).walkQ = [] →
        (∀ i j, nodeDone s pos i j = none) → (∀ x ∈ rest, gid < x.gid ∨ gid = x.gid ∧ idx ≤ x.idx) →
        NextWith (exec .nodeFaultReport s) fun u =>
          let retry := n.policy = 0 ∧ n.rused < n.retry
          Claims.left s u pos p ∧ (u.chip pos).reports = rest
          ∧ ∃ n1, u.node? pos gid idx = some n1 ∧ n1.place = none ∧ n1.fcause = r.cause % 256 ∧ n1.rrow = r.rrow.toNat % 2 ^ 32
            ∧ (n.policy = 2 → n1.st = 5 ∧ (u.eng pos).walk = none ∧ ∃ g1, u.graph? pos gid = some g1 ∧ g1.gstate = 4)
            ∧ (retry → n1.st = 7 ∧ n1.rused = n.rused + 1)
            ∧ (n.policy ≠ 2 → ¬ retry → n1.st = 5)
            ∧ (n.policy ≠ 2 → ∃ w, (u.eng pos).walk = some w ∧ w.root = some idx ∧ w.gid = gid ∧ (w.retry = true ↔ retry))))
  ∧ (∀ (s : State) (pos gid : Nat) (g : Graph), s.focus.arg.pos = pos → (∀ i j, nodeDone s pos i j = none) →
      (∀ idx src retry q n, Claims.Engine s pos gid g → (s.eng pos).walkQ = .cancel gid idx src retry :: q →
        s.node? pos gid idx = some n → NextWith (exec .cancelMessage s) fun u =>
          (u.eng pos).walkQ.take q.length = q
          ∧ (n.st = 6 → (u.eng pos).walk = none ∧ u.node? pos gid idx = some n)
          ∧ (n.st ≠ 6 → ∃ w, (u.eng pos).walk = some w ∧ w.gid = gid ∧ w.origin = idx ∧ w.root = none ∧ w.sender = some src
              ∧ w.retry = retry))
      ∧ (∀ w, (s.eng pos).walk = some w → w.gid = gid → s.graph? pos gid = some g → 1 ≤ g.gstate ∧ g.gstate ≤ 4 → g.held = [] →
        (s.eng pos).dead = [] → (∀ x ∈ (s.eng pos).graphs, x.2.ending = false) → (s.chip pos).tbMode = 0 → s.bad = [] →
        (s.eng pos).walkQ = [] → (∀ i ∈ w.cone, w.root = some i ∨ ∀ n, s.node? pos gid i = some n → n.st ≠ 3) →
        NextWith (exec .coneWalkComplete s) fun u =>
          (u.eng pos).walk = none
          ∧ (∃ g1, u.graph? pos gid = some g1 ∧ g1.cancels = Claims.more g.cancels
              ∧ (g.gstate ≠ 4 → g1.gstate = if g.waiting then 3 else 1))
          ∧ (∀ r n, w.root = some r → s.node? pos gid r = some n →
              ∃ n1, u.node? pos gid r = some n1 ∧ (n.st = 7 → n1.st = 2)
                ∧ (n.st = 5 → n1.st = 5 ∧ ∀ c, w.fcause = some c → n1.must = none ∧ n1.tiles = false
                    ∧ (u.chip pos).br.nodeFails = (s.chip pos).br.nodeFails ++ [(gid, r, c, (s.chip pos).ct)]))
          ∧ ∀ i m, i ∈ w.cone → w.root ≠ some i → s.node? pos gid i = some m → m.st = 6 →
              ∃ n1, u.node? pos gid i = some n1 ∧ (w.retry = true → n1.st = 1 ∨ n1.st = 2) ∧ (w.retry = false → n1.st = 6)))

end

namespace Sys2Proof.Machine
open Sys2Proof

/-- A port's state after a post that is accepted, and one that is rejected (R42). -/
def Claims.posted (n : Nat) (r : Port) : Port := { r with posts := r.posts + BitVec.ofNat 32 n }
def Claims.rejected (r : Port) : Port := { r with rejects := Nat.min 65535 (r.rejects + 1) }

end Sys2Proof.Machine

section
open Sys2Proof Sys2Proof.Machine

/-- Mirrors (R343, R344): the oldest mirror of a graph goes to its slot in three steps: a header without DONE and its bytes, the header
with DONE, and then the slot is complete; no other byte changes. To another chiplet each part is a message of class 6 (R298), and a
mirror a part of which failed is late. Host token ports (R42): a post of COUNT tokens through the page of the partition that owns
the port adds COUNT to POSTS, and every slot that the port feeds in a running graph of the chiplet receives COUNT tokens; a post
with reserved bits set, or of another partition's port, adds to REJECTS; one with COUNT 0 does nothing. A replay applies the logged
posts at their times (R360). Where a mirror lies is the model's choice (log entry 73). -/
def Obligations.MirrorsAndHostPorts : Prop :=
  (∀ (s : State) (pos gid : Nat) (g : Graph) (j : MirrorJob) (rest : List MirrorJob), s.focus.arg.pos = pos → s.focus.arg.gid = gid →
      s.graph? pos gid = some g → gid < 256 → g.mirror = j :: rest → s.bad = [] → s.weak = [] → s.memOk → j.pend = 0 →
      j.buddy = pos ∨ (s.link pos j.buddy).st = 1 ∨ (s.link pos j.buddy).st = 2 →
      NextWith (exec .mirrorComplete s) fun u =>
        let slot := fun (d : Bool) => ∃ m ∈ (u.eng j.buddy).slots, m.gid = gid ∧ m.addr = j.addr ∧ m.done = d ∧ m.ct = j.ct
        let job := fun (k : MirrorJob) => ∃ g1, u.graph? pos gid = some g1 ∧ g1.nodes = g.nodes ∧ g1.mirror.head? = some k
        let only := fun (n : Nat) => ∀ x, x < j.addr ∨ j.addr + n ≤ x → u.mem.read x = s.mem.read x
        let head := fun (d : Nat) => u.mem.readLE j.addr 8 = 0x4C4A4D52 * 2 ^ 32 + gid
          ∧ u.mem.readLE (j.addr + 24) 8 = j.ct % 2 ^ 64 ∧ u.mem.readLE (j.addr + 40) 8 / 2 ^ 32 = d
        (j.failed = false → j.sent = false → slot false
          ∧ (j.buddy = pos → job { j with sent := true } ∧ head 0 ∧ only (64 + j.bytes.length)
              ∧ u.mem.readBytes (j.addr + 64) j.bytes.length = j.bytes)
          ∧ (j.buddy ≠ pos → u.mem = s.mem))
        ∧ (j.failed = false → j.sent = true → j.hdr = false →
          (j.buddy = pos → job { j with hdr := true } ∧ head 1 ∧ only 64)
          ∧ (j.buddy ≠ pos → (s.txOf pos j.buddy 6).wait = [] → (s.txOf pos j.buddy 6).unacked.length < 64 →
              u.mem = s.mem ∧ job { j with hdr := true, pend := 1 }
              ∧ (u.txOf pos j.buddy 6).unacked.map (·.op) =
                  (s.txOf pos j.buddy 6).unacked.map (·.op) ++ [.mirror j.addr (slotHeader gid j true)]))
        ∧ (j.failed = false → j.sent = true → j.hdr = true → u.mem = s.mem ∧ slot true
          ∧ ∃ g1, u.graph? pos gid = some g1 ∧ g1.mirror = rest ∧ g1.nodes = g.nodes)
        ∧ (j.failed = true → ∃ g1, u.graph? pos gid = some g1 ∧ g1.mirror = rest ∧ g1.slips = Claims.more g.slips))
  ∧ ((∀ (s : State) (i w1 a b : Nat), let pos := s.focus.arg.pos
      nextRec s pos (fun w1 a _ => recKind w1 == 6 && replayed s pos w1 a) = some (i, w1, a, b) → (s.chip pos).tbMode = 2 →
      (s.chip pos).tbOver = false → s.readNat ((s.chip pos).recAddr i) 8 + (s.eng pos).repCt ≤ (s.chip pos).ct + (s.eng pos).repFirst →
      let k := 256 * (a / 256 % 8) + a % 256
      NextWith (exec .replayHostPost s) fun u =>
        sget Port.reset (u.eng pos).ports k = Claims.posted (b % 16) (sget Port.reset (s.eng pos).ports k))
    ∧ ∀ (s : State) (pos : Nat), s.focus.arg.pos = pos → pos < 4 → (s.chip pos).tbMode = 0 → (s.chip pos).br.held = false →
      (s.chip pos).ctlQ = [] → (s.chip pos).pcie = true → (∀ q, q < 4 → q ≠ pos → (s.eng q).graphs = []) →
      let a := s.focus.arg
      let v := a.value.toNat % 65536
      let k := 256 * a.m + a.n
      let port := fun u : State => sget Port.reset (u.eng pos).ports k
      a.m < 8 → a.n < 256 → a.flag = false →
      NextWith (exec .hostTokenPost s) fun u =>
        (v % 16 = 0 → v / 32 = 0 → u = s)
        ∧ ((v / 32 ≠ 0 ∨ v % 16 ≠ 0 ∧ sget? (s.eng pos).portOwn a.n ≠ some a.m) → port u = Claims.rejected (port s)
            ∧ (u.eng pos).tokQ = (s.eng pos).tokQ)
        ∧ (v / 32 = 0 → v % 16 ≠ 0 → sget? (s.eng pos).portOwn a.n = some a.m →
            port u = Claims.posted (v % 16) (port s)
            ∧ ∀ gid idx slot, ((u.eng pos).tokQ.filter fun t => t.gid == gid && t.idx == idx && t.slot == slot).length
                = ((s.eng pos).tokQ.filter fun t => t.gid == gid && t.idx == idx && t.slot == slot).length
                  + v % 16 * (((s.eng pos).graphs.filter fun x => x.1 == gid && x.2.live).foldl (fun z x =>
                      z + (x.2.nodes.filter fun y => y.1 == idx && decide (slot < 16)
                        && y.2.srcs[slot]?.getD 0 == 3 * 2 ^ 30 + pos * 2 ^ 20 + a.n).length) 0)))

end

namespace Sys2Proof.Machine
open Sys2Proof

/-! ## Placing, granting, starting (R10, R59 to R61, R68 to R71) -/

/-- No graph of chiplet `pos` is about to stop, nothing is recorded or replayed, and no sector holds an error. -/
structure Claims.Settled (s : State) (pos : Nat) : Prop where
  stays : (s.eng pos).dead = [] ∧ ∀ x ∈ (s.eng pos).graphs, x.2.ending = false
  quiet : (s.chip pos).tbMode = 0
  clean : s.bad = [] ∧ s.weak = []

/-- No node of the chiplet meets its ready condition: every one that does has become ready (R21). -/
def Claims.still (s : State) (pos : Nat) : Prop :=
  ∀ x ∈ (s.eng pos).graphs, ∀ y ∈ x.2.nodes, nodeReady s pos x.2 y.2 = false

/-- The header and the records of every graph of the chiplet lie in DRAM (R11). -/
def Claims.inDram (s : State) (pos : Nat) : Prop :=
  ∀ x ∈ (s.eng pos).graphs, x.2.addr + 64 ≤ 2 ^ 37
    ∧ ∀ y ∈ x.2.nodes, x.2.nodesA + 128 * y.1 + 128 ≤ 2 ^ 37 ∧ x.2.toksA + 128 * y.1 + 128 ≤ 2 ^ 37

/-- Node `n` of graph `g` stands where an engine looks it up. -/
def Claims.at (s : State) (pos gid idx : Nat) (g : Graph) (n : Node) : Prop :=
  s.graph? pos gid = some g ∧ s.node? pos gid idx = some n

/-- The nodes that a shortfall of `n` may pre-empt (R69): running, of lower priority, of a partition above its share, not yet asked, with
room for a save record. -/
def Claims.victims (s : State) (pos : Nat) (n : Node) : List (Nat × Nat × Graph × Node) :=
  (allNodes s pos).filter fun (_, _, g, m) =>
    m.st == 3 && decide (m.prio < n.prio) && m.asked.isNone
      && decide ((sget Part.reset (s.chip pos).parts g.part).ishare * (s.eng pos).quota < 64 * heldAmps s pos fun g2 => g2.part == g.part)
      && (allotRec s pos (recLen m) []).isSome

end Sys2Proof.Machine

section
open Sys2Proof Sys2Proof.Machine

/-- Placement (R59, R60): the ready node that comes before every other ready node of the chiplet, 8 counts after the last placement,
takes the first place that fits it: its registers, which read zero, its banks and its context; one that nothing fits reserves its
partition. Grants (R69): the first request of the order, a request of class 0 first, is granted where its class current, once for each
of its cores, fits in the free quota, and else waits; a request that has waited 2,000 counts pre-empts a victim, which has a save
record allotted. The quota of a chiplet that is not closed is set within its limits and the budget that the others leave (R68, R336,
R374). A block that a fetch lacks is filled into a free slot, or over one that no context's PC is in (R71); of one that cannot be read
the context is told. A granted node starts (R10, R16): every member's context is ready at ENTRY with s1 = PBLK and s2 to s7 = P0 to
P5, DBGCTL as it was, and the harts run with their registers; the node is ready until its lead has issued a bundle (R64). The
dispatcher takes its turn where no completion or report waits (R21). Ties and the moment of the fill are the model's (log entries 72
and 97), and so is the charge of a consort (log entry 70). -/
def Obligations.PlacementAndGrants : Prop :=
  (∀ (s : State) (pos gid idx : Nat) (g : Graph) (n : Node), s.focus.arg.pos = pos → Claims.Settled s pos → s.memOk →
      Claims.at s pos gid idx g n → (gid, idx, g, n) ∈ allNodes s pos → waiting g n = true → noReports s pos = true →
      g.part < 8 → (∀ t, (s.eng pos).lastPlace = some t → t + 8 ≤ s.ctOf pos) → sget? (s.eng pos).reserve g.part = none →
      (∀ x ∈ allNodes s pos, waiting x.2.2.1 x.2.2.2 = true → x ≠ (gid, idx, g, n) → before (gid, idx, g, n) x = true) →
      NextWith (exec .nodePlacement s) fun u =>
        (fit s pos gid idx g n [] = none → sget? (u.eng pos).reserve g.part = some (gid, idx))
        ∧ ∀ p, fit s pos gid idx g n [] = some p →
          (∃ n1, u.node? pos gid idx = some n1 ∧ n1.st = 2 ∧ n1.place = some { p with granted := false, ct := s.ctOf pos })
          ∧ sget? (u.eng pos).reserve g.part = none ∧ (u.eng pos).lastPlace = some (s.ctOf pos)
          ∧ ∀ i, i < p.n →
            let k := lcKey s pos (p.lc + i)
            let c := u.ctx (k * 4 + p.ctx)
            c.vBase = p.vb ∧ c.vSize = p.vn ∧ c.gid = gid ∧ c.idx = idx
            ∧ (Claims.inDram s pos → ∀ r, r < p.vn → u.vphys k (p.vb + r) = 0)
            ∧ ∀ b, b < n.sbanks → (sget Bank.reset (u.core k).banks (p.bb + b)).owner = some p.ctx)
  ∧ (∀ (s : State) (pos gid idx : Nat) (g : Graph) (n : Node) (p : Placed), s.focus.arg.pos = pos → Claims.Settled s pos →
      Claims.at s pos gid idx g n → n.place = some p → (gid, idx, g, n) ∈ requests s pos → noReports s pos = true →
      (∀ x ∈ requests s pos, x ≠ (gid, idx, g, n) → reqBefore (gid, idx, g, n) x = true ∧ x.2.2.2.cls ≠ 0) →
      let hot := 2 ≤ (s.chip pos).power.tstate ∧ 5 ≤ n.cls
      let fits := n.cls = 0 ∨ ¬ hot ∧ heldAmps s pos (fun _ => true) + classAmps n.cls * n.cores ≤ (s.eng pos).quota
      (fits → NextWith (exec .currentGrant s) fun u => ∃ n1, u.node? pos gid idx = some n1 ∧ (n.st ≠ 1 → n1.st = n.st)
        ∧ n1.place = some { p with granted := true, ct := s.ctOf pos })
      ∧ (¬ fits → requests s pos = [(gid, idx, g, n)] → NextWith (exec .currentGrant s) fun u => u = s)
      ∧ ∀ gid2 idx2 g2 m q, p.ct + 2000 ≤ s.ctOf pos → n.cls ≠ 0 → ¬ hot → (poolOf s pos).2 ≠ 0 →
        (∀ x ∈ requests s pos, x ≠ (gid, idx, g, n) → s.ctOf pos < reqCt x.2.2.2 + 2000) →
        Claims.victims s pos n = [(gid2, idx2, g2, m)] → Claims.at s pos gid2 idx2 g2 m → m.place = some q →
        ((s.eng pos).quota - heldAmps s pos fun _ => true)
          + (allNodes s pos).foldl (fun z x => if x.2.2.2.asked.isSome then z + classAmps x.2.2.2.cls * x.2.2.2.cores else z) 0
            < classAmps n.cls * n.cores →
        NextWith (exec .currentShortfall s) fun u =>
          (∃ m1, u.node? pos gid2 idx2 = some m1 ∧ m1.asked.isSome = true ∧ m1.rec?.isSome = true ∧ m1.st = 3)
          ∧ ∀ ck ∈ placeCtxs s pos q, (u.ctx ck).preempt.isSome = true)
  ∧ (∀ (s : State), let a := s.focus.arg
      let others := ((List.range 4).filter (· != a.pos)).map fun q => if (s.chip q).br.closed then s.share else (s.eng q).quota
      (s.chip a.pos).br.closed = false → a.n ≤ 280 → others.foldl (· + ·) 0 + a.n ≤ 4 * s.share →
      (s.eng a.pos).quota ≤ a.n ∨ heldAmps s a.pos (fun _ => true) < a.n →
      NextWith (exec .quotaChange s) fun u => (u.eng a.pos).quota = a.n ∧ u.ctxs = s.ctxs ∧ u.cores = s.cores ∧ u.mem = s.mem)
  ∧ (∀ (s : State) (b : Nat), let a := s.focus.arg
      let ck := ctxKey a.pos a.core a.ctx
      let k := ckCore ck
      (s.ctx ck).live = true → s.memOk → blockSlot (s.core k) b = none →
      b = ((curImage s ck).1 + 64 * (s.ctx ck).pc) / 4096 * 4096 →
      (s.readBad b 4096 = true → NextWith (exec .instructionBlockFill s) fun u => (u.ctx ck).fillBad = some b
        ∧ (u.ctx ck).st = (if (s.ctx ck).st = .blocked then .ready else (s.ctx ck).st) ∧ (u.core k).istore = (s.core k).istore)
      ∧ (s.bad = [] → s.weak = [] → (∃ i, i < 64 ∧ ∀ x ∈ (s.core k).istore, x.1 ≠ i) ∨ (∃ x ∈ (s.core k).istore, x.2 ∉ pcBlocks s k) →
      NextWith (exec .instructionBlockFill s) fun u =>
        (∃ i, (i, b) ∈ (u.core k).istore ∧ u.mem.readBytes (winBase k + 0x600000 + 4096 * i) 4096 = s.mem.readBytes b 4096
          ∧ ∀ x ∈ (s.core k).istore, x.1 ≠ i → x ∈ (u.core k).istore)
        ∧ (u.ctx ck).st = (if (s.ctx ck).st = .blocked then .ready else (s.ctx ck).st) ∧ (u.ctx ck).pc = (s.ctx ck).pc))
  ∧ (∀ (s : State) (gid idx : Nat) (g : Graph) (n : Node) (p : Placed), let a := s.focus.arg
      a.gid = gid → a.idx = idx → Claims.Settled s a.pos → Claims.at s a.pos gid idx g n → n.place = some p → p.granted = true →
      n.st = 2 → g.gstate ≠ 4 → n.rec? = none → (∀ ck ∈ placeCtxs s a.pos p, (s.ctx ck).st = .idle) →
      (s.chip a.pos).reports = [] → (s.eng a.pos).walkQ = [] →
      NextWith (exec .nodeStart s) fun u =>
        (∃ n1, u.node? a.pos gid idx = some n1 ∧ n1.st = 2 ∧ n1.place = n.place)
        ∧ ∀ i, i < p.n →
          let k := lcKey s a.pos (p.lc + i)
          let c := u.ctx (k * 4 + p.ctx)
          c.st = .ready ∧ c.pc = n.entry ∧ c.imgBase = n.img ∧ c.imgLen = n.ilen ∧ c.node.toNat = (gid * 4096 + idx) % 2 ^ 64
          ∧ c.part = g.part ∧ c.tl = 0 ∧ c.res = false ∧ c.dbgctl = (s.ctx (k * 4 + p.ctx)).dbgctl
          ∧ sget 0 c.sregs 257 = BitVec.ofNat 64 n.pblk ∧ (∀ j, j < 6 → sget 0 c.sregs (258 + j) = n.p j)
          ∧ ∀ h, (n.hlen false ≠ 0 ∧ h = (u.core k).loader ∨ n.hlen true ≠ 0 ∧ h = (u.core k).storer) →
            h.running = true ∧ h.pc = 0 ∧ sget 0 h.regs 10 = BitVec.ofNat 32 (n.pblk % 2 ^ 32)
            ∧ sget 0 h.regs 11 = BitVec.ofNat 32 (n.pblk / 2 ^ 32) ∧ sget 0 h.regs 12 = BitVec.ofNat 32 (gid * 4096 + idx))

end

namespace Sys2Proof.Machine
open Sys2Proof

/-! ## Saving, spares, resets (R56, R67, R322 to R324, R333) -/

/-- Core k of chiplet `pos` is a spare: not retired and not mapped (R56). -/
def Claims.spare (s : State) (pos k : Nat) : Prop :=
  bitOf (s.chip pos).br.retired k = false ∧ ∀ n, n < 32 → ((s.chip pos).lc n).pcore ≠ k

end Sys2Proof.Machine

section
open Sys2Proof Sys2Proof.Machine

/-- Saving (R322, R324): once every context of a running node has drained, its record holds them, its objects are frozen, its harts
pause, and it is ready again, with its place to return to. Restoring (R323): a placed and granted node with a record goes on with
the contexts of the record, once F is free where it held F, and runs when its lead issues (R64). A substitution (R56) first keeps the
core from new nodes, pre-empts the node on it and frees one that has not started; then, with no node on the core, the old core is
retired, and the lowest spare is written with VALID 0; then its memories read zero, VALID is set and CSTATE is 0; with no spare
the core leaves service. A core with a TRIP bit is quarantined (R333). A partition reset (R67) leaves no graph, port or cached
translation of the partition. What the record holds beyond Table 15-6 is the model's (log entries
16, 67 and 69). -/
def Obligations.SavingSparesAndResets : Prop :=
  (∀ (s : State) (gid idx : Nat) (g : Graph) (n : Node) (p : Placed) (r : SaveRec), let a := s.focus.arg
      a.gid = gid → a.idx = idx → Claims.Settled s a.pos → Claims.at s a.pos gid idx g n → n.place = some p → n.rec? = some r →
      (n.st = 3 → (s.eng a.pos).walk = none →
        (∀ ck ∈ placeCtxs s a.pos p, (s.ctx ck).st = .draining ∧ drained s ck = true) →
        NextWith (exec .contextSave s) fun u =>
          Claims.left s u a.pos p
          ∧ (∃ n1 r1, u.node? a.pos gid idx = some n1 ∧ n1.st = 2 ∧ n1.place = none ∧ n1.asked = none
            ∧ (∃ q, n1.must = some q ∧ q.lc = p.lc ∧ q.ctx = p.ctx ∧ q.vb = p.vb ∧ q.bb = p.bb ∧ q.tb = p.tb)
            ∧ n1.rec? = some r1 ∧ r1.addr = r.addr ∧ r1.len = r.len ∧ r1.ctxs = (placeCtxs s a.pos p).map s.ctx)
          ∧ ∀ ck ∈ placeCtxs s a.pos p,
            (∀ o ∈ bankObjs s ck, ∃ o1 ∈ (u.core (ckCore ck)).objs, o1.addr = o.addr ∧ o1.kind = o.kind ∧ o1.frozen = true)
            ∧ ((s.core (ckCore ck)).owner = some (ckCtx ck) →
                (u.core (ckCore ck)).ownSaved = true ∧ (u.core (ckCore ck)).loader.paused = true
                ∧ (u.core (ckCore ck)).storer.paused = true))
      ∧ (n.st = 2 → p.granted = true → g.gstate ≠ 4 → (placeCtxs s a.pos p).Nodup → 1 ≤ p.n →
        (∀ ck ∈ placeCtxs s a.pos p, (s.ctx ck).st = .idle) → (s.chip a.pos).reports = [] → (s.eng a.pos).walkQ = [] →
        r.ctxs.length = p.n → r.objs.length = p.n → r.fheld.length = p.n → r.held.length = p.n →
        (∀ x ∈ (placeCtxs s a.pos p).zip r.fheld, x.2 = true → (s.core (ckCore x.1)).fOwner = none) →
        NextWith (exec .contextRestore s) fun u =>
          (∀ x ∈ (placeCtxs s a.pos p).zip r.ctxs,
            u.ctx x.1 = { x.2 with st := .ready, preempt := none, closing := false, async := [], fetched := none, fillBad := none,
                                   trapDue := none, objReq := none, dbgStep := (s.ctx x.1).dbgStep,
                                   dbgDrain := (s.ctx x.1).dbgDrain, dbgStepped := (s.ctx x.1).dbgStepped })
          ∧ ∃ n1, u.node? a.pos gid idx = some n1 ∧ n1.st = 2 ∧ n1.place = n.place ∧ n1.rec? = none))
  ∧ (∀ (s : State), let a := s.focus.arg
      let lc := fun u : State => (u.chip a.pos).lc a.idx
      let old := (lc s).pcore
      a.idx < 32 → Claims.Settled s a.pos →
      ((lc s).cstate = 0 ∨ (lc s).cstate = 1 → NextWith (exec .spareSubstitution s) fun u =>
        (lc u).cstate = 2 ∧ (lc u).pcore = old
        ∧ ∀ gid idx g n p, nodesOn s a.pos a.idx = [(gid, idx, g, n)] → Claims.at s a.pos gid idx g n → n.place = some p →
          ∃ n1, u.node? a.pos gid idx = some n1 
            ∧ (n.st ≠ 3 → (∀ ck ∈ placeCtxs s a.pos p, (s.ctx ck).st = .idle) → n1.place = none)
            ∧ (n.st = 3 → n.rec?.isSome = true ∨ (allotRec s a.pos (recLen n) []).isSome = true → n1.asked.isSome = true))
      ∧ ((lc s).cstate = 2 → (lc s).valid = true → nodesOn s a.pos a.idx = [] → NextWith (exec .spareSubstitution s) fun u =>
        bitOf (u.chip a.pos).br.retired old = true
        ∧ ((∀ k, k < 34 → ¬ Claims.spare s a.pos k) → (lc u).cstate = 3 ∧ (lc u).valid = false)
        ∧ ∀ k, k < 34 → Claims.spare s a.pos k → (∀ j, j < k → ¬ Claims.spare s a.pos j) →
          lc u = { lc s with valid := false, pcore := k }
          ∧ (u.core (coreKey a.pos k)).trip = 0 ∧ (u.core (coreKey a.pos k)).suspect = [] ∧ (u.core (coreKey a.pos k)).istore = [])
      ∧ ((lc s).cstate = 2 → (lc s).valid = false → nodesOn s a.pos a.idx = [] → NextWith (exec .spareSubstitution s) fun u =>
        lc u = { lc s with valid := true, cstate := 0 }
        ∧ (Claims.inDram s a.pos → ∀ x, x < 0x1000000 → u.mem.read (winBase (coreKey a.pos old) + x) = 0))
      ∧ ((lc s).valid = true → (lc s).cstate ≠ 2 → (s.core (coreKey a.pos old)).trip ≠ 0 → NextWith (exec .quarantine s) fun u =>
        (lc u).cstate = 2 ∧ (lc u).pcore = old))
  ∧ ∀ (s : State), s.focus.arg.flag = false → s.focus.arg.n < 8 → (∀ q, risingFrom none (s.eng q).graphs = true) →
      NextWith (exec .partitionReset s) fun u => ∀ q, q < 4 →
        (∀ x ∈ (u.eng q).portOwn, x.2 ≠ s.focus.arg.n)
        ∧ (∀ gid g, u.graph? q gid = some g → g.part ≠ s.focus.arg.n ∧ (s.graph? q gid).isSome = true)
        ∧ (∀ gid g, s.graph? q gid = some g → g.part ≠ s.focus.arg.n → (u.graph? q gid).isSome = true)
        ∧ ∀ k, k < 34 → ∀ e, (e ∈ (u.core (coreKey q k)).tlb ∨ e ∈ (u.core (coreKey q k)).ctlb
          ∨ e ∈ (u.core (coreKey q k)).atlb ∨ e ∈ (u.core (coreKey q k)).btlb) → e.part ≠ s.focus.arg.n

end

namespace Sys2Proof.Machine
open Sys2Proof

/-! ## Translation (R197 to R206) -/

/-- The fields of a page-table entry (Table 10-4). -/
def Claims.v (e : W64) : Bool := e.getLsbD 0
def Claims.lf (e : W64) : Bool := e.getLsbD 1
def Claims.cg (e : W64) : Bool := e.getLsbD 2
def Claims.pteAddr (e : W64) : Nat := e.toNat / 2 ^ 12 % 2 ^ 34 * 2 ^ 12
def Claims.mc (e : W64) : Nat := e.toNat / 2 ^ 8 % 8

/-- An entry that names the next table (R199). -/
def Claims.pointer (e : W64) : Prop :=
  Claims.v e = true ∧ Claims.lf e = false ∧ e.toNat / 4 % 2 ^ 10 = 0 ∧ e.toNat / 2 ^ 46 = 0

/-- The index of an address in a table of a level (Table 10-3). -/
def Claims.index (va : Nat) : Nat → Nat
  | 0 => va / 2 ^ 38 % 1024
  | 1 => va / 2 ^ 29 % 512
  | 2 => va / 2 ^ 21 % 256
  | _ => va / 2 ^ 12 % 512

/-- The table of a level that a walk of an address by the walker of chiplet `pos` comes to, the address at which it is read, and its
entry there (R192, R197). -/
def Claims.table (s : State) (pos root va : Nat) : Nat → Nat
  | 0 => root
  | d + 1 =>
    let t := Claims.table s pos root va d
    Claims.pteAddr (s.read64 ((tableAt s pos t).getD t + 8 * Claims.index va d))
def Claims.tableBase (s : State) (pos root va d : Nat) : Nat :=
  let t := Claims.table s pos root va d
  (tableAt s pos t).getD t
def Claims.entry (s : State) (pos root va d : Nat) : W64 := s.read64 (Claims.tableBase s pos root va d + 8 * Claims.index va d)
def Claims.tableRead (s : State) (pos root va d : Nat) : Prop := tableAt s pos (Claims.table s pos root va d) ≠ none

/-- The page of a leaf of a level that is no member of a group (Table 10-3). -/
def Claims.page (d : Nat) : Nat := if d = 1 then 2 ^ 29 else if d = 2 then 2 ^ 21 else 2 ^ 12

/-- A leaf is well formed (R199): no reserved bit, aligned to its page, of the class of the region it lies in. -/
def Claims.leafOk (e : W64) (d : Nat) : Prop :=
  e.toNat / 2 ^ 46 = 0 ∧ Claims.pteAddr e % Claims.page d = 0 ∧ Claims.mc e < 5
    ∧ (classOf (Claims.pteAddr e) = some (Claims.mc e) ∨ Claims.mc e = 1 ∧ classOf (Claims.pteAddr e) = some 0)

/-- A cached translation is covered by an invalidation (R165): of its partition and address, of its partition, or of every one. -/
def Claims.covered (t : TlbInv) (e : TlbEnt) : Prop :=
  (t.scope = 0 ∧ e.part = t.part ∧ e.va ≤ t.va ∧ t.va < e.va + e.size) ∨ (t.scope = 1 ∧ e.part = t.part) ∨ 2 ≤ t.scope

/-- Every cached translation of core `k`. -/
def Claims.cached (s : State) (k : Nat) (e : TlbEnt) : Prop :=
  e ∈ (s.core k).tlb ∨ e ∈ (s.core k).ctlb ∨ e ∈ (s.core k).atlb ∨ e ∈ (s.core k).btlb

end Sys2Proof.Machine

section
open Sys2Proof Sys2Proof.Machine

/-- The walk (R197 to R200, R202, R206): it follows the entries of up to four levels, and ends at the first one that is invalid,
migrating, malformed, or a leaf, which must lie in the partition's regions where its class is 0 or 1; a group's answer is the fields
of one of its members; a table in a hole ends it with cause 0x0F (R192). A context that waits for its walk (R203, R206) gets the leaf into its cache, or the fault; on a migrating
entry it waits, walks again every 1,500 counts, and faults with 0x09 after 1,500,000. An invalidation takes what it covers out of
every cache, and fires its token when nothing uses it any longer (R165, R205). When a walk is repeated and an invalidation ends, and
where a table can be read, is the model's choice (log entries 8, 21 and 59). -/
def Obligations.Translation : Prop :=
  (∀ (s : State) (pos part va pick d : Nat), s.bad = [] → d < 4 →
      let p := sget Part.reset (s.chip pos).parts part
      let e := Claims.entry s pos p.ptroot va d
      let r := walk s pos part va pick
      (∀ j, j < d → Claims.pointer (Claims.entry s pos p.ptroot va j) ∧ Claims.tableRead s pos p.ptroot va j) →
      (¬ Claims.tableRead s pos p.ptroot va d → r = .fault 0x0F)
      ∧ (Claims.tableRead s pos p.ptroot va d → (Claims.v e = false → r = if e.getLsbD 11 then .migrating else .fault 0x09)
      ∧ (Claims.v e = true → Claims.lf e = true → d = 0 → r = .fault 0x09)
      ∧ (Claims.v e = true → Claims.lf e = false → d = 3 ∨ ¬ Claims.pointer e → r = .fault 0x09)
      ∧ (Claims.v e = true → Claims.lf e = true → Claims.cg e = true → d = 1 → r = .fault 0x09)
      ∧ (Claims.v e = true → Claims.lf e = true → Claims.cg e = false → 1 ≤ d →
        (¬ Claims.leafOk e d → r = .fault 0x09)
        ∧ (Claims.leafOk e d →
            let inside := Claims.mc e < 2 → ∃ x ∈ p.regions, x.1 ≤ Claims.pteAddr e ∧ Claims.pteAddr e + Claims.page d ≤ x.1 + x.2
            (inside → r = .leaf (va / Claims.page d * Claims.page d) (Claims.page d) e) ∧ (¬ inside → r = .fault 0x0A)))
      ∧ (Claims.v e = true → Claims.lf e = true → Claims.cg e = true → 2 ≤ d → ∀ v z x, r = .leaf v z x →
        (∃ m, m < 16 ∧ x = s.read64 (Claims.tableBase s pos p.ptroot va d + 8 * (Claims.index va d / 16 * 16 + m)))
        ∧ Claims.v x = true ∧ Claims.lf x = true ∧ Claims.cg x = true ∧ z = 16 * Claims.page d ∧ v = va / z * z)))
  ∧ (∀ (s : State) (va : W64) (copy : Bool), let a := s.focus.arg
      let ck := ctxKey a.pos a.core a.ctx
      let c := s.ctx ck
      let ct := s.ctOf (ckPos ck)
      let w := walk s (ckPos ck) c.part va.toNat a.n
      let answered := fun u : State => (u.ctx ck).walkVa = none ∧ (u.ctx ck).st = (if c.st = .blocked then .ready else c.st)
        ∧ (∀ v z e, w = .leaf v z e →
            { part := c.part, va := v, size := z, pte := e } ∈ (if copy then (u.core (ckCore ck)).ctlb else (u.core (ckCore ck)).tlb))
        ∧ (∀ f, w = .fault f → (u.ctx ck).walkRes = some (va.toNat, f))
        ∧ (∀ x, w = .bad x → (u.ctx ck).walkRes = some (va.toNat, 0x0F))
      unitOk a.pos a.core a.ctx = true → c.walkVa = some (va, copy) →
      (c.walkMig = none → NextWith (exec .translationWalk s) fun u =>
        (w = .migrating → (u.ctx ck).walkVa = some (va, copy) ∧ (u.ctx ck).walkMig = some (ct, ct) ∧ (u.ctx ck).st = c.st)
        ∧ (w ≠ .migrating → answered u))
      ∧ ∀ first last, c.walkMig = some (first, last) →
        (last + 1500 ≤ ct → ct < first + 1500000 → NextWith (exec .migrationRewalk s) fun u =>
          (w = .migrating → (u.ctx ck).walkVa = some (va, copy) ∧ (u.ctx ck).walkMig = some (first, last + 1500))
          ∧ (w ≠ .migrating → answered u ∧ (u.ctx ck).walkMig = none))
        ∧ (first + 1500000 ≤ ct → NextWith (exec .migrationTimeout s) fun u =>
          (u.ctx ck).walkVa = none ∧ (u.ctx ck).walkMig = none ∧ (u.ctx ck).walkRes = some (va.toNat, 0x09)
          ∧ (u.ctx ck).st = (if c.st = .blocked then .ready else c.st)))
  ∧ ∀ (s : State) (t : TlbInv), let a := s.focus.arg
      (s.chip a.pos).tlbinvs[a.n]? = some t →
      (t.users = none → NextWith (exec .tlbinvComplete s) fun u =>
        (∀ k e, Claims.cached u k e ↔ Claims.cached s k e ∧ ¬ Claims.covered t e)
        ∧ ∃ l, (u.chip a.pos).tlbinvs[a.n]? = some { t with users := some l })
      ∧ ∀ l, t.users = some l → l.all (userDone s) = true → (s.ctx t.ck).st ≠ .idle → 1 ≤ t.tok → ((s.ctx t.ck).tok t.tok).fire < 15 →
        NextWith (exec .tlbinvComplete s) fun u =>
          (u.chip a.pos).tlbinvs = (s.chip a.pos).tlbinvs.eraseIdx a.n
          ∧ (u.ctx t.ck).tok t.tok = { fire := ((s.ctx t.ck).tok t.tok).fire + 1, pend := false }

end

namespace Sys2Proof.Machine
open Sys2Proof

/-! ## What reaches a context (R109 to R111, R212, R259, R264, R276, R308, R314, R319, R326) -/

/-- The groups `g` of write `w` have landed (R109, R110): the lanes of them hold its value, every other is as it was, its flags are set, the
rest of it stays in flight, and an older write to the same register has lost those groups. -/
def Claims.Landed (s t : State) (ck : Nat) (w : Write) (g : BitVec 32) : Prop :=
  let c := s.ctx ck
  let u := t.ctx ck
  let lands := fun width i => w.lanes.getLsbD i && g.getLsbD (i / width) && w.groups.getLsbD (i / width)
  (∀ n, w.dest = .s n → (∀ b, b < 8 → (sget 0 u.sregs n).extractLsb' (8 * b) 8
      = if lands 4 b then w.val.extractLsb' (8 * b) 8 else (sget 0 c.sregs n).extractLsb' (8 * b) 8)
    ∧ (∀ m, m ≠ n → sget 0 u.sregs m = sget 0 c.sregs m) ∧ u.masks = c.masks ∧ t.mem = s.mem)
  ∧ (∀ n, w.dest = .m n → (∀ i, i < 128 → (u.m n).getLsbD i = if lands 32 i then w.val.getLsbD i else (c.m n).getLsbD i)
    ∧ (∀ m, m ≠ n → u.m m = c.m m) ∧ u.sregs = c.sregs ∧ t.mem = s.mem)
  ∧ (∀ n, w.dest = .v n → let a := vregAddr (ckCore ck) n
    (∀ b, b < 128 → t.mem.read (a + b) = if lands 4 b then w.val.extractLsb' (8 * b) 8 else s.mem.read (a + b))
    ∧ (∀ x, x < a ∨ a + 128 ≤ x → t.mem.read x = s.mem.read x) ∧ u.sregs = c.sregs ∧ u.masks = c.masks)
  ∧ u.flags &&& w.fl = w.fl ∧ u.flags &&& c.flags = c.flags
  ∧ (∀ x ∈ u.inflight, x.id = w.id → x.groups = w.groups &&& ~~~g)
  ∧ (w.groups &&& ~~~g = 0 → ∀ x ∈ u.inflight, x.id ≠ w.id)
  ∧ ∀ x ∈ u.inflight, x.dest = w.dest → x.id < w.id → ∀ n i,
      ((w.dest = .s n ∧ i < 8 ∨ w.dest = .v n ∧ i < 128) → lands 4 i = true → x.groups.getLsbD (i / 4) = false)
      ∧ (w.dest = .m n → i < 128 → lands 32 i = true → x.groups.getLsbD (i / 32) = false)

/-- A message leaves for another chiplet over a link that is up, with room for it, stamped with the CT (R9, R299). -/
def Claims.Sent (s u : State) (pos dst cls : Nat) (op : ZOp) : Prop :=
  let t := s.txOf pos dst cls
  let r := u.txOf pos dst cls
  let ct := s.ctOf pos
  r.wire = t.wire ++ [{ seq := t.next, op := op, cts := ct }] ∧ r.next = (t.next + 1) % 65536 ∧ r.wait = t.wait
    ∧ r.unacked = t.unacked ++ [{ seq := t.next, op := op, tag := .none, resends := 0, sent := ct, cts := ct }]
def Claims.open (s : State) (pos dst cls : Nat) : Prop :=
  ((s.link pos dst).st = 1 ∨ (s.link pos dst).st = 2) ∧ (s.txOf pos dst cls).unacked.length < 64 ∧ (s.txOf pos dst cls).wait = []

end Sys2Proof.Machine

section
open Sys2Proof Sys2Proof.Machine

/-- A result lands by 32-bit groups (R109, R110), a late write that a trap had captured whole (R314). A unit accepts the oldest
entry of its slot queues, the oldest bundle of the core's contexts first, and the results' bounds count from it (R111, R112); a local
access performs at once (R114). An abort is queued for its context in issue order: the destination keeps its value, the token loses
PEND (R212). A post reaches its token, or is discarded at an idle context, or leaves for the context's chiplet (R264); an operation on
an object is carried out at its home core, or leaves for it, and the answer to a request leaves for its context (R259); one that
waited there is carried out once it can be (R276, R324). -/
def Obligations.Deliveries : Prop :=
  (∀ (s : State), let a := s.focus.arg
      let ck := ctxKey a.pos a.core a.ctx
      let c := s.ctx ck
      unitOk a.pos a.core a.ctx = true →
      (∀ w, s.bad = [] → s.weak = [] → s.memOk → w ∈ c.inflight → (∀ x ∈ c.inflight, x.id = a.n → x = w) → w.id = a.n →
        w.ready = true → w.from + 1 ≤ s.now ck →
        (NextWith (exec .resultLanding s) fun u => Claims.Landed s u ck w (BitVec.ofNat 32 a.m))
        ∧ NextWith (exec .lateWriteReplay s) fun u => Claims.Landed s u ck w (BitVec.allOnes 32))
      ∧ (let first := fun id => ∀ y j, y < 4 → y ≠ ckCtx ck → (s.ctx (ckCore ck * 4 + y)).head? a.m = some j → id ≤ j
        let now := s.now ck
        let counts := fun (u : State) (ids : List Nat) => ∀ w ∈ c.inflight, w.id ∈ ids → w.acc = none →
          { w with acc := some now } ∈ (u.ctx ck).inflight
        let access := fun (q p : Ctx → List Access) (isT : Bool) => ∀ o r, q c = o :: r → first o.id →
          (o.isLocal = false → NextWith (exec .slotQueueAccept s) fun u =>
            q (u.ctx ck) = r ∧ (u.ctx ck).outst = c.outst ++ [{ o with acc := some now }] ∧ counts u [o.id])
          ∧ (o.isLocal = true → (∀ b ∈ p c, b.isLocal = true → o.bundle < b.bundle ∨ isT = false ∧ o.bundle = b.bundle) →
            NextWith (exec .slotQueueAccept s) fun u => q (u.ctx ck) = r ∧ p (u.ctx ck) = p c)
        (∀ o r, a.m = 0 → c.mq = o :: r → first o.id → NextWith (exec .slotQueueAccept s) fun u =>
          (u.ctx ck).mq = r ∧ (u.core (ckCore ck)).engine = (s.core (ckCore ck)).engine ++ [{ o with acc := some now }]
          ∧ counts u o.wids)
        ∧ (a.m = 1 → access (·.lq) (·.tq) false) ∧ (a.m = 2 → access (·.tq) (·.lq) true)
        ∧ ∀ o r, a.m = 3 → c.cq = o :: r → first o.id → NextWith (exec .slotQueueAccept s) fun u =>
          (u.ctx ck).cq = r ∧ (u.core (ckCore ck)).copies = ((s.core (ckCore ck)).copies.map fun x =>
              if o.kind = .cabort ∧ x.ch = o.ch ∧ x.ctx = o.ctx ∧ x.hart = none then { x with aborted := true } else x) ++ [o])
      ∧ ∀ o ∈ c.outst, o.aborted ≠ 0 → o.id = a.n → (∀ x ∈ c.outst, x.id = o.id → x = o) →
          (∀ x ∈ c.outst, x.aborted ≠ 0 → o.id ≤ x.id) → c.halted = false → c.st ≠ .idle → NextWith (exec .accessAbort s) fun u =>
            (u.ctx ck).outst = c.outst.filter (·.id != o.id) ∧ (u.ctx ck).inflight = c.inflight.filter (·.id != o.id)
            ∧ (u.ctx ck).sregs = c.sregs ∧ (u.ctx ck).masks = c.masks ∧ u.mem = s.mem
            ∧ (1 ≤ o.tok → (u.ctx ck).tok o.tok = { fire := (c.tok o.tok).fire, pend := false })
            ∧ ∃ f l r, c.async = l ++ r ∧ (u.ctx ck).async = l ++ f :: r ∧ f.cause = o.aborted ∧ f.tok = o.tok ∧ f.value = o.va
              ∧ ∀ x ∈ r, x.cy = s.now ck ∧ o.id < x.id)
  ∧ (∀ (s : State) (p : Post), s.posts[s.focus.arg.n]? = some p → (s.ctx p.src).allDone p.after = true →
      (ckPos p.src = ckPos p.ck → NextWith (exec .tokenPostArrival s) fun u =>
        u.posts = s.posts.eraseIdx s.focus.arg.n
        ∧ ((s.ctx p.ck).st = .idle → (u.ctx p.ck).toks = (s.ctx p.ck).toks ∧ (u.ctx p.ck).async = (s.ctx p.ck).async)
        ∧ ((s.ctx p.ck).st ≠ .idle → ((s.ctx p.ck).tok p.tok).fire < 15 → (u.ctx p.ck).tok p.tok
            = { fire := ((s.ctx p.ck).tok p.tok).fire + 1, pend := ((s.ctx p.ck).tok p.tok).pend })
        ∧ ((s.ctx p.ck).st ≠ .idle → (s.ctx p.ck).halted = false → 15 ≤ ((s.ctx p.ck).tok p.tok).fire →
            ∃ f ∈ (u.ctx p.ck).async, f.cause = 0x12 ∧ f.tok = p.tok))
      ∧ (ckPos p.src ≠ ckPos p.ck → Claims.open s (ckPos p.src) (ckPos p.ck) 4 → NextWith (exec .tokenPostArrival s) fun u =>
        u.posts = s.posts.eraseIdx s.focus.arg.n ∧ Claims.Sent s u (ckPos p.src) (ckPos p.ck) 4 (.post p)))
  ∧ (∀ (s : State) (m : ObjMsg), s.objMsgs[s.focus.arg.n]? = some m → (s.ctx m.ck).allDone m.after = true →
      (∀ x ∈ s.objMsgs.take s.focus.arg.n, x.ck = m.ck → x.addr = m.addr → ¬ (x.op = 7 ↔ m.op = 7)) →
      let s1 := { (if m.op = 0 ∨ m.op = 2 ∨ m.op = 3 then passStores s m.ck m.bundle m.scope else s) with
        objMsgs := s.objMsgs.eraseIdx s.focus.arg.n }
      let home := corePos (homeCore m.addr)
      (home = ckPos m.ck → m.op < 6 → objWaits s m.addr = false → (∀ x ∈ (s.core (homeCore m.addr)).waitObjs, x.addr ≠ m.addr) →
        (performObj s1 m).2 = none → exec .remoteObjectOperation s = .next (performObj s1 m).1)
      ∧ (home = ckPos m.ck → m.op = 6 → exec .remoteObjectOperation s = .next (withdrawReq s1 m))
      ∧ (home = ckPos m.ck → m.op = 7 → exec .remoteObjectOperation s = .next (reqAnswered s1 m))
      ∧ (home ≠ ckPos m.ck →
        (m.op ≠ 7 → Claims.open s (ckPos m.ck) home 4 → NextWith (exec .remoteObjectOperation s) fun u =>
          u.objMsgs = s1.objMsgs ∧ Claims.Sent s u (ckPos m.ck) home 4 (.obj m))
        ∧ (m.op = 7 → Claims.open s home (ckPos m.ck) 4 → NextWith (exec .remoteObjectOperation s) fun u =>
          u.objMsgs = s1.objMsgs ∧ Claims.Sent s u home (ckPos m.ck) 4 (.obj m))))
  ∧ ∀ (s : State) (m : ObjMsg), let a := s.focus.arg
      let k := coreKey a.pos a.core
      (s.core k).waitObjs[a.n]? = some m → homeCore m.addr = k → objWaits s m.addr = false →
      (∀ x ∈ (s.core k).waitObjs.take a.n, x.addr ≠ m.addr) → m.op < 6 →
      let left := (s.core k).waitObjs.eraseIdx a.n
      let s1 := s.modCore k fun c => { c with waitObjs := left.filter (·.addr ≠ m.addr) }
      (performObj s1 m).2 = none → NextWith (exec .objectRegistration s) fun u =>
        u.mem = (performObj s1 m).1.mem ∧ u.ctxs = (performObj s1 m).1.ctxs ∧ (u.core k).objs = ((performObj s1 m).1.core k).objs
        ∧ (u.core k).waitObjs = left.filter (·.addr ≠ m.addr) ++ left.filter (·.addr = m.addr)

end

namespace Sys2Proof.Machine
open Sys2Proof

/-- The context of an event stands at a bundle boundary of its own: it can issue, is in no stall, and its core is its own or comes to it
(R308). -/
structure Claims.Boundary (s : State) : Prop where
  ck    : s.fck = ctxKey s.focus.arg.pos s.focus.arg.core s.focus.arg.ctx
  live  : s.cur.live = true
  free  : s.cur.stalled = false
  holds : holder s.atIssue (ckCore s.fck) = some s.fck
  alone : (s.atIssue.core (ckCore s.fck)).consort = none

/-- A context that is about to take the asynchronous fault `f` (R316): `r` are those that stay; ROWPROG takes the progress of a stopped
operation, and younger M operations stay held until the handler of a fault of cause 0x17 returns (R244). -/
def Claims.taking (c : Ctx) (f : AsyncFault) (r : List AsyncFault) : Ctx :=
  { c with
    async := r, rowprog := f.rp.getD c.rowprog
    heldM := if f.cause = 0x17 then c.heldM.map fun h => (h.1, c.tl + 1) else c.heldM }
def Claims.asyncTrap (f : AsyncFault) : TrapInfo :=
  { cause := f.cause, own := f.own, tok := f.tok, isAsync := true, slots := f.slots, value := f.value }

end Sys2Proof.Machine

section
open Sys2Proof Sys2Proof.Machine

/-- What comes before a bundle (R308): an asynchronous fault that has arrived, whatever the bundle's checks say and with TRET at the
bundle that has not issued (R311, R316), and ROWPROG at a stopped operation's progress (R244); a step trap, with cause 0x1A and the index of the stepped bundle (R326); a user interrupt
that nothing comes before, which enters its handler with the channel in s8 and its CHWM in s9 (R319), and withdraws a request for
another core's object (R309). A core that no context has comes to the context first (R108). The order is that of log
entries 124 and 126. -/
def Obligations.BoundaryEvents : Prop :=
  (∀ (s : State) (i : Instr) (p : Pfx) (o : Parts) (f : AsyncFault) (r : List AsyncFault),
      partsOf i = some o → pfxOf? i = p → s.cur.live = true → s.cur.stalled = false →
      ¬ (s.cur.stepDue.isSome = true ∧ s.cur.tl = 0) →
      bundleHeld (s.env p [o]) [o] = none → s.cur.async = f :: r → Claims.handler s →
      s.cur.late.length + (Claims.captured s).length ≤ 96 →
      NextWith (exec i s) fun u =>
        let c := s.cur
        let e := Claims.entered (Claims.taking c f r) (Claims.asyncTrap f) c.pc (s.atIssue.now s.fck) (Claims.captured s)
        u.ctx s.fck = { e with walkVa := c.walkVa, walkMig := c.walkMig, walkRes := c.walkRes } ∧ Claims.TrapFrame s u (s.atIssue.core (ckCore s.fck)))
  ∧ (∀ (s : State), Claims.Boundary s →
      let b := passOn s.atIssue (ckCore s.fck) s.fck
      let c := b.ctx s.fck
      let fits := Claims.handler s ∧ c.late.length + (Claims.captured s).length ≤ 96
      let kept := fun e : Ctx => { e with walkVa := c.walkVa, walkMig := c.walkMig, walkRes := c.walkRes }
      (∀ f r, c.async = f :: r → ¬ (c.stepDue.isSome = true ∧ c.tl = 0) → heldNext s.atIssue s.fck = false → fits →
        NextWith (exec .trapAsync s) fun u =>
          u.ctx s.fck = kept (Claims.entered (Claims.taking c f r) (Claims.asyncTrap f) c.pc (b.now s.fck) (Claims.captured s))
          ∧ Claims.TrapFrame s u (b.core (ckCore s.fck)))
      ∧ (∀ n, c.ui.en = true → c.ui.inh = false → c.tl = 0 → n < 8 → c.ui.pend.testBit n = true →
        (∀ m, m < n → c.ui.pend.testBit m = false) → c.stepDue = none → heldNext s.atIssue s.fck = false → c.async = [] →
        trapsNext s.atIssue s.fck = false → preemptPoint s.atIssue s.fck = false →
        NextWith (exec .userInterrupt s) fun u =>
          (∃ v, (∀ m, m < 8 → v.testBit m = (c.ui.pend.testBit m && m != n))
            ∧ u.ctx s.fck = { c with ui := { c.ui with inh := true, pend := v, pc := BitVec.ofNat 32 c.pc }, pc := c.ui.vec.toNat
                                     sregs := sput (sput c.sregs 272 (BitVec.ofNat 64 n)) 273 (sget 0 (b.core (ckCore s.fck)).chwm n)
                                     fetched := none, fillBad := none, pendStr := sput c.pendStr 1 [], objReq := none })
          ∧ (c.objReq = none → SameElse b u s.fck ∧ u.core (ckCore s.fck) = b.core (ckCore s.fck))
          ∧ ∀ m x, c.objReq = some (m, x) → x ≠ some false → u.objMsgs = b.objMsgs ++ [{ m with op := 6, after := [] }])
      ∧ ∀ idx y, c.stepDue = some (idx, y) → c.tl = 0 → c.async = [] → c.dbgDrain = false → fits →
        NextWith (exec .stepTrap s) fun u =>
          u.ctx s.fck = kept (Claims.entered { c with stepDue := none, dbgStepped := true }
            { cause := 0x1A, own := 0, tok := 0, isAsync := false, slots := 0, value := BitVec.ofNat 64 idx } c.pc
            (b.now s.fck) (Claims.captured s))
          ∧ Claims.TrapFrame s u (b.core (ckCore s.fck)))

end

namespace Sys2Proof.Machine
open Sys2Proof

/-! ## The copy engine and the matrix engine at work (R220 to R228, R240 to R257) -/

/-- The token of an operation fires (R261): FIRE grows by 1 and PEND becomes 0; token 0 is no token. -/
def Claims.Fires (s u : State) (ck n : Nat) : Prop :=
  1 ≤ n → ((s.ctx ck).tok n).fire < 15 → (u.ctx ck).tok n = { fire := ((s.ctx ck).tok n).fire + 1, pend := false }

/-- Every token of a list has lost one firing for each time that it is named (R262). -/
def Claims.Consumed (s u : State) (ck : Nat) (ks : List Nat) : Prop :=
  ∀ t, 1 ≤ t → (u.ctx ck).tok t = { (s.ctx ck).tok t with fire := ((s.ctx ck).tok t).fire - ks.count t }
def Claims.fired (s : State) (ck : Nat) (ks : List Nat) : Prop := ∀ t ∈ ks, t = 0 ∨ 1 ≤ ((s.ctx ck).tok t).fire

/-- The one copy of the core that an event names, of a context, that nothing stops, in memory without errors. -/
structure Claims.OneCopy (s : State) (k : Nat) (o : CopyOp) : Prop where
  core  : k = coreKey s.focus.arg.pos s.focus.arg.core ∧ corePos k < 4
  one   : (s.core k).copies = [o] ∧ s.focus.arg.n = 0
  ctx   : o.hart = none
  calm  : o.foreign = [] ∧ o.holds = [] ∧ o.credits = [] ∧ o.stop? = none ∧ o.migs = [] ∧ o.aborted = false ∧ o.ended = false
  past  : (s.core k).past = [] ∧ Claims.noneSeen s
  clean : s.bad = [] ∧ s.weak = [] ∧ s.images = [] ∧ s.memOk

/-- The address of a copy's read or write translates to DRAM of the core's own chiplet. -/
def Claims.reaches (s : State) (k : Nat) (o : CopyOp) (need : Nat) (wr amo : Bool) (n : Nat) (va : W64) (pa : Nat) : Prop :=
  copyAddr s k (o.acc k need wr amo) s.focus.arg.flag s.focus.arg.peer n va = (.ok pa (.dram (corePos k)), s)
    ∧ placeOf s (corePos k) pa = .dram (corePos k)

end Sys2Proof.Machine

section
open Sys2Proof Sys2Proof.Machine

/-- The copy engine (R220 to R228): an accepted copy starts once its tokens have fired, and consumes them; an XAMO performs its
atomic then, and leaves the old value in its block. A chunk inside one page of the source and of the destination moves its bytes,
and no other byte changes. A chain record that software owns ends its chain; else its copy is made, and its OWN bit cleared; one with a
reserved bit ends it without firing KO, and one that is not aligned stops it. A copy that has moved everything completes: CHWM grows by
1, KO fires, the flags are set, and UN raises the channel's bit of PEND. A multicast's credits are applied once they are due. Chains
and stopped copies follow log entries 44 to 46 and 116. -/
def Obligations.CopyEngineSteps : Prop :=
  (∀ (s : State) (k : Nat) (o : CopyOp), Claims.OneCopy s k o →
    let ck := k * 4 + o.ctx
    let n := Nat.min (Nat.min (o.shape.cnt 0) (4096 - o.dst.toNat % 4096)) (4096 - o.src.toNat % 4096)
    (o.started = false → (s.core k).engine = [] → Claims.fired s ck o.kis →
      (o.kind ≠ .xamo → o.kind ≠ .cabort → NextWith (exec .copyStart s) fun u =>
        (u.core k).copies = [{ o with started := true }] ∧ Claims.Consumed s u ck o.kis ∧ u.mem = s.mem)
      ∧ ∀ bpa tpa, o.kind = .xamo → o.aop ≤ 10 → (o.aop = 10 → o.w32 = true) → Claims.reaches s k o (pteER + pteEW) true false 16 o.src bpa →
        let w := if o.w32 then 4 else 8
        Claims.reaches s k o (pteER + pteEW) true true w o.dst tpa →
        placeOf s (corePos k) (bpa + 8) = .dram (corePos k) → bpa + 16 ≤ tpa ∨ tpa + w ≤ bpa →
        NextWith (exec .copyStart s) fun u =>
          let m := s.mem.readLE tpa w
          u.mem.readLE tpa w = Claims.atomic o.aop (8 * w) m (s.mem.readLE bpa 8 % 2 ^ (8 * w)) (s.mem.readLE (bpa + 8) 8 % 2 ^ (8 * w))
          ∧ u.mem.readLE (bpa + 8) 8 = ofSigned 64 (toSigned (8 * w) m) ∧ u.mem.readLE bpa 8 = s.mem.readLE bpa 8
          ∧ Claims.Consumed s u ck o.kis ∧ ∃ o1, (u.core k).copies = [o1] ∧ o1.started = true)
    ∧ (∀ spa dpa, o.started = true → o.kind = .cpy → o.wl = false → o.chunks = [] → o.rec? = none → o.shape.runs = 1 → 1 ≤ n →
      s.focus.arg.m = 0 → s.focus.arg.idx = 0 → s.focus.arg.gid = 0 →
      o.src.toNat + o.shape.cnt 0 ≤ o.dst.toNat ∨ o.dst.toNat + o.shape.cnt 0 ≤ o.src.toNat → o.src.toNat < 2 ^ 48 → o.dst.toNat < 2 ^ 48 →
      spa + n ≤ dpa ∨ dpa + n ≤ spa → Claims.reaches s k o pteER false false n o.src spa →
      Claims.reaches s k o pteEW true false n o.dst dpa →
      NextWith (exec .copyChunk s) fun u =>
        (∀ i, i < n → u.mem.read (dpa + i) = s.mem.read (spa + i)) ∧ (∀ x, x < dpa ∨ dpa + n ≤ x → u.mem.read x = s.mem.read x)
        ∧ (u.core k).copies = [{ o with chunks := [{ run := 0, off := 0, len := n, tgt := 0, spa := spa, dpa := dpa, stage := 2 }] }])
    ∧ (o.started = true → o.kind = .chain → o.rec? = none → o.inFlight = false → o.nextRec % 32 ≠ 0 →
      NextWith (exec .chainRecord s) fun u => (u.core k).copies = [] ∧ u.mem = s.mem)
    ∧ (∀ pa, o.started = true → o.kind = .chain → o.chunks = [] → o.rec? = none → o.nextRec % 32 = 0 →
      Claims.reaches s k o (pteER + pteEW) false false 32 (BitVec.ofNat 64 o.nextRec) pa →
      NextWith (exec .chainRecord s) fun u =>
        let w := fun i => s.mem.readLE (pa + 8 * i) 8
        u.mem = s.mem
        ∧ ((w 0).testBit 63 = false → (u.core k).copies = [{ o with ended := true }])
        ∧ ((w 0).testBit 63 = true → w 0 / 2 ^ 48 % 2 ^ 15 = 0 → w 1 / 2 ^ 52 = 0 → w 2 = 0 → w 3 / 2 ^ 48 = 0 →
            (u.core k).copies = [{ o with rec? := some (o.nextRec, w 0 % 2 ^ 48, w 1 % 2 ^ 48, w 1 / 2 ^ 48 % 16), nextRec := w 3 % 2 ^ 48 }])
        ∧ ((w 0).testBit 63 = true → ¬ (w 0 / 2 ^ 48 % 2 ^ 15 = 0 ∧ w 1 / 2 ^ 52 = 0 ∧ w 2 = 0 ∧ w 3 / 2 ^ 48 = 0) →
            (u.core k).copies = [{ o with ended := true, ko := 0 }]))
    ∧ (∀ pa a src dst sh, o.started = true → o.kind = .chain → o.rec? = some (a, src, dst, sh) → o.performed = o.total → o.inFlight = false → src < 2 ^ 64 →
      Claims.reaches s k o pteEW true false 8 (BitVec.ofNat 64 a) pa →
      NextWith (exec .chainRecord s) fun u =>
        u.mem.readLE pa 8 = src ∧ (∀ x, x < pa ∨ pa + 8 ≤ x → u.mem.read x = s.mem.read x)
        ∧ (u.core k).copies = [{ o with rec? := none, chunks := [], wrote := o.wrote ++ o.landedSpans, ended := o.nextRec == 0 }])
    ∧ (o.allMoved = true → ((s.ctx ck).tok o.ko).fire < 15 → NextWith (exec .copyComplete s) fun u =>
        (u.core k).copies = [] ∧ sget 0 (u.core k).chwm o.ch = sget 0 (s.core k).chwm o.ch + 1 ∧ u.mem = s.mem
        ∧ Claims.Fires s u ck o.ko ∧ (u.ctx ck).flags = (s.ctx ck).flags ||| o.fl
        ∧ (u.ctx ck).ui.pend = if o.un then (s.ctx ck).ui.pend ||| 2 ^ o.ch else (s.ctx ck).ui.pend))
  ∧ ∀ (s : State) (t node pa len b : Nat) (ob : Obj), let k := coreKey s.focus.arg.pos s.focus.arg.core
      let a := ob.addr
      (s.core k).credQ = [(t, node, [(pa, len)])] → (t ≤ s.ctOf (corePos k) →
        homeCore pa = k → (s.core k).objs = [ob] → Claims.Object s .barrier a ob → homeCore a = k → b < 32 →
        (barMask s a).testBit b = true → winBase k + b * 0x20000 ≤ pa → pa + len ≤ winBase k + (b + 1) * 0x20000 → 1 ≤ len →
        NextWith (exec .multicastCredit s) fun u =>
          (u.core k).credQ = [] ∧ Claims.Updated s u a 32
          ∧ barArrived u a = barArrived s a ∧ barPhase u a = barPhase s a ∧ barExpect u a = barExpect s a ∧ barMask u a = barMask s a
          ∧ toSigned 48 (barBytes u a) = toSigned 48 (ofSigned 48 (toSigned 48 (barBytes s a) - len)))
      ∧ (s.ctOf (corePos k) < t → NextWith (exec .multicastCredit s) fun u => u = s)

end

namespace Sys2Proof.Machine
open Sys2Proof

/-- The one operation of the core's matrix engine, which an event names, in memory without errors. -/
structure Claims.OneEng (s : State) (k : Nat) (o : EngOp) : Prop where
  core  : k = coreKey s.focus.arg.pos s.focus.arg.core ∧ corePos k < 4 ∧ corePhys k < 34 ∧ o.ctx < 4
  one   : (s.core k).engine = [o] ∧ s.focus.arg.n = 0
  calm  : o.migs = [] ∧ o.got = [] ∧ o.outs = [] ∧ (s.core k).copies = [] ∧ (s.ctx (k * 4 + o.ctx)).heldM = none
    ∧ (s.ctx (k * 4 + o.ctx)).st ≠ .idle ∧ (s.ctx (k * 4 + o.ctx)).halted = false ∧ o.tile < 64
  old   : ∀ x ∈ (s.ctx (k * 4 + o.ctx)).async, x.cy < s.now (k * 4 + o.ctx)
  clean : s.bad = [] ∧ s.weak = [] ∧ s.memOk ∧ Claims.noneSeen s

/-- A load pipe finds the `n` bytes at `a` in DRAM of the core's own chiplet (R239). -/
def Claims.pipes (s : State) (k : Nat) (o : EngOp) (isB : Bool) (a n pa : Nat) : Prop :=
  pipeAddr s k isB (o.rights k pteER false) s.focus.arg.flag s.focus.arg.peer n (BitVec.ofNat 64 a) = (.ok pa (.dram (corePos k)), s)

/-- The pieces of A or of B that the pipes read, and what the rows are worth whose pieces lie at the addresses `pm` (R237, R239). -/
def Claims.pieces (o : EngOp) (isB : Bool) : List (List (Nat × Nat)) :=
  if isB then operandPieces o (descBbase o.desc) (descBstr o.desc) (fmtBits (fmtB o.f))
  else operandPieces o (descAbase o.desc) (descAstr o.desc) (fmtBits (fmtA o.f))
def Claims.rows (s : State) (o : EngOp) (isB : Bool) (pm : Nat → Nat) : List Nat :=
  let w := fmtBits (if isB then fmtB o.f else fmtA o.f)
  (Claims.pieces o isB).map fun l => leValue (l.flatMap fun p => s.mem.readBytes (pm p.1) p.2) * 2 ^ (8 * (o.k0 * w / 8))

/-- The scale bytes of the 64 rows or columns of a mode, from an offset of the issuing core's scratchpad (R237). -/
def Claims.scales (s : State) (k off mode nb : Nat) : List Nat :=
  (List.range (64 * (if mode = 1 then nb else if mode = 2 then 1 else 0))).map fun n => s.mem.readLE (winBase k + (off + n) % 0x400000) 1

/-- Element n of a row of A or column of B, as an integer of a format of `w` bits. -/
def Claims.elem (w : Nat) (sg : Bool) (row n : Nat) : Int := Claims.int w sg (row / 2 ^ (w * n) % 2 ^ w)

/-- Cell x of tile `t` of core `k`. -/
def Claims.cell (s : State) (k t x : Nat) : Nat := s.mem.readLE (tileAddr k t + 4 * x) 4

/-- The sum of the products of K steps k0 to hi − 1 of cell x (R242). -/
def Claims.dot (o : EngOp) (wa wb : Nat) (sa sb : Bool) (hi x : Nat) : Int :=
  (List.range (hi - o.k0)).foldl (fun z n =>
    z + Claims.elem wa sa (o.aRows.getD (x / 64) 0) (o.k0 + n) * Claims.elem wb sb (o.bRows.getD (x % 64) 0) (o.k0 + n)) 0

/-- Nothing but tile `t` of core `k` changes in memory. -/
def Claims.OnlyTile (s u : State) (k t : Nat) : Prop :=
  ∀ x, x < tileAddr k t ∨ tileAddr k t + 0x4000 ≤ x → u.mem.read x = s.mem.read x

/-- An operation that stops with an own cause leaves the engine; its context takes 0x17 with the address and, where it streams, the progress,
its token loses PEND, and younger M operations are held (R244, R316). -/
def Claims.EngStops (s u : State) (k : Nat) (o : EngOp) (own : Nat) (va : W64) : Prop :=
  let ck := k * 4 + o.ctx
  (u.core k).engine = [] ∧ (1 ≤ o.f.ko.toNat → ((u.ctx ck).tok o.f.ko.toNat).pend = false)
    ∧ (u.ctx ck).heldM = some (o.bundle, 0)
    ∧ ∃ f, (u.ctx ck).async = (s.ctx ck).async ++ [f] ∧ f.cause = 0x17 ∧ f.own = own ∧ f.tok = o.f.ko.toNat ∧ f.value = va

end Sys2Proof.Machine

section
open Sys2Proof Sys2Proof.Machine

/-- The matrix engine (R240 to R257): an operation starts once its tokens have fired, and consumes them, a streaming one with its
operands and scales read. A product of integer formats without scales, under profile 1, adds the sums of products to its cells modulo 2^32,
from 0 for MMAZ; MZERO clears a tile, MFCLR empties and releases F, a count of I4 operands counts each product's magnitude with its
sign (R248), and KO fires. A K-blocked count counts and drains one block at a time. An operation whose read has failed stops, with
its cells at the K steps done, and so does an MMAC that the checker finds wrong, which raises the core's SUSPECT score of M. A peer
contribution with the next index is added, an earlier one is refused, a later one held (R253). Operands are read at the start and
results written at the end, by the model's choice (log entries 23, 39 and 48). -/
def Obligations.MatrixEngineSteps : Prop :=
  ∀ (s : State) (k : Nat) (o : EngOp), Claims.OneEng s k o →
    let ck := k * 4 + o.ctx
    let kis := [o.f.ki1.toNat, o.f.ki2.toNat, o.f.ki3.toNat]
    let fret := 0x10 ≤ o.op ∧ o.op ≤ 0x16
    let ints := fun wa wb sa sb => fmtBits (fmtA o.f) = wa ∧ (fmtD (fmtA o.f)).kind = .int sa ∧ fmtBits (fmtB o.f) = wb
      ∧ (fmtD (fmtB o.f)).kind = .int sb ∧ descAsm o.desc = 0 ∧ descBsm o.desc = 0 ∧ o.prof = 1
    let runs := o.loaded = true ∧ o.abort? = none
    let fresh := o.started = false ∧ o.loaded = false
    let done := fun u : State => (u.core k).engine = [] ∧ (o.wids = [] → Claims.Fires s u ck o.f.ko.toNat)
    (fresh → Claims.fired s ck kis → (fret → (s.core k).fOwner = none ∨ (s.core k).fOwner = some o.ctx) →
      let starts := fun (P : EngOp → Prop) => NextWith (exec .engineOpStart s) fun u =>
        (∃ o1, (u.core k).engine = [o1] ∧ P o1) ∧ Claims.Consumed s u ck kis ∧ (fret → (u.core k).fOwner = some o.ctx) ∧ u.mem = s.mem
      let sclA := Claims.scales s k (descAsoff o.desc) (descAsm o.desc) o.nb
      let sclB := Claims.scales s k (descBsoff o.desc) (descBsm o.desc) o.nb
      (o.op ≤ 0x07 ∨ 0x12 ≤ o.op → o.op ≠ 0x15 → o.op ≠ 0x1B → starts fun o1 => o1 = { o with started := true, loaded := true })
      ∧ (o.op = 0x15 → starts fun o1 => o1 = { o with started := true, loaded := true, aScl := sclA, bScl := sclB, kOk := 1, abort? := none })
      ∧ (o.op = 0x1B → starts fun o1 =>
        o1 = { o with started := true, loaded := true, cells := (List.range 4096).map (Claims.cell s k o.tile), abort? := none })
      ∧ ∀ pm : Bool → Nat → Nat, 0x08 ≤ o.op ∧ o.op ≤ 0x0B ∨ o.op = 0x10 ∨ o.op = 0x11 →
        (∀ isB, ∀ l ∈ Claims.pieces o isB, ∀ p ∈ l, Claims.pipes s k o isB p.1 p.2 (pm isB p.1)) →
        starts fun o1 => o1 = { o with started := true, loaded := true, aRows := Claims.rows s o false (pm false), aScl := sclA
                                       bRows := Claims.rows s o true (pm true), bScl := sclB, kOk := o.k, abort? := none })
    ∧ (runs →
      (∀ wa wb sa sb, 0x08 ≤ o.op → o.op ≤ 0x0B → ints wa wb sa sb → NextWith (exec .engineOpComplete s) fun u =>
        done u ∧ Claims.OnlyTile s u k o.tile
        ∧ ∀ x, x < 4096 → (Claims.cell u k o.tile x : Int)
          = ((if o.op = 0x09 then 0 else (Claims.cell s k o.tile x : Int)) + Claims.dot o wa wb sa sb o.k x) % 2 ^ 32)
      ∧ (o.op = 0x18 → NextWith (exec .engineOpComplete s) fun u =>
        done u ∧ Claims.OnlyTile s u k o.tile ∧ ∀ x, x < 4096 → Claims.cell u k o.tile x = 0)
      ∧ (o.op = 0x16 → NextWith (exec .engineOpComplete s) fun u =>
        done u ∧ u.mem = s.mem ∧ (u.core k).fbank = [] ∧ (u.core k).fDep = 0 ∧ (u.core k).fOwner = none)
      ∧ (o.op = 0x10 → (s.core k).fbank = [] → fmtA o.f = 1 → fmtB o.f = 1 → o.pair = 1 → descAsm o.desc = 0 → descBsm o.desc = 0 → o.k0 < o.k →
        NextWith (exec .engineOpComplete s) fun u =>
          done u ∧ u.mem = s.mem ∧ (u.core k).fDep = (s.core k).fDep + (o.k - o.k0) ∧ (u.core k).fOwner = (s.core k).fOwner
          ∧ ∀ (x c m : Nat), x < 4096 → (magsOf 1)[c]? = some m →
            let p := fun n => Claims.elem 4 true (o.aRows.getD (x / 64) 0) (o.k0 + n) * Claims.elem 4 true (o.bRows.getD (x % 64) 0) (o.k0 + n)
            let ns := List.range (o.k - o.k0)
            (sget noCounts (u.core k).fbank x).getD c 0
              = ((ns.filter fun n => p n == (m : Int)).length : Int) - ((ns.filter fun n => p n == -(m : Int)).length : Int))
      ∧ (∀ hi, o.op = 0x10 ∨ o.op = 0x11 → o.kblk = true → o.blk < (o.k + 127) / 128 → hi = Nat.min o.k (128 * (o.blk + 1)) → hi ≤ o.kOk →
        NextWith (exec .fretAutoDrain s) fun u =>
          Claims.OnlyTile s u k o.tile ∧ (u.core k).fbank = (s.core k).fbank ∧ (u.core k).fDep = (s.core k).fDep
          ∧ ∃ f, (u.core k).engine = [{ o with blk := o.blk + 1, fl := f }])
      ∧ (o.op = 0x0A → s.focus.arg.flag = true → NextWith (exec .engineOpStop s) fun u =>
        Claims.EngStops s u k o 0x0E 0 ∧ u.mem = s.mem ∧ sget 0 (u.core k).suspect 3 = Nat.min 255 (sget 0 (s.core k).suspect 3 + 1)))
    ∧ (∀ c va wa wb sa sb, o.loaded = true → o.abort? = some (c, va) → o.op = 0x08 ∨ o.op = 0x09 ∨ o.op = 0x0B → ints wa wb sa sb →
      NextWith (exec .engineOpStop s) fun u =>
        let hi := Nat.max o.k0 o.kOk
        Claims.EngStops s u k o c va ∧ Claims.OnlyTile s u k o.tile
        ∧ (∀ x, x < 4096 → (Claims.cell u k o.tile x : Int)
          = ((if o.op = 0x09 then 0 else (Claims.cell s k o.tile x : Int)) + Claims.dot o wa wb sa sb hi x) % 2 ^ 32)
        ∧ ∃ f w, (u.ctx ck).async.getLast? = some f ∧ f.rp = some w ∧ w.toNat % 2 ^ 15 = hi % 2 ^ 15 ∧ w.getLsbD 31 = true)
    ∧ ∀ h t, let pa := o.desc.toNat % 2 ^ 46
      let i := o.f.mf.toNat % 32
      let q := sget 0 (s.core h).pseq t
      o.op = 0x1B → runs → o.blk = 0 → h = homeCore pa → corePos h = corePos k → t < 64 → pa % 2 ^ 24 = 0x400000 + 0x4000 * t →
      placeOf s (corePos k) pa = .window h (pa % 2 ^ 24) → (s.core h).peer = [] →
      (q ≤ i → NextWith (exec .peerContribution s) fun u =>
        (i = q → Claims.OnlyTile s u h t ∧ sget 0 (u.core h).pseq t = i + 1
          ∧ (o.f.mf.getLsbD 5 = true → ∀ x, x < 4096 → Claims.cell u h t x = (Claims.cell s h t x + o.cells.getD x 0) % 2 ^ 32 ∨ o.cells.length ≤ x)
          ∧ ∃ f, (u.core k).engine = [{ o with blk := 1, fl := f }])
        ∧ (q < i → u.mem = s.mem ∧ (u.core h).peer.length = 1 ∧ (u.core k).engine = [o]))
      ∧ (i < q → NextWith (exec .peerContribution s) fun u => Claims.EngStops s u k o 0x01 o.sp ∧ u.mem = s.mem)

end

namespace Sys2Proof.Machine
open Sys2Proof
/-! ## Links (R294 to R302, R380) -/

/-- The class-7 messages on their way from `p` to `q`. -/
def Claims.acks (s : State) (p q : Nat) : List AckMsg := sget [] (s.chip p).acks q

/-- Chiplet `pos` holds evidence of a source against `peer` (R338), where `peer` is a chiplet that the quorum counts and its Bridge runs. -/
def Claims.Accused (s u : State) (pos peer source : Nat) : Prop :=
  ((s.chip pos).br.dec ||| s.quorum.cand).testBit peer = true → (s.chip pos).br.halted = false →
    ∃ e, (u.chip pos).br.evid = (s.chip pos).br.evid ++ [e] ∧ e.accused = peer ∧ e.source = source ∧ e.reporter = pos ∧ e.ct = s.ctOf pos

/-- Piece `j` of an access waits for its message, and not alone. -/
structure Claims.Waits (s : State) (ck id j : Nat) (o : Access) : Prop where
  has  : (s.ctx ck).outst.find? (fun x => x.id == id) = some o
  one  : ∀ x ∈ (s.ctx ck).outst, x.id = id → x = o
  sent : o.sent.contains j = true ∧ o.done.contains j = false ∧ o.aborted = 0
  more : o.done.length + 1 < o.pieces.length

/-- What has become of the access. -/
def Claims.access (u : State) (ck id : Nat) (P : Access → Prop) : Prop := ∃ o, (u.ctx ck).outst.find? (fun x => x.id == id) = some o ∧ P o

end Sys2Proof.Machine

section
open Sys2Proof Sys2Proof.Machine

/-- The links. A receiver carries out the message it expects, counts it, and acknowledges it with the old value of an atomic; a
duplicate is acknowledged again with the stored value and changes nothing; a gap is counted and is evidence; a message whose errors
fail HCHK is discarded, and one that they fail only by its CRC has its class named in one NAK, but for class 7 and the classes above
it (R301, R302). A message of a closed link is discarded (R336). A sender drops what is acknowledged, sends what
a NAK names again, and what is not acknowledged within 12,000 counts, at most 3 times; then it has failed: its access aborts with
0x15, and it is evidence (R300). A read whose response does not come within 60,000 counts fails (R380). A flit replay is only
counted (R294). A link that retrains holds both ends' timers; one that does not succeed within 60,000 counts is down, and fails all
that it held (R295). The wires follow log entries 40, 60, 113 and 120. -/
def Obligations.Links : Prop :=
  ∀ (s : State), let a := s.focus.arg
    let pos := a.pos
    let peer := a.peer
    let l := s.link pos peer
    let ct := s.ctOf pos
    linkOk pos peer = true →
    (∀ w rest, a.cls ≤ 6 → l.st = 2 → (s.txOf peer pos a.cls).wire = w :: rest →
      let seq := w.seq
      let op := w.op
      let e := fun i => a.bytes.getD i 0
      let n := 16 + 16 * lenUnits op.payload
      let intact := ∀ x ∈ a.bytes, x = 0
      let hchk := crc8 ((List.range 15).map e) = e 15
      let crc := crcLin ((List.range n).map e) = leValue ((List.range 4).map fun i => e (n + i))
      let c := a.cls ^^^ (e 7).toNat % 16
      let r := s.rxOf pos peer a.cls
      let back := (r.e + 65536 - seq) % 65536
      let answered := fun (u : State) (old : W64) =>
        (u.txOf peer pos a.cls).wire = rest
        ∧ ((u.rxOf pos peer a.cls).e = (r.e + 1) % 65536 ∧ (u.rxOf pos peer a.cls).nak = false ∧ (u.rxOf pos peer a.cls).gap = false)
        ∧ Claims.acks u pos peer = Claims.acks s pos peer ++ [{ cls := a.cls, seq := seq, nak := false, old := old, fl := 0, ok := true, cts := ct }]
      (intact → seq = r.e →
        (∀ pa bs, op = .write pa bs false false → placeOf s pos pa = .dram pos → s.bad = [] → s.weak = [] → s.memOk →
          NextWith (exec .zmlReceive s) fun u => answered u 0
            ∧ (∀ i, i < bs.length → u.mem.read (pa + i) = bs.getD i 0) ∧ ∀ x, x < pa ∨ pa + bs.length ≤ x → u.mem.read x = s.mem.read x)
        ∧ (∀ pa aop n x e, op = .amo pa aop n x e false → aop ≤ 9 → n = 4 ∨ n = 8 → placeOf s pos pa = .dram pos → s.bad = [] → s.weak = [] →
          s.memOk → NextWith (exec .zmlReceive s) fun u => answered u (BitVec.ofNat 64 (s.mem.readLE pa n))
            ∧ u.mem.readLE pa n = Claims.atomic aop (8 * n) (s.mem.readLE pa n) (x.toNat % 2 ^ (8 * n)) (e.toNat % 2 ^ (8 * n)))
        ∧ (∀ gid idx slot src, op = .token gid idx slot src → NextWith (exec .zmlReceive s) fun u => answered u 0 ∧ u.mem = s.mem
            ∧ (u.eng pos).tokQ = (s.eng pos).tokQ ++ [{ gid := gid, idx := idx, slot := slot, src := src }]))
      ∧ (intact → 1 ≤ back → back ≤ 64 → NextWith (exec .zmlReceive s) fun u =>
        u.mem = s.mem ∧ u.rxOf pos peer a.cls = r ∧ (u.link pos peer).dup = Nat.min 0xFFFF (l.dup + 1)
        ∧ ∀ k, r.window.find? (fun x => x.seq == seq) = some k → Claims.acks u pos peer = Claims.acks s pos peer ++ [{ k with cts := ct }])
      ∧ (intact → seq ≠ r.e → 64 < back → r.nak = false → r.gap = false → NextWith (exec .zmlReceive s) fun u =>
        u.mem = s.mem ∧ (u.rxOf pos peer a.cls).e = r.e ∧ (u.rxOf pos peer a.cls).gap = true
        ∧ (u.link pos peer).gaps = Nat.min 0xFF (l.gaps + 1) ∧ Claims.acks u pos peer = Claims.acks s pos peer ∧ Claims.Accused s u pos peer 0)
      ∧ (¬ hchk ∨ 8 ≤ c ∨ ¬ crc ∧ c = 7 → NextWith (exec .zmlReceive s) fun u =>
        u.mem = s.mem ∧ u.rxOf pos peer a.cls = r ∧ (u.link pos peer).e2ee = Nat.min 0xFFFF (l.e2ee + 1)
        ∧ Claims.acks u pos peer = Claims.acks s pos peer)
      ∧ (hchk → c < 7 → ¬ crc → let r := s.rxOf pos peer c
        NextWith (exec .zmlReceive s) fun u =>
        u.mem = s.mem ∧ (u.rxOf pos peer c).e = r.e ∧ (u.rxOf pos peer c).nak = true
        ∧ (u.link pos peer).e2ee = Nat.min 0xFFFF (l.e2ee + 1)
        ∧ (r.nak = true → Claims.acks u pos peer = Claims.acks s pos peer)
        ∧ (r.nak = false → ∃ k, Claims.acks u pos peer = Claims.acks s pos peer ++ [k] ∧ k.nak = true ∧ k.seq = r.e ∧ k.cls = c)))
    ∧ (∀ w rest, a.cls ≤ 6 → l.st = 3 → (s.txOf peer pos a.cls).wire = w :: rest → NextWith (exec .zmlReceive s) fun u =>
      (u.txOf peer pos a.cls).wire = rest ∧ u.mem = s.mem ∧ u.rxOf pos peer a.cls = s.rxOf pos peer a.cls
      ∧ Claims.acks u pos peer = Claims.acks s pos peer)
    ∧ (∀ k m rest, l.st = 2 → Claims.acks s peer pos = k :: rest → k.nak = false →
      (s.txOf pos peer k.cls).unacked.find? (fun x => x.seq == k.seq) = some m → (s.txOf pos peer k.cls).wait = [] →
      let base := fun u : State => (u.txOf pos peer k.cls).unacked = (s.txOf pos peer k.cls).unacked.filter (·.seq != k.seq)
        ∧ Claims.acks u peer pos = rest
      (∀ gid idx slot src, m.op = .token gid idx slot src → NextWith (exec .zmlAckReceive s) fun u => base u ∧ u.ctxs = s.ctxs)
      ∧ ∀ pa bs nd cp ck id j o, m.op = .write pa bs nd cp → m.tag = .acc ck id j → Claims.Waits s ck id j o →
        NextWith (exec .zmlAckReceive s) fun u => base u
          ∧ (k.ok = true → Claims.access u ck id fun x => x.done = j :: o.done ∧ x.sent = o.sent.filter (· ≠ j) ∧ x.aborted = 0)
          ∧ (k.ok = false → Claims.access u ck id fun x => x.aborted = 0x0F))
    ∧ (∀ k rest, l.st = 2 → Claims.acks s peer pos = k :: rest → k.nak = true →
      let t := s.txOf pos peer k.cls
      let again := t.unacked.filter fun m => decide ((m.seq + 65536 - k.seq) % 65536 < 32768)
      (t.unacked.map (·.seq)).Nodup → (∀ m ∈ t.unacked, m.resends < 3) → NextWith (exec .zmlNakReceive s) fun u =>
        (u.txOf pos peer k.cls).wire = t.wire ++ again.map (fun m => { seq := m.seq, op := m.op, cts := m.cts })
        ∧ (u.txOf pos peer k.cls).unacked = t.unacked.map (fun m => if m ∈ again then { m with resends := m.resends + 1, sent := ct } else m)
        ∧ Claims.acks u peer pos = rest ∧ u.mem = s.mem)
    ∧ (∀ m, l.st = 2 → let t := s.txOf pos peer a.cls
      t.unacked.find? (fun x => x.seq == a.n) = some m → (t.unacked.map (·.seq)).Nodup → m.sent + 12000 ≤ ct →
      (m.resends < 3 → NextWith (exec .zmlResendTimeout s) fun u =>
        (u.txOf pos peer a.cls).wire = t.wire ++ [{ seq := m.seq, op := m.op, cts := m.cts }]
        ∧ (u.txOf pos peer a.cls).unacked = t.unacked.map (fun x => if x = m then { m with resends := m.resends + 1, sent := ct } else x)
        ∧ (u.link pos peer).resend = Nat.min 0xFFFF (l.resend + 1) ∧ u.mem = s.mem)
      ∧ (3 ≤ m.resends → t.wait = [] → NextWith (exec .zmlResendTimeout s) fun u =>
        (u.txOf pos peer a.cls).unacked = t.unacked.filter (·.seq != a.n) ∧ Claims.Accused s u pos peer 1
        ∧ ∀ pa bs nd cp ck id j o, m.op = .write pa bs nd cp → m.tag = .acc ck id j → Claims.Waits s ck id j o →
          Claims.access u ck id fun x => x.aborted = 0x15))
    ∧ (∀ w, (s.chip pos).waitResp[a.n]? = some w → (s.link pos w.peer).st = 2 → w.since + 60000 ≤ ct →
      NextWith (exec .readResponseTimeout s) fun u => (u.chip pos).waitResp = (s.chip pos).waitResp.eraseIdx a.n
        ∧ ∀ ck id j o, w.tag = .acc ck id j → Claims.Waits s ck id j o → Claims.access u ck id fun x => x.aborted = 0x15)
    ∧ (l.st = 2 → NextWith (exec .flitReplay s) fun u => u.link pos peer = { l with crce := Nat.min 0xFFFF (l.crce + 1) } ∧ u.mem = s.mem)
    ∧ (l.st = 2 → (s.link peer pos).st = 2 → NextWith (exec .linkRetrain s) fun u =>
      u.link pos peer = { l with st := 1, retrain := Nat.min 0xFF (l.retrain + 1), since := ct } ∧ (u.link peer pos).st = 1)
    ∧ (l.st = 1 → (s.link peer pos).st = 1 → ct ≤ l.since + 60000 → NextWith (exec .retrainComplete s) fun u =>
      u.link pos peer = { l with st := 2, w32 := a.flag, repaired := Nat.min 0xFF (l.repaired + a.n) } ∧ (u.link peer pos).st = 2
      ∧ ∀ cls, cls < 8 → (u.txOf pos peer cls).unacked
          = (s.txOf pos peer cls).unacked.map fun m => { m with sent := m.sent + (ct - Nat.max l.since m.sent) })
    ∧ (l.st = 1 → l.since + 60000 ≤ ct → NextWith (exec .linkDown s) fun u =>
      (u.link pos peer).st = 0 ∧ (u.link peer pos).st = 0
      ∧ (∀ cls, cls < 8 → (u.txOf pos peer cls).unacked = [] ∧ (u.txOf pos peer cls).wire = [] ∧ (u.txOf pos peer cls).wait = []))

end

namespace Sys2Proof.Machine
open Sys2Proof
/-! ## Health and common time (R330 to R335, R353, R358, R376, R378) -/

/-- A sensor reading of a temperature sample: 16 bits, signed, in sixteenths of a degree. -/
def Claims.reading (bs : List Byte) (i : Nat) : Int := Claims.int 16 true (leValue ((bs.drop (2 * i)).take 2))

/-- A reading reaches a threshold. -/
def Claims.hot (bs : List Byte) (t : Int) : Bool := (List.range 16).any fun i => decide (t ≤ Claims.reading bs i)

/-- A field of THCTL, in sixteenths of a degree. -/
def Claims.degrees (w : W32) (lo : Nat) : Int := (w.toNat / 2 ^ lo % 256 : Nat) * 16

/-- The memory of a core's arrays and its window read 0, and it is in no scan (R335). -/
def Claims.Cleared (u : State) (k : Nat) : Prop :=
  (u.core k).inScan = false ∧ (u.core k).istore = [] ∧ (u.core k).objs = [] ∧ (u.core k).fbank = []
    ∧ ∀ x, x < 0x1000000 → u.mem.read (winBase k + x) = 0

end Sys2Proof.Machine

section
open Sys2Proof Sys2Proof.Machine

/-- The scrubber counts what it finds, and queues a correctable sector, which the write-back restores (R330). Every nonzero SUSPECT
score falls by 1 every 15,000,000,000 counts (R332). A scan takes an idle core, or an unmapped spare, out of use for 300,000 counts;
one that passes returns it cleared, one that fails retires it (R334, R335). The lead's samples discipline common time, which never
decreases and stays within 2 counts of the lead's while it is sound (R1), and loses its claim beyond the bound (R353). A droop below 0.70 V throttles; the throttle lasts until 0.72 V has held for
1,500 counts (R376). TSTATE follows Table 20-3 (R378). A record held for log space goes on above 64 (R358). Log entries 8, 89 and
90 say what is the model's. -/
def Obligations.HealthAndTime : Prop :=
  (∀ (s : State), let a := s.focus.arg
    let pos := a.pos
    let c := s.chip pos
    let x := a.value.toNat
    let home := (homeOf x).1
    (x ∈ s.bad → NextWith (exec .scrubRead s) fun u =>
      (u.chip home).errUnc = Nat.min 0xFFFF ((s.chip home).errUnc + 1) ∧ ((s.chip home).tbMode = 0 → u.mem = s.mem ∧ u.bad = s.bad))
    ∧ (x ∉ s.bad → x ∈ s.weak → NextWith (exec .scrubRead s) fun u =>
      x ∈ u.scrubQ ∧ (u.chip home).errCorr = Nat.min 0xFFFF ((s.chip home).errCorr + 1)
      ∧ ((s.chip home).tbMode = 0 → u.mem = s.mem ∧ u.weak = s.weak))
    ∧ (x ∉ s.bad → x ∉ s.weak → exec .scrubRead s = .next s)
    ∧ (x ∈ s.scrubQ → NextWith (exec .scrubWriteback s) fun u => x ∉ u.scrubQ ∧ x ∉ u.weak ∧ u.mem = s.mem ∧ u.bad = s.bad)
    ∧ (pos < 4 → c.br.decayCt + 15000000000 ≤ c.ct → NextWith (exec .suspectDecay s) fun u =>
      (u.chip pos).br.decayCt = c.br.decayCt + 15000000000
      ∧ ∀ k, k < 34 → ∀ n, sget 0 (u.core (coreKey pos k)).suspect n = sget 0 (s.core (coreKey pos k)).suspect n - 1)
    ∧ (pos < 4 → (∀ k, k < 34 → (s.core (coreKey pos k)).inScan = false) →
      (a.flag = false → scanOk s pos a.idx = true → NextWith (exec .scanStart s) fun u =>
        ((u.chip pos).lc a.idx).cstate = 1 ∧ (u.core (coreKey pos (c.lc a.idx).pcore)).inScan = true
        ∧ (u.core (coreKey pos (c.lc a.idx).pcore)).scanCt = c.ct)
      ∧ (a.flag = true → a.core < 34 → c.br.retired.testBit a.core = false → (∀ n, n < 32 → ¬ ((c.lc n).valid = true ∧ (c.lc n).pcore = a.core)) →
        NextWith (exec .scanStart s) fun u =>
          (u.core (coreKey pos a.core)).inScan = true ∧ (u.core (coreKey pos a.core)).scanCt = c.ct ∧ u.chips = s.chips))
    ∧ (let k := coreKey pos a.core
      pos < 4 → a.core < 34 → (s.core k).inScan = true → (s.core k).scanCt + 300000 ≤ c.ct →
      (a.flag = false → NextWith (exec .scanComplete s) fun u =>
        Claims.Cleared u k ∧ (u.core k).lastScan = c.ct ∧ ∀ n, c.lcOf? a.core = some n → (c.lc n).cstate = 1 → ((u.chip pos).lc n).cstate = 0)
      ∧ (a.flag = true → Claims.Settled s pos → NextWith (exec .scanComplete s) fun u => (u.chip pos).br.retired.testBit a.core = true))
    ∧ (let e := c.lc a.idx
      let k := coreKey pos e.pcore
      pos < 4 → a.idx < 32 → e.valid = true → (s.core k).lastScan + 90000000000 < c.ct →
      ((s.core k).overdue = false → NextWith (exec .scanOverdue s) fun u => (u.core k).overdue = true)
      ∧ ((s.core k).overdue = true → exec .scanOverdue s = .next s))
    ∧ (pos < 4 → c.boot.linksUp = true → c.br.halted = false → leadOf s pos = pos → c.disc.sentCt + 150000 ≤ c.ct →
      NextWith (exec .ctSampleSend s) fun u => (u.chip pos).disc.sentCt = c.ct
        ∧ ∀ q, q < 4 → q ≠ pos → (u.chip q).disc.sample = some (c.ct, s.ctOf q) ∧ (u.chip q).disc.lead = pos ∧ (u.chip q).ct = s.ctOf q)
    ∧ (∀ lead own, c.disc.sample = some (lead, own) → let d : Int := (own : Int) - lead
      let lim := if c.disc.since < 4 then 4 else 2
      NextWith (exec .ctDiscipline s) fun u =>
        (u.chip pos).disc.off = d ∧ (u.chip pos).disc.sample = none ∧ (u.chip pos).ct = c.ct
        ∧ (lim < d.natAbs → c.boot.ctOk = true → (u.chip pos).boot.ctOk = false ∧ Claims.Accused s u pos pos 4)
        ∧ (d.natAbs ≤ 2 → ((u.chip pos).boot.ctOk = true ↔ c.boot.ctOk = true ∨ 3 ≤ c.disc.good)))
    ∧ (pos < 4 → a.n < 8 → a.m < 65536 → NextWith (exec .droopThrottle s) fun u =>
      sget (0, 0xFFFF, true) (u.chip pos).power.volts a.n
        = (a.m, if (sget (0, 0xFFFF, true) c.power.volts a.n).2.2 then a.m else Nat.min (sget (0, 0xFFFF, true) c.power.volts a.n).2.1 a.m, false)
      ∧ (a.m < 700 → c.power.thr = false → (u.chip pos).power.thr = true ∧ (u.chip pos).power.thrCt = c.ct
          ∧ (u.chip pos).power.droops = Nat.min 0xFFFF (c.power.droops + 1))
      ∧ (700 ≤ a.m ∨ c.power.thr = true → (u.chip pos).power.thr = c.power.thr ∧ (u.chip pos).power.droops = c.power.droops))
    ∧ (∀ t, pos < 4 → c.power.thr = true → c.power.okCt = some t → t + 1500 ≤ c.ct → c.power.thrCt + 1500 ≤ c.ct →
      NextWith (exec .droopRelease s) fun u => (u.chip pos).power.thr = false ∧ (u.chip pos).power.droops = c.power.droops)
    ∧ (pos < 4 → c.power.tempCt + 1500 ≤ c.ct → a.bytes.length = 48 → NextWith (exec .temperatureSample s) fun u =>
      let p := (u.chip pos).power
      let hot := Claims.hot a.bytes
      let deg := Claims.degrees c.power.thctl
      p.tempCt = c.ct ∧ (∀ i, i < 16 → (sget (0, -32768, true) p.temps i).1 = Claims.reading a.bytes i)
      ∧ p.tstate = if c.power.tstate = 3 ∨ hot (deg 24) then 3
          else if hot (deg 16) ∨ c.power.tstate = 2 ∧ hot (deg 16 - deg 0) then 2
          else if hot (deg 8) ∨ 1 ≤ c.power.tstate ∧ hot (deg 8 - deg 0) then 1 else 0)
    ∧ (c.tbHold = true → 64 < c.tbFree → NextWith (exec .logHoldRelease s) fun u =>
      (u.chip pos).tbHold = false ∧ (u.chip pos).tbWr = c.tbWr ∧ u.mem = s.mem))
  ∧ (∀ (c : Chip) (n : Nat), c.ct ≤ (tickChip c n).ct ∧ (tickChip c n).ct ≤ c.ct + n + (c.disc.frac.toNat + n) / 1500
      ∧ c.ct + n ≤ (tickChip c n).ct + (c.disc.frac.toNat + n) / 1500 ∧ (c.disc.off = 0 → (tickChip c n).ct = c.ct + n))
  ∧ ∀ (s : State) (dts : List Nat) (p : Nat), let c := s.chip p
      let d := s.chip c.disc.lead
      let near := fun x : State => x.ctOf p ≤ x.ctOf c.disc.lead + 2 ∧ x.ctOf c.disc.lead ≤ x.ctOf p + 2
      p < 4 → c.disc.lead < 4 → d.disc.lead = c.disc.lead → c.boot.ctOk = true → d.boot.ctOk = true → c.disc.loose = false →
      d.disc.loose = false → 4 ≤ c.disc.since → near s → near (advance s dts)

end

namespace Sys2Proof.Machine
open Sys2Proof
/-! ## The quorum (R34, R50, R336 to R347, R377) -/

/-- A level that a proposal may name (R34, R52, Table 2-9): 0, or one that every task set defines, not above the cap, with chiplets enough. -/
def Claims.allowed (s : State) (mask l : Nat) : Prop :=
  l = 0 ∨ l ≤ 4 ∧ (lvlMask s).testBit l = true ∧ l ≤ s.quorum.cap
    ∧ [1, 2, 3, 4, 4].getD l 5 ≤ ((List.range 4).filter fun p => mask.testBit p).length

/-- Chiplet `c` is the coordinator in the view of Bridge `pos` (R340): the lowest that it counts healthy and that is not passed over. -/
def Claims.coordinator (s : State) (pos c : Nat) : Prop :=
  let ok := fun d => (viewOf s pos).testBit d = true ∧ d ∉ s.quorum.skipped
  c < 4 ∧ ok c ∧ ∀ d, d < c → ¬ ok d

/-- A proposal has passed (R336, R340, R342): every Bridge that runs has its mask, level and binding; a chiplet that it newly excludes is
closed. -/
def Claims.Decided (s u : State) (p : Proposal) : Prop :=
  u.quorum.prop = none
  ∧ (∀ q, q < 4 → (s.chip q).br.halted = false → (u.chip q).br.dec = p.mask ∧ (u.chip q).br.level = p.level
      ∧ (u.chip q).br.carr = p.carr ∧ (u.chip q).br.spare = p.spare)
  ∧ ∀ x, x < 4 → (s.chip p.coord).br.dec.testBit x = true → p.mask.testBit x = false →
      (∀ q, q < 4 → p.mask.testBit q = true → (u.link q x).st = 3) ∧ ((s.chip x).br.halted = false → (u.chip x).br.held = true)

/-- A proposal has failed, and another is asked for at once (R340). -/
def Claims.Failed (u : State) : Prop := u.quorum.prop = none ∧ u.quorum.ask = true

/-- A vote is cast (R340): the third yes passes the proposal; where all have voted without it, the proposal fails; else it stands. -/
def Claims.Voted (s u : State) (p : Proposal) (voter : Nat) (yes : Bool) : Prop :=
  let vs := sput p.votes voter yes
  let passes := 3 ≤ (vs.filter fun (v : Nat × Bool) => v.2).length
  let all := (∀ v, v < 4 → (sget? vs v).isSome = true) ∧ (s.quorum.host = true → (sget? vs 4).isSome = true)
  (passes → Claims.Decided s u p) ∧ (¬ passes → all → Claims.Failed u)
    ∧ (¬ passes → ¬ all → u.quorum = { s.quorum with prop := some { p with votes := vs } } ∧ u.mem = s.mem ∧ u.ctxs = s.ctxs)

end Sys2Proof.Machine

section
open Sys2Proof Sys2Proof.Machine

/-- Heartbeats go out every 75,000 counts, those of a closed chiplet are only logged (R336), and the third missed is evidence, as are a rail fault, a lockstep mismatch and a failed
self-test of the spare (R338, R345, R377). A Bridge holds the evidence that it receives. The coordinator proposes its view, the
highest level that this allows, and the binding, or is passed over after 60,000 counts; Bridges vote for a mask that equals their
view, the host as it writes; after 225,000 counts the votes not cast are settled (R340). A closed chiplet that has been reset and has
passed its tests is proposed again (R337). The graphs of a new level are restored one after another, and one whose mirror lies on a closed chiplet is
shed (R346, R371). At level 3 the spare changes places with each carrier in turn, every 15,000,000,000 counts (R345). Log entries 81
to 86 and 118 say what is read there. -/
def Obligations.Quorum : Prop :=
  ∀ (s : State), let a := s.focus.arg
    let pos := a.pos
    let c := s.chip pos
    let q := s.quorum
    let b := c.br
    (pos < 4 → b.halted = false → c.boot.linksUp = true → b.beatCt + 75000 ≤ c.ct → NextWith (exec .heartbeatSend s) fun u =>
      (u.chip pos).br.beatCt = c.ct
      ∧ ∀ p, p < 4 → p ≠ pos →
        ((s.chip p).br.dec.testBit pos = true → sget 0 (u.chip p).br.lastBeat pos = s.ctOf p ∧ sget 0 (u.chip p).br.missed pos = 0)
        ∧ ((s.chip p).br.dec.testBit pos = false → (u.chip p).br.beatLog = (s.chip p).br.beatLog ++ [(pos, s.ctOf p)]
          ∧ (u.chip p).br.lastBeat = (s.chip p).br.lastBeat))
    ∧ (let n := sget 0 b.missed a.peer
      linkOk pos a.peer = true → b.halted = false → c.boot.linksUp = true → n < 3 → sget 0 b.lastBeat a.peer + 76000 * (n + 1) ≤ c.ct →
      NextWith (exec .heartbeatMissed s) fun u =>
        sget 0 (u.chip pos).br.missed a.peer = n + 1 ∧ (n = 2 → Claims.Accused s u pos a.peer 3) ∧ (n < 2 → (u.chip pos).br.evid = b.evid))
    ∧ (pos < 4 → NextWith (exec .railFault s) fun u => Claims.Accused s u pos pos 4 ∧ (u.chip pos).disc.loose = true)
    ∧ (pos < 4 → b.halted = false → NextWith (exec .lockstepMismatch s) fun u =>
      (u.chip pos).br.halted = true ∧ Claims.Accused s u pos pos 5)
    ∧ (∀ e, b.evidIn[a.n]? = some e → NextWith (exec .evidenceReceive s) fun u =>
      let counts := b.halted = false ∧ (b.dec ||| q.cand).testBit e.reporter = true ∧ (b.dec ||| q.cand).testBit e.accused = true
        ∧ countsFailed b.evid e.reporter = false
      (u.chip pos).br.evidIn = b.evidIn.eraseIdx a.n ∧ u.quorum = q
      ∧ (counts → (u.chip pos).br.evid = b.evid ++ [e] ∧ (u.chip pos).br.firstEv = b.firstEv.or (some c.ct))
      ∧ (¬ counts → (u.chip pos).br.evid = b.evid))
    ∧ (pos < 4 → b.halted = false → q.prop = none → b.dec.testBit pos = true → Claims.coordinator s pos pos →
      (q.ask = true ∨ ∃ t, b.firstEv = some t ∧ t + 30000 ≤ c.ct) → NextWith (exec .proposal s) fun u =>
        (∃ p, u.quorum.prop = some p ∧ p.num = q.next ∧ p.mask = viewOf s pos ∧ p.ct = c.ct ∧ p.coord = pos ∧ p.votes = []
          ∧ ∃ l, Claims.allowed s p.mask l ∧ (∀ m, Claims.allowed s p.mask m → m ≤ l) ∧ p.level = if q.raiseNow then l else Nat.min l b.level)
        ∧ u.quorum.next = (q.next + 1) % 65536 ∧ u.quorum.ask = false
        ∧ (q.host = true → ∀ p, p < 4 → (s.chip p).br.held = false → (u.chip p).br.qevt.testBit 1 = true))
    ∧ (∀ t d, b.halted = false → q.prop = none → b.dec.testBit pos = true → b.firstEv = some t → t + 60000 ≤ c.ct →
      Claims.coordinator s pos d → exec .coordinatorTimeout s = .next { s with quorum := { q with skipped := q.skipped ++ [d] } })
    ∧ (∀ p, q.prop = some p →
      (pos < 4 → b.halted = false → (s.chip p.coord).br.dec.testBit pos = true → sget? p.votes pos = none → s.ctOf p.coord < p.ct + 225000 →
        NextWith (exec .bridgeVote s) fun u => Claims.Voted s u p pos (p.mask == viewOf s pos))
      ∧ (p.ct + 225000 ≤ s.ctOf p.coord →
        let late := ((List.range 4).filter fun v => (sget? p.votes v).isNone && !p.mask.testBit v).length
        let yes := (p.votes.filter fun (v : Nat × Bool) => v.2).length
        NextWith (exec .voteTimeout s) fun u => (3 ≤ yes + late → Claims.Decided s u p) ∧ (yes + late < 3 → Claims.Failed u))
      ∧ (a.flag = false → pos < 4 → c.pcie = true → c.boot.joined = true → q.host = true → sget? p.votes 4 = none → s.ctOf p.coord < p.ct + 225000 → b.held = false →
        (a.value.toNat / 2 ^ 48 = p.num → a.value.toNat % 2 ^ 48 < 2 → NextWith (exec .hvoteWrite s) fun u =>
          Claims.Voted s u p 4 (a.value.getLsbD 0) ∧ ∀ x, x < 4 → (s.chip x).br.qevt < 32 →
            ¬ (3 ≤ ((sput p.votes 4 (a.value.getLsbD 0)).filter fun (v : Nat × Bool) => v.2).length) → (u.chip x).br.qevt.testBit 1 = false)
        ∧ (a.value.toNat / 2 ^ 48 ≠ p.num ∨ 2 ≤ a.value.toNat % 2 ^ 48 → exec .hvoteWrite s = .next s)))
    ∧ (pos < 4 → b.spare = some pos → (s.eng pos).graphs = [] →
      (a.flag = true → NextWith (exec .spareSelfTest s) fun u => Claims.Accused s u pos pos 8)
      ∧ (a.flag = false → NextWith (exec .spareSelfTest s) fun u => ∀ k, k < 34 → Claims.Cleared u (coreKey pos k)))
    ∧ (pos < 4 → a.flag = true → b.halted = false → b.closed = true → b.wasReset = true → c.boot.romOk = true → c.pcie = true → c.boot.dramOk = true →
      c.boot.linksUp = true → q.cand.testBit pos = false →
      (∀ p, p < 4 → p ≠ pos → (s.chip p).br.held = false → (s.chip p).br.dec.testBit pos = false) → NextWith (exec .readmission s) fun u =>
        u.quorum.cand.testBit pos = true ∧ u.quorum.ask = true ∧ ∀ p, p < 4 → ∀ e ∈ (u.chip p).br.evid, e.accused ≠ pos ∧ e.pair ≠ some pos)
    ∧ (∀ p rest l, q.restore = p :: rest → l < 4 → (s.chip l).br.held = false → (s.chip l).br.dec.testBit l = true →
      (∀ d, d < l → ¬ ((s.chip d).br.held = false ∧ (s.chip d).br.dec.testBit d = true)) → NextWith (exec .mirrorRestore s) fun u =>
        u.quorum.restore = rest
        ∧ ∀ x m, newestSlot s p.gid = some (x, m) → (s.chip l).br.dec.testBit x = false → rest ≠ [] → Claims.Settled s (carrierPos s l p.carrier) →
          Claims.still s (carrierPos s l p.carrier) → u.quorum.shed = q.shed ++ [p.func] ∧ u.mem = s.mem)
    ∧ (pos < 4 → b.held = false → q.restore = [] → q.prop = none →
      (q.rotating = none → c.ct / 15000000000 ≤ q.rotCt → exec .spareRotation s = .next s)
      ∧ (q.rotating = none → q.rotCt < c.ct / 15000000000 → NextWith (exec .spareRotation s) fun u =>
        let old := carrierPos s pos q.rotTurn
        let live := fun g => ∃ i, (i, g) ∈ (s.eng old).graphs ∧ g.live = true
        u.quorum.rotCt = c.ct / 15000000000
        ∧ (q.raise = true → u.quorum.raiseNow = true ∧ u.quorum.ask = true)
        ∧ ∀ sp, q.raise = false → b.spare = some sp → b.level = 3 →
          ((∀ g, live g → 1500 ≤ g.stretch) → u.quorum.rotating = some (sp, old, s.ctOf old)
            ∧ ∀ i, i ∈ u.quorum.moves ↔ ∃ g, (i, g) ∈ (s.eng old).graphs ∧ g.live = true)
          ∧ ((∃ g, live g ∧ g.stretch < 1500) → u.quorum.rotating = none ∧ (u.chip old).br.qevt.testBit 4 = true))
      ∧ ∀ sp old began, q.rotating = some (sp, old, began) → (∀ g ∈ q.moves, s.graph? old g = none) → sp < 4 → old < 4 → q.rotTurn < 3 → NextWith (exec .spareRotation s) fun u =>
        u.quorum.rotating = none ∧ u.quorum.rotTurn = (q.rotTurn + 1) % 3
        ∧ ∀ x, x < 4 → (u.chip x).br.spare = some old ∧ (u.chip x).posOf q.rotTurn = sp)

end

namespace Sys2Proof.Machine
open Sys2Proof
/-! ## The host and bring-up (R4, R36 to R53, R296, R325, R329, R350, R351, R357, R379) -/

/-- The host reaches the registers of chiplet `pos`: its port's link is up, and its region is not closed (R36, R336). -/
def Claims.port (s : State) (pos : Nat) : Prop := pos < 4 ∧ (s.chip pos).pcie = true ∧ (s.chip pos).br.held = false

/-- A vector fires (R40): a message goes to the host, or, where the vector is masked, it is pending. -/
def Claims.vector (s u : State) (pos v : Nat) : Prop :=
  ((s.chip pos).msixMask.getLsbD v = false → (v, s.ctOf pos) ∈ (u.chip pos).msix) ∧ ((s.chip pos).msixMask.getLsbD v = true → (u.chip pos).msixPend.getLsbD v = true)

/-- What a host read of 8 bytes gets. -/
def Claims.got (u : State) (v : Nat) : Prop := u.hostGot.1 = 0 ∧ leValue u.hostGot.2.1 = v

end Sys2Proof.Machine

section
open Sys2Proof Sys2Proof.Machine

/-- The data window reaches home DRAM once it is trained; a write that may not be is discarded and counted, a read of a closed
chiplet is an Unsupported Request (R36, R38). Registers are written field by field, and a read clears the fields marked RC (R4, R37,
R50, R296, R329, R351, R357, R379). A watermark register whose target is already met fires at once (R351). A doorbell rung while
BUSY sets OVR (R49). An endpoint reset touches the endpoint alone (R41); a chiplet reset clears the chiplet but its fuses and CT,
and no other. Bring-up goes step by step, and DRAM training leaves DRAM zero; a chiplet that misses its links is closed (R53). DRAM
that training leaves zero, and partial register accesses, are the model's choice (log entries 55, 78, 79, 80, 88 and
128). -/
def Obligations.HostAndBringUp : Prop :=
  ∀ (s : State), let a := s.focus.arg
    let pos := a.pos
    let c := s.chip pos
    let port := Claims.port s pos
    let v := a.value.toNat
    (let off := v
      let n := a.bytes.length
      let pa := pos * 0x800000000 + off
      let refused := fun u : State => u.mem = s.mem ∧ (u.chip pos).wdiscN = if c.wdiscN = 0xFFFFFFFF then c.wdiscN else c.wdiscN + 1
      port → 1 ≤ n → n ≤ 512 → off + n ≤ 0x800000000 → c.tbMode = 0 →
      (c.boot.dramOk = true → s.bad = [] → s.weak = [] → s.images = [] → s.memOk → NextWith (exec .dataWindowWrite s) fun u =>
        (∀ i, i < n → u.mem.read (pa + i) = a.bytes.getD i 0) ∧ (∀ x, x < pa ∨ pa + n ≤ x → u.mem.read x = s.mem.read x) ∧ u.chips = s.chips)
      ∧ (c.boot.dramOk = false ∨ sealedAt s pa n = true → NextWith (exec .dataWindowWrite s) refused))
    ∧ (pos < 4 → c.pcie = true → 1 ≤ a.n → a.n ≤ 4096 → v + a.n ≤ 0x800000000 →
      (c.br.held = false → c.boot.dramOk = true → s.bad = [] → s.weak = [] → NextWith (exec .dataWindowRead s) fun u =>
        u = { s with hostGot := (0, s.mem.readBytes (pos * 0x800000000 + v) a.n, c.ct) })
      ∧ (c.br.held = true ∨ c.boot.dramOk = false → exec .dataWindowRead s = .next { s with hostGot := (1, [], c.ct) }))
    ∧ (pos < 4 → NextWith (exec .endpointReset s) fun u => u.chip pos =
        { c with boot := { c.boot with apBase := 0 }, wdiscN := 0, wdiscCt := 0, msixTab := [], msixMask := 0xFFFFFFFF, msixPend := 0
                 pcie := c.pcie && !a.flag }
        ∧ u.mem = s.mem ∧ u.cores = s.cores ∧ u.ctxs = s.ctxs ∧ ∀ q, q ≠ pos → u.chip q = s.chip q)
    ∧ (port → a.n < 32 → NextWith (exec .msixUnmask s) fun u => (u.chip pos).msixMask.getLsbD a.n = false
        ∧ ((u.chip pos).msix = if c.msixPend.getLsbD a.n then c.msix ++ [(a.n, c.ct)] else c.msix) ∧ (u.chip pos).msixPend.getLsbD a.n = false)
    ∧ (port → NextWith (exec .qevtWrite s) fun u =>
        ∀ b, (u.chip pos).br.qevt.testBit b = (c.br.qevt.testBit b && !(v.testBit b && (b == 0 || b == 2 || b == 3 || b == 4))))
    ∧ (port → 8 ≤ a.n → a.n < 32 → NextWith (exec .watermarkArm s) fun u =>
        let k := coreKey pos (c.lc (v / 2 ^ 43 % 32)).pcore
        let wm := (sget 0 (s.core k).chwm (v / 2 ^ 40 % 8)).toNat % 2 ^ 32
        let met := (wm + 2 ^ 32 - v % 2 ^ 32) % 2 ^ 32 < 2 ^ 31
        let w := sget 0 (u.chip pos).wmn a.n
        corePhys k = (c.lc (v / 2 ^ 43 % 32)).pcore → corePos k = pos →
        w.toNat % 2 ^ 32 = v % 2 ^ 32 ∧ w.toNat / 2 ^ 40 % 2 ^ 8 = v / 2 ^ 40 % 2 ^ 8
        ∧ (w.getLsbD 63 = (v.testBit 63 && !decide met)) ∧ (v.testBit 63 = true → met → Claims.vector s u pos a.n))
    ∧ (port → Claims.Settled s pos → Claims.still s pos →
      (∀ i m, (i = .tablatureOff ∧ m = 0) ∨ (i = .tablatureRecord ∧ m = 1) ∨ (i = .tablatureReplay ∧ m = 2) → NextWith (exec i s) fun u =>
        let t := u.chip pos
        t.tbMode = m ∧ t.tbCtl.toNat &&& 0xFF02FFFF = v &&& 0xFF02FFFF ∧ t.tbSeq = 0 ∧ t.tbHold = false ∧ t.tbWr = c.tbWr ∧ t.tbRd = c.tbRd
        ∧ (m = 2 → c.tbRd = c.tbWr → t.tbRend = true))
      ∧ (NextWith (exec .tbrdWrite s) fun u =>
        let rd : W32 := BitVec.ofNat 32 v
        (u.chip pos).tbRd = (if (c.tbWr - rd).toNat ≤ c.tbCap then rd else c.tbRd) ∧ (u.chip pos).tbWr = c.tbWr)
      ∧ (a.m = 8 → a.n = 8 → NextWith (exec .registerWrite s) fun u =>
        (u.chip pos).boot.apBase &&& 0x3FF800000000 = a.value &&& 0x3FF800000000)
      ∧ (∀ i, i < 8 → a.m = 0x20000 + 8 * i → a.n = 8 → c.mail.req.length = 8 → NextWith (exec .registerWrite s) fun u =>
        (u.chip pos).mail.req = c.mail.req.set i a.value))
    ∧ (port → NextWith (exec .tbstatWrite s) fun u => (u.chip pos).tbRend = (c.tbRend && !v.testBit 4)
        ∧ (u.chip pos).tbDiv = (c.tbDiv && !v.testBit 3) ∧ (u.chip pos).tbTrunc = (c.tbTrunc && !v.testBit 2))
    ∧ (pos < 4 → c.pcie = true → NextWith (exec .wdiscRead s) fun u =>
        Claims.got u (c.wdiscCt.toNat * 2 ^ 32 + c.wdiscN.toNat) ∧ (u.chip pos).wdiscN = 0 ∧ (u.chip pos).wdiscCt = c.wdiscCt)
    ∧ (port →
      (c.errCorr < 2 ^ 16 → c.errUnc < 2 ^ 16 → c.errNext < 2 ^ 32 → NextWith (exec .errstatRead s) fun u =>
        Claims.got u (c.errCorr * 2 ^ 48 + c.errUnc * 2 ^ 32 + c.errNext)
        ∧ (u.chip pos).errCorr = 0 ∧ (u.chip pos).errUnc = 0 ∧ (u.chip pos).errNext = c.errNext)
      ∧ (let p := if a.n < pos then a.n else a.n + 1
        let l := s.link pos p
        a.n < 3 → l.crce < 2 ^ 16 → l.e2ee < 2 ^ 16 → l.resend < 2 ^ 16 → l.dup < 2 ^ 16 → NextWith (exec .lkcntRead s) fun u =>
          Claims.got u (l.crce * 2 ^ 48 + l.e2ee * 2 ^ 32 + l.resend * 2 ^ 16 + l.dup)
          ∧ u.link pos p = { l with crce := 0, e2ee := 0, resend := 0, dup := 0 })
      ∧ NextWith (exec .tbwrRead s) (fun u => Claims.got u (c.tbLost.toNat * 2 ^ 32 + c.tbWr.toNat) ∧ (u.chip pos).tbLost = 0
        ∧ (u.chip pos).tbWr = c.tbWr)
      ∧ (∀ cur mx fresh, a.n < 16 → sget (0, -32768, true) c.power.temps a.n = (cur, mx, fresh) → NextWith (exec .tempRead s) fun u =>
        Claims.got u ((mx % 2 ^ 16).toNat * 2 ^ 16 + (cur % 2 ^ 16).toNat)
        ∧ sget (0, -32768, true) (u.chip pos).power.temps a.n = (cur, 0, true))
      ∧ (∀ cur mn fresh, a.n < 8 → sget (0, 0xFFFF, true) c.power.volts a.n = (cur, mn, fresh) → cur < 2 ^ 16 → mn < 2 ^ 16 →
        NextWith (exec .vmonRead s) fun u =>
        Claims.got u (mn * 2 ^ 16 + cur) ∧ sget (0, 0xFFFF, true) (u.chip pos).power.volts a.n = (cur, 0, true))
      ∧ (c.power.tstate < 4 → NextWith (exec .pwrstatRead s) fun u => (u.chip pos).power = { c.power with droops := 0 } ∧ u.hostGot.1 = 0
        ∧ leValue u.hostGot.2.1 % 4 = c.power.tstate ∧ (leValue u.hostGot.2.1).testBit 2 = c.power.thr))
    ∧ (let ck := ctxKey pos a.core a.ctx
      let x := s.ctx ck
      let b := fun z : Bool => if z then 1 else 0
      unitOk pos a.core a.ctx = true → NextWith (exec .dbgctlRead s) fun u =>
        Claims.got u (b x.dbgStepped * 4 + b x.dbgDrain * 2 + b x.dbgStep) ∧ u.ctx ck = { x with dbgStepped := false })
    ∧ (pos < 4 → c.pcie = true → c.mail.busy = true → NextWith (exec .doorbellOverrun s) fun u =>
        (u.chip pos).mail = { c.mail with ovr := true } ∧ u.mem = s.mem)
    ∧ (pos < 4 → NextWith (exec .chipletReset s) fun u =>
        let d := u.chip pos
        let f := fun b : Boot => (b.digests, b.revoked, b.minSvn, b.sigNext)
        d.ct = c.ct ∧ f d.boot = f c.boot ∧ d.br.closed = c.br.closed ∧ d.br.wasReset = true ∧ d.br.held = (c.br.held || c.br.closed) ∧ d.images = [] ∧ d.parts = [] ∧ d.eng = Engine.reset ∧ d.mail = Mailbox.reset
        ∧ d.boot.romOk = false ∧ d.boot.fwRun = false ∧ d.boot.meas = List.replicate 32 0
        ∧ (∀ ck, ckPos ck = pos → u.ctx ck = Ctx.reset) ∧ (∀ q, q ≠ pos → u.chip q = s.chip q)
        ∧ ∀ k, k < 34 → (u.core (coreKey pos k)).owner = none ∧ ∀ x, x < 0x1000000 → u.mem.read (winBase (coreKey pos k) + x) = 0)
    ∧ (pos < 4 → NextWith (exec .bridgeRomCheck s) fun u => (u.chip pos).boot = { c.boot with romOk := true })
    ∧ (pos < 4 → c.boot.romOk = true → NextWith (exec .pcieLinkTrained s) fun u =>
        u.chip pos = { c with pcie := true } ∧ Claims.got u 0x4A041EA7)
    ∧ (pos < 4 → c.boot.romOk = true → c.pcie = true → c.boot.dramOk = false → NextWith (exec .dramTrained s) fun u =>
        (u.chip pos).boot = { c.boot with dramOk := true } ∧ ∀ x, u.mem.read x = if x / 0x800000000 = pos then 0 else s.mem.read x)
    ∧ (pos < 4 → c.boot.linksUp = false →
      (a.flag = false → c.ct ≤ c.boot.since + 300000000 → c.boot.romOk = true → c.pcie = true → c.boot.dramOk = true →
        NextWith (exec .ucieLinksTrained s) fun u =>
        (u.chip pos).boot.linksUp = true ∧ ∀ q, q < 4 → q ≠ pos → a.m.testBit q = true → (u.link pos q).st = 2)
      ∧ (c.boot.since + 300000000 < c.ct → (c.br.closed = true → c.br.wasReset = true) → NextWith (exec .ucieLinksTrained s) fun u =>
        (c.br.halted = false → (u.chip pos).br.held = true) ∧ ∀ q, q < 4 → (u.chip q).br.dec.testBit pos = false))

end

namespace Sys2Proof.Machine
open Sys2Proof
/-! ## The mailbox (R32 to R34, R45 to R54) -/

/-- A command has been carried out with a status, which completion will show (R49). -/
def Claims.status (u : State) (pos code : Nat) : Prop := (u.chip pos).mail.result = some code ∧ (u.chip pos).mail.job = none

/-- Word i of the request of chiplet `pos` (R49). -/
def Claims.req (s : State) (pos i : Nat) : Nat := ((s.chip pos).mail.req.getD i 0).toNat

/-- The commands of Table 3-5 but LOAD. -/
def Claims.command? : Instr → Option Nat
  | .unseal => some 2 | .quote => some 3 | .join => some 4 | .ttset => some 5 | .tsstart => some 6 | .svnraise => some 7 | .levelcap => some 8
  | _ => none

/-- The bytes of a container at `a` that a LOAD takes: its header, its signature, and its body of the header's length (Table 3-4). -/
def Claims.container (s : State) (a : Nat) : Header × List Byte × List Byte :=
  let h := headerOf (s.mem.readBytes a 128)
  (h, s.mem.readBytes (a + 0x80) 2820, s.mem.readBytes (a + 0x1000) h.len)

end Sys2Proof.Machine

section
open Sys2Proof Sys2Proof.Machine

/-- The mailbox commands. Before the firmware runs only LOAD is accepted. LOAD stops at its first failure, in the order of R47; a
body whose hash is wrong leaves its destination zero; one that passes is in place, sealed, and measured. UNSEAL releases an image
that nothing names (R48). QUOTE writes a quote, and uses up a signature index (R54). JOIN, TTSET, SVNRAISE, LEVELCAP and TSSTART do
as Table 3-5, R51, R52 and R34 say; completion clears BUSY, shows the status and fires vector 0 (R49). Statuses that no rule gives
are free, and some are read (log entries 75 to 77). -/
def Obligations.Mailbox : Prop :=
  ∀ (s : State), let pos := s.focus.arg.pos
    let c := s.chip pos
    let w := Claims.req s pos
    let job := fun k => pos < 4 ∧ c.mail.job = some k ∧ c.boot.fwRun = true ∧ Claims.Settled s pos ∧ Claims.still s pos
    let gives := fun (i : Instr) (code : Nat) => NextWith (exec i s) fun u => Claims.status u pos code ∧ u.mem = s.mem
    (∀ code, c.mail.result = some code → NextWith (exec .mailboxCompletion s) fun u =>
      (u.chip pos).mail = { c.mail with busy := false, code := code, result := none } ∧ u.mem = s.mem ∧ Claims.vector s u pos 0)
    ∧ (∀ i k, Claims.command? i = some k → pos < 4 → c.mail.job = some k → c.boot.fwRun = false → gives i 12)
    ∧ (∀ k, pos < 4 → c.mail.job = some k → k < 1 ∨ 8 < k →
      (c.boot.fwRun = false → gives .unknownCommand 12) ∧ (c.boot.fwRun = true → Claims.Settled s pos → Claims.still s pos → gives .unknownCommand 11))
    ∧ (let a := w 1
      let h := (Claims.container s a).1
      let sig := (Claims.container s a).2.1
      let body := (Claims.container s a).2.2
      let b := c.boot
      pos < 4 → c.mail.job = some 1 → Claims.Settled s pos → Claims.still s pos →
      (b.fwRun = false → h.kind ≠ 1 → gives .load 12)
      ∧ (b.fwRun = true ∨ h.kind = 1 →
        (h.bad = true → gives .load 2)
        ∧ (h.bad = false →
          let least := sget 0 b.minSvn (8 * h.slot + h.kind)
          (b.revoked.testBit h.slot = true → gives .load 3)
          ∧ (b.revoked.testBit h.slot = false → h.svn < least → gives .load 4)
          ∧ (b.revoked.testBit h.slot = false → least ≤ h.svn → 2 ≤ h.kind →
            (sget? b.keys h.slot = none → gives .load 14)
            ∧ ∀ k, sget? b.keys h.slot = some k →
              (xmssOk k h.bytes sig = false → gives .load 5)
              ∧ (xmssOk k h.bytes sig = true →
                (0x2000000000 < h.addr + h.len ∨ sealedAt s h.addr h.len = true → gives .load 6)
                ∧ (h.addr + h.len ≤ 0x2000000000 → sealedAt s h.addr h.len = false → s.memOk →
                  let rest := fun u : State => ∀ x, x < h.addr ∨ h.addr + h.len ≤ x → u.mem.read x = s.mem.read x
                  (shake256 32 body ≠ (h.bytes.drop 32).take 32 → NextWith (exec .load s) fun u =>
                    Claims.status u pos 7 ∧ rest u ∧ (∀ i, i < h.len → u.mem.read (h.addr + i) = 0) ∧ (u.chip pos).images = c.images)
                  ∧ (shake256 32 body = (h.bytes.drop 32).take 32 → NextWith (exec .load s) fun u =>
                    Claims.status u pos 0 ∧ rest u ∧ (∀ i, i < h.len → u.mem.read (h.addr + i) = body.getD i 0)
                    ∧ (∃ n, (u.chip pos).images
                        = { kind := h.kind, part := h.part, svn := h.svn, base := h.addr, len := h.len, seq := n } :: c.images)
                    ∧ (u.chip pos).boot = { b with meas := shake256 32 (b.meas ++ shake256 32 h.bytes) }))))
          ∧ (b.revoked.testBit h.slot = false → least ≤ h.svn → h.kind = 1 → ∀ k, keyEntry (body.take 272) h.slot = some k →
            (∀ i e, i < 4 → keyEntry (body.take 272) i = some e → sget? b.digests i = some (shake256 32 e)) →
            xmssOk k h.bytes sig = true → shake256 32 body = (h.bytes.drop 32).take 32 → NextWith (exec .load s) fun u =>
              Claims.status u pos 0 ∧ u.mem = s.mem ∧ (u.chip pos).boot.fwRun = true
              ∧ ∀ i, i < 4 → sget? (u.chip pos).boot.keys i = keyEntry (body.take 272) i))))
    ∧ (job 2 →
      ((∀ i ∈ s.images, i.kind ≠ 1 → i.base ≠ w 1) → gives .unseal 8)
      ∧ ∀ i, s.images.find? (fun x => x.kind != 1 && x.base == w 1) = some i →
        (imageUsed s i = true → gives .unseal 1)
        ∧ (imageUsed s i = false → NextWith (exec .unseal s) fun u => Claims.status u pos 0 ∧ u.mem = s.mem ∧ i ∉ u.images
          ∧ ∀ x ∈ s.images, x ≠ i → x ∈ u.images))
    ∧ (job 3 →
      (2 ^ 20 ≤ c.boot.sigNext → gives .quote 10)
      ∧ (c.boot.sigNext < 2 ^ 20 → placeOf s pos (w 5) = .dram pos → s.memOk → NextWith (exec .quote s) fun u =>
        let at_ := fun o n => u.mem.readLE (w 5 + o) n
        Claims.status u pos 0 ∧ (u.chip pos).boot.sigNext = c.boot.sigNext + 1
        ∧ at_ 0 4 = 0x4C4A5154 ∧ at_ 4 1 = pos ∧ (c.br.level < 256 → at_ 5 1 = c.br.level) ∧ at_ 6 2 = 0 ∧ at_ 8 8 = c.ct % 2 ^ 64
        ∧ (∀ i, i < 4 → at_ (16 + 8 * i) 8 = w (1 + i))
        ∧ (∀ i, i < 32 → u.mem.read (w 5 + 48 + i) = c.boot.meas.getD i 0)
        ∧ at_ 80 4 = c.images.length % 2 ^ 32 ∧ at_ 84 36 = 0
        ∧ (∀ i, i < 2820 → u.mem.read (w 5 + 120 + i)
            = (quoteSig c.boot.sigNext (u.mem.readBytes (w 5) 120)).getD i 0)
        ∧ ∀ x, x < w 5 ∨ w 5 + 2940 ≤ x → u.mem.read x = s.mem.read x))
    ∧ (job 4 → NextWith (exec .join s) fun u => Claims.status u pos 0 ∧ u.quorum = { s.quorum with host := true } ∧ u.mem = s.mem
      ∧ (∀ q, q < 4 → (u.chip q).boot.joined = true)
      ∧ ((hostProp { s with quorum := { s.quorum with host := true } }).isSome = true →
        ∀ q, q < 4 → (s.chip q).br.held = false → (u.chip q).br.qevt.testBit 1 = true))
    ∧ (job 5 →
      let a := w 1
      let first := w 2
      let n := w 3
      (n < 1 ∨ 256 < n ∨ 256 < first + n → gives .ttset 2)
      ∧ (1 ≤ n → n ≤ 256 → first + n ≤ 256 →
        (confImage s a (64 * n) = none → gives .ttset 8)
        ∧ ∀ i, confImage s a (64 * n) = some i →
          ((∃ k t, k < n ∧ sget? (s.eng pos).ttypes (first + k) = some t ∧ t.part ≠ i.part) → gives .ttset 13)
          ∧ ((∀ k t, k < n → sget? (s.eng pos).ttypes (first + k) = some t → t.part = i.part) → NextWith (exec .ttset s) fun u =>
            Claims.status u pos 0 ∧ u.mem = s.mem
            ∧ (∀ k, k < n → ∃ t, sget? (u.eng pos).ttypes (first + k) = some t ∧ t.part = i.part ∧ t.seg = a + 64 * k
                ∧ ∀ j, j < 8 → (t.w.getD j 0).toNat = s.mem.readLE (a + 64 * k + 8 * j) 8)
            ∧ ∀ j, j < first ∨ first + n ≤ j → sget? (u.eng pos).ttypes j = sget? (s.eng pos).ttypes j)))
    ∧ (job 7 →
      ((∃ i ∈ c.images, i.kind = w 1 ∧ i.svn = w 2) → NextWith (exec .svnraise s) fun u => Claims.status u pos 0 ∧ u.mem = s.mem
        ∧ ∀ k, k < 4 → sget 0 (u.chip pos).boot.minSvn (8 * k + w 1) = Nat.max (w 2) (sget 0 c.boot.minSvn (8 * k + w 1)))
      ∧ ((∀ i ∈ c.images, ¬ (i.kind = w 1 ∧ i.svn = w 2)) → NextWith (exec .svnraise s) fun u =>
        (∃ code, Claims.status u pos code) ∧ (u.chip pos).boot = c.boot ∧ u.mem = s.mem))
    ∧ (job 8 →
      (4 < w 1 → gives .levelcap 2) ∧ (w 1 ≤ 4 → s.quorum.host = false ∨ c.boot.joined = false → gives .levelcap 12)
      ∧ (w 1 ≤ 4 → s.quorum.host = true → c.boot.joined = true → NextWith (exec .levelcap s) fun u =>
        u.quorum = { s.quorum with cap := w 1, ask := true } ∧ (u.chip pos).mail = { c.mail with job := none, capWait := true } ∧ u.mem = s.mem))
    ∧ (job 6 → NextWith (exec .tsstart s) fun u => ∃ code, Claims.status u pos code
      ∧ (c.br.held = true → code = 12 ∧ u.tsets = s.tsets)
      ∧ (c.br.held = false → confImage s (w 1) 64 = none → code = 8 ∧ u.tsets = s.tsets)
      ∧ (code ≠ 0 → u.tsets = s.tsets)
      ∧ (code = 0 → let w0 := s.mem.readLE (w 1) 8
        (∃ ts, u.tsets = s.tsets ++ [ts] ∧ ts.addr = w 1 ∧ ts.tsid = w0 % 256 ∧ ts.part = w0 / 2 ^ 21 % 8 ∧ ts.lvls = w0 / 2 ^ 16 % 32)
        ∧ w0 / 2 ^ 24 = 0 ∧ w0 / 2 ^ 8 % 256 = 0 ∧ w0.testBit 16 = true
        ∧ (s.tsets = [] → ∃ l, Claims.allowed u c.br.dec l ∧ (∀ m, Claims.allowed u c.br.dec m → m ≤ l)
            ∧ ∀ q, q < 4 → (s.chip q).br.halted = false → (u.chip q).br.level = l)))

end

namespace Sys2Proof.Machine
open Sys2Proof
/-! ## A step, reset, encodings, memory -/

end Sys2Proof.Machine

section
open Sys2Proof Sys2Proof.Machine

/-- A step runs what the machine fetches (R70, R108, R230): the turn at the head of the agenda, or a free one where it is empty. In
a core's turn the cycles pass, its objects are evaluated, and the context that holds the core fetches at its pc; the instruction
that the 64 bytes there decode to is executed, and several operations of one bundle are issued together (R107); a bundle fetched
before and held back issues unchanged. With the first bundle that it issues, a lead's node becomes running (R10, R64). A hart executes the
instruction that the bytes at its pc decode to, or takes the exception of an illegal one. Another agent's step is executed on what
the turn names. That an agenda orders the agents is the model's (log entries 1 and 3). -/
def Obligations.StepRunsWhatItFetches : Prop :=
  (∀ (s : State), s.agenda = [] → step s = step { s with turns := s.turns + 1, agenda := [Config.schedule s.turns] })
  ∧ (∀ (s : State) (r : List Turn) (pos core n ck : Nat) (busy : Busy) (dts : List Nat),
      s.agenda = { who := .core pos core busy n, dts := dts } :: r → pos < 4 → core < 34 →
      let s1 := advance { s with agenda := r } dts
      let k := coreKey pos core
      let s2 := evalObjs (s1.modCore k fun c => { c with cycle := c.cycle + n }) k
      let s2' := passOn s2 k ck
      let s3 := { s2' with focus := { pos := ckPos ck, core := corePhys (ckCore ck), ctx := ckCtx ck, storer := false, busy := busy,
                                      arg := EvArg.zero } }
      let c := s3.ctx ck
      let after := fun o : Out => andThen o fun t => afterTurn t ck c
      asleep s1 pos = false → (s2.core k).consort = none → holder s2 k = some ck →
      ¬ (c.live = true ∧ (c.stalled = true ∨ c.stepReady = true)) →
      (∀ ws, c.fetched = some ws → step s = after (runBundle ws s3))
      ∧ (∀ a, c.fetched = none → c.pc < (curImage s3 ck).2 → c.buffered = none → storePa s3 ck = some a → s3.readBad a 64 = false →
        let bs := s3.mem.readBytes a 64
        let s4 := noteFetch s3 ck (slotWords 8 bs)
        (∀ i, decode bs = some i → step s = after (exec i s4))
        ∧ (decode bs = none →
          step s = after (.next (issueState (bundleOf (slotWords 8 bs)).pfx (partsIn (bundleOf (slotWords 8 bs))) none s4)))
        ∧ (s3.weak = [] → c.loops = [] → s4.mem = s3.mem ∧ s4.ctx ck = { c with fetched := some (slotWords 8 bs) }
          ∧ s4.chips = s3.chips ∧ s4.focus = s3.focus)))
  ∧ (∀ (t : State) (ck : Nat) (c0 : Ctx) (n : Node), let c := t.ctx ck
      c.gid = c0.gid → c.idx = c0.idx → c.st ≠ .draining → t.node? (ckPos ck) c.gid c.idx = some n → (t.eng (ckPos ck)).dead = [] →
      (c.bundleNo ≠ c0.bundleNo → n.dispatched = true → ∃ m, (afterTurn t ck c0).node? (ckPos ck) c.gid c.idx = some m ∧ m.st = 3)
      ∧ (c.bundleNo = c0.bundleNo ∨ n.dispatched = false → afterTurn t ck c0 = t))
  ∧ (∀ (s : State) (r : List Turn) (pos core : Nat) (storer drop : Bool) (dts : List Nat),
      s.agenda = { who := .hart pos core storer drop, dts := dts } :: r → pos < 4 → core < 34 →
      let s1 := advance { s with agenda := r } dts
      let s2 := { s1 with focus := { pos := pos, core := core, ctx := 0, storer := storer, busy := Busy.none
                                     arg := { EvArg.zero with flag := drop } } }
      let pa := hartIst s2 + s2.hart.pc.toNat
      asleep s1 pos = false → s2.hart.live = true → s2.hart.pc.toNat % 2 = 0 → s2.hart.pc.toNat ≤ 0x7FFC → s2.bad = [] → s2.weak = [] →
      let bs := s2.mem.readBytes pa 4
      (∀ i n, decodeHart bs = some (i, n) → step s = exec i s2) ∧ (decodeHart bs = none → step s = exec (.hartException 0x01) s2))
  ∧ ∀ (s : State) (r : List Turn) (i : Instr) (a : EvArg) (dts : List Nat),
      s.agenda = { who := .event i a, dts := dts } :: r → isEvent i = true → unitOk a.pos a.core a.ctx = true →
      let s1 := advance { s with agenda := r } dts
      step s = exec i { s1 with focus := { s1.focus with pos := a.pos, core := a.core, ctx := a.ctx, arg := a } }


/-- What the manual gives for reset: every context idle and at privilege level 0 with a slip budget of 16 (R106, Table 6-4); the
maps of Table 4-1; QSTAT of Table 16-7; a core quota of 120 A and the thresholds of Table 20-4; the measurement zero (R47); no link
up, no firmware running, no graph, no sealed image, no cap below level 4 (R52); no sector in error. Memory is in its canonical form.
The values that no table gives are not part of it. -/
def Obligations.ResetState : Prop :=
  let s := State.reset
  s.memOk ∧ s.bad = [] ∧ s.weak = [] ∧ s.quorum.cap = 4 ∧ s.quorum.prop = none ∧ s.tsets = [] ∧ s.images = []
  ∧ (∀ ck, let c := s.ctx ck
      c.st = .idle ∧ c.tl = 0 ∧ c.res = false ∧ c.budget = 16 ∧ c.wp = 0 ∧ c.flags = 0 ∧ c.inflight = [] ∧ c.loops = [])
  ∧ (∀ k, (s.core k).active = none ∧ (s.core k).owner = none ∧ (s.core k).trip = 0 ∧ (s.core k).copies = [] ∧ (s.core k).engine = []
      ∧ (s.core k).loader.running = false ∧ (s.core k).storer.running = false)
  ∧ ∀ pos, let c := s.chip pos
      (∀ n, n < 32 → (c.lc n).pcore = n ∧ (c.lc n).valid = true ∧ (c.lc n).cstate = 0 ∧ (c.lc n).owned = false)
      ∧ (∀ l, l < 4 → c.posOf l = l) ∧ c.br.retired = 0 ∧ c.br.dec = 15 ∧ c.br.level = 0 ∧ c.br.carr = 0xE4 ∧ c.br.qevt = 0
      ∧ c.eng.quota = 240 ∧ c.eng.graphs = [] ∧ c.power.thctl = 0x877D7305 ∧ c.power.tstate = 0
      ∧ sget (0, -32768, true) c.power.temps 0 = (0, -32768, true) ∧ c.boot.meas = List.replicate 32 0
      ∧ c.boot.fwRun = false ∧ c.boot.romOk = false ∧ c.boot.dramOk = false ∧ c.boot.linksUp = false ∧ c.tbCtl = 0
      ∧ c.mail.busy = false ∧ ∀ q, (s.link pos q).st = 0


/-- Words that the manual writes out, each alone in its bundle, decode to what it says of them (R81 to R89, R105): LI s21, 0x1234;
BR.LT s20, s21 by −3 with hint 1; MFSR s22, CT; VMAD.F32 v8, v1, v2 in VA; SMIR.ADD s20, s21, s22; TKPOST k9 to s22, remote; jc.sub
a0, a1, ch2. -/
def Obligations.WordsDecode : Prop :=
  let at_ := fun k w : Nat => decodeTableWord 512 (w * 2 ^ (64 * k))
  let r : Rrr := { lat := 0, rm := 0, fi := 0, fo := 0, sat := 0, ef := 0, d := 0, a := 0, b := 0, msk := 0, x := 0 }
  let ri : Ri := { lat := 0, rm := 0, fi := 0, fo := 0, sat := 0, ef := 0, d := 0, a := 0, imm := 0 }
  at_ 0 0x2900001500001234 = some (.li Pfx.zero { ri with d := 21, imm := 0x1234 })
  ∧ at_ 0 0x40035154FFFFFFFD
    = some (.br Pfx.zero { z1 := 0, cond := 3, sa := 20, sb := 21, hint := 1, z2 := 0, off := BitVec.ofInt 32 (-3) })
  ∧ at_ 0 0x6010001600000010 = some (.mfsr Pfx.zero { ri with lat := 1, d := 22, imm := 0x10 })
  ∧ at_ 1 0x05303C0800402000 = some (.vmad Pfx.zero .va { r with lat := 3, ef := 0x0F, d := 8, a := 1, b := 2 })
  ∧ at_ 2 0xE000001405416001 = some (.smir Pfx.zero { r with d := 20, a := 21, b := 22, x := 1 })
  ∧ at_ 7 0x0220000B00048001
    = some (.tkpost { Pfx.zero with sc := 2 } { a := 22, b := 0, k1 := 9, k2 := 0, k3 := 0, sf := 1 })
  ∧ decodeTableWord 32 0x0405A50B = some (.jcSub 2 11 10)


/-- Decoding what the encoder writes gives the instruction back, for every well-formed instruction that a program text holds: of a
bundle (R75 to R88), or of a hart (R104, R105); and its length is that of its bytes. -/
def Obligations.EncodingsRoundTrip : Prop :=
  ∀ (i : Instr), i.wf = true → (slotWord i).isSome = true ∨ (hartBytes i).isSome = true →
    decode (encode i) = some i
    ∧ ((slotWord i).isSome = true → (encode i).length = 64)
    ∧ ∀ bs rest, slotWord i = none → hartBytes i = some bs → decodeHart (bs ++ rest) = some (i, bs.length)


/-- Memory in its canonical form (addresses strictly rising, no entry equal to what an unlisted address reads as) stays so in every
step, whoever takes it. The form of memory, and what an unlisted byte reads as, are the model's (log entry 5). -/
def Obligations.EveryStepKeepsMemoryCanonical : Prop :=
  ∀ (s t : State), s.memOk → step s = .next t → t.memOk

end
end

