-- ==== Sys2Proof/Laws/SMap.lean ====
section
/-!
SUPPORT. Sparse maps: reading after writing, and the canonical form of memory, which every memory operation keeps.
-/
namespace Sys2Proof.Machine
open Sys2Proof

/-! ## Reading after writing -/

theorem sget?_sput {α : Type} (m : SMap α) (k j : Nat) (v : α) :
    sget? (sput m k v) j = if j = k then some v else sget? m j := by
  induction m with
  | nil => simp [sput, sget?, eq_comm]
  | cons c m ih =>
    obtain ⟨k', v'⟩ := c
    by_cases h1 : k < k'
    · by_cases hj : j = k
      · subst hj; simp [sput, h1, sget?]
      · simp [sput, h1, sget?, hj, Ne.symm hj]
    · by_cases h2 : k = k'
      · subst h2
        by_cases hj : j = k
        · subst hj; simp [sput, sget?]
        · simp [sput, sget?, hj, Ne.symm hj]
      · by_cases hj : j = k
        · subst hj
          simp [sput, h1, h2, sget?, Ne.symm h2, ih]
        · simp only [sput, h1, h2, sget?, if_false]
          split
          · rfl
          · simp [ih, hj]

@[simp] theorem sget_sput_self {α : Type} (d : α) (m : SMap α) (k : Nat) (v : α) : sget d (sput m k v) k = v := by
  simp [sget, sget?_sput]

theorem sget_sput_ne {α : Type} (d : α) (m : SMap α) (k j : Nat) (v : α) (h : j ≠ k) :
    sget d (sput m k v) j = sget d m j := by
  simp [sget, sget?_sput, h]

theorem sget_sput {α : Type} (d : α) (m : SMap α) (k j : Nat) (v : α) :
    sget d (sput m k v) j = if j = k then v else sget d m j := by
  split
  · subst_vars; simp
  · exact sget_sput_ne _ _ _ _ _ ‹_›

theorem sget?_sdel_ne {α : Type} (m : SMap α) (k j : Nat) (h : j ≠ k) : sget? (sdel m k) j = sget? m j := by
  induction m with
  | nil => rfl
  | cons c m ih =>
    obtain ⟨k', v'⟩ := c
    by_cases h2 : k = k'
    · subst h2; simp [sdel, sget?, Ne.symm h]
    · simp only [sdel, h2, if_false, sget?]
      split
      · rfl
      · exact ih

/-! ## Rising keys -/

theorem risingFrom_weaken {α : Type} {a b : Option Nat} (m : SMap α) (h : risingFrom b m = true)
    (hab : ∀ x, a = some x → ∃ y, b = some y ∧ x ≤ y) : risingFrom a m = true := by
  cases m with
  | nil => cases a <;> rfl
  | cons c m =>
    obtain ⟨k, v⟩ := c
    cases a with
    | none =>
      cases b with
      | none => exact h
      | some y => simp only [risingFrom, Bool.and_eq_true, decide_eq_true_eq] at h ⊢; exact h.2
    | some x =>
      obtain ⟨y, rfl, hxy⟩ := hab x rfl
      simp only [risingFrom, Bool.and_eq_true, decide_eq_true_eq] at h ⊢
      exact ⟨by omega, h.2⟩

theorem risingFrom_none {α : Type} {b : Option Nat} (m : SMap α) (h : risingFrom b m = true) : risingFrom none m = true :=
  risingFrom_weaken m h fun _ h => by cases h

theorem risingFrom_sput {α : Type} (m : SMap α) (b : Option Nat) (k : Nat) (v : α) (h : risingFrom b m = true)
    (hb : ∀ x, b = some x → x < k) : risingFrom b (sput m k v) = true := by
  induction m generalizing b with
  | nil =>
    cases b with
    | none => rfl
    | some x => simp [sput, risingFrom, hb x rfl]
  | cons c m ih =>
    obtain ⟨k', v'⟩ := c
    have hm : risingFrom (some k') m = true := by
      cases b with
      | none => exact h
      | some x => simp only [risingFrom, Bool.and_eq_true] at h; exact h.2
    by_cases h1 : k < k'
    · simp only [sput, h1, if_true]
      cases b with
      | none => simp [risingFrom, h1, hm]
      | some x => simp [risingFrom, hb x rfl, h1, hm]
    · by_cases h2 : k = k'
      · subst h2
        simp only [sput, h1, if_false, if_true]
        cases b with
        | none => exact hm
        | some x => simp [risingFrom, hb x rfl, hm]
      · simp only [sput, h1, h2, if_false]
        have := ih (some k') hm fun x hx => by cases hx; omega
        cases b with
        | none => simpa [risingFrom] using this
        | some x =>
          simp only [risingFrom, Bool.and_eq_true, decide_eq_true_eq] at h ⊢
          exact ⟨h.1, this⟩

theorem risingFrom_sdel {α : Type} (m : SMap α) (b : Option Nat) (k : Nat) (h : risingFrom b m = true) :
    risingFrom b (sdel m k) = true := by
  induction m generalizing b with
  | nil => exact h
  | cons c m ih =>
    obtain ⟨k', v'⟩ := c
    have hm : risingFrom (some k') m = true := by
      cases b with
      | none => exact h
      | some x => simp only [risingFrom, Bool.and_eq_true] at h; exact h.2
    by_cases h2 : k = k'
    · simp only [sdel, h2, if_true]
      exact risingFrom_weaken m hm fun x hx => by
        subst hx
        simp only [risingFrom, Bool.and_eq_true, decide_eq_true_eq] at h
        exact ⟨k', rfl, by omega⟩
    · simp only [sdel, h2, if_false]
      cases b with
      | none => simpa [risingFrom] using ih (some k') hm
      | some x =>
        simp only [risingFrom, Bool.and_eq_true, decide_eq_true_eq] at h ⊢
        exact ⟨h.1, ih (some k') hm⟩

theorem risingFrom_filter {α : Type} (m : SMap α) (b : Option Nat) (p : Nat × α → Bool) (h : risingFrom b m = true) :
    risingFrom b (m.filter p) = true := by
  induction m generalizing b with
  | nil => exact h
  | cons c m ih =>
    obtain ⟨k', v'⟩ := c
    have hm : risingFrom (some k') m = true := by
      cases b with
      | none => exact h
      | some x => simp only [risingFrom, Bool.and_eq_true] at h; exact h.2
    by_cases hp : p (k', v') = true
    · simp only [List.filter_cons, hp, if_true]
      cases b with
      | none => simpa [risingFrom] using ih (some k') hm
      | some x =>
        simp only [risingFrom, Bool.and_eq_true, decide_eq_true_eq] at h ⊢
        exact ⟨h.1, ih (some k') hm⟩
    · simp only [List.filter_cons, hp]
      refine ih b (risingFrom_weaken m hm fun x hx => ?_)
      subst hx
      simp only [risingFrom, Bool.and_eq_true, decide_eq_true_eq] at h
      exact ⟨k', rfl, by omega⟩

/-- No key at or below the bound is listed. -/
theorem sget?_none_of_le {α : Type} (m : SMap α) (x k : Nat) (h : risingFrom (some x) m = true) (hk : k ≤ x) :
    sget? m k = none := by
  induction m generalizing x with
  | nil => rfl
  | cons c m ih =>
    obtain ⟨k', v'⟩ := c
    simp only [risingFrom, Bool.and_eq_true, decide_eq_true_eq] at h
    have : k' ≠ k := by omega
    simp only [sget?, this, if_false]
    exact ih k' h.2 (by omega)

theorem sget?_sdel_self {α : Type} (m : SMap α) (b : Option Nat) (k : Nat) (h : risingFrom b m = true) :
    sget? (sdel m k) k = none := by
  induction m generalizing b with
  | nil => rfl
  | cons c m ih =>
    obtain ⟨k', v'⟩ := c
    have hm : risingFrom (some k') m = true := by
      cases b with
      | none => exact h
      | some x => simp only [risingFrom, Bool.and_eq_true] at h; exact h.2
    by_cases h2 : k = k'
    · subst h2; simp only [sdel, if_true]; exact sget?_none_of_le m k k hm (Nat.le_refl _)
    · simp only [sdel, h2, if_false, sget?, Ne.symm h2]
      exact ih (some k') hm

/-! ## Memory -/

theorem all_sput {α : Type} (p : Nat × α → Bool) (m : SMap α) (k : Nat) (v : α) (h : m.all p = true) (hv : p (k, v) = true) :
    (sput m k v).all p = true := by
  induction m with
  | nil => simp [sput, hv]
  | cons c m ih =>
    obtain ⟨k', v'⟩ := c
    simp only [List.all_cons, Bool.and_eq_true] at h
    simp only [sput]
    split
    · simp only [List.all_cons, Bool.and_eq_true]; exact ⟨hv, h⟩
    · split
      · simp only [List.all_cons, Bool.and_eq_true]; exact ⟨hv, h.2⟩
      · simp only [List.all_cons, Bool.and_eq_true]; exact ⟨h.1, ih h.2⟩

theorem all_sdel {α : Type} (p : Nat × α → Bool) (m : SMap α) (k : Nat) (h : m.all p = true) : (sdel m k).all p = true := by
  induction m with
  | nil => rfl
  | cons c m ih =>
    obtain ⟨k', v'⟩ := c
    simp only [List.all_cons, Bool.and_eq_true] at h
    simp only [sdel]
    split
    · exact h.2
    · simp only [List.all_cons, Bool.and_eq_true]; exact ⟨h.1, ih h.2⟩

/-- Writing one byte keeps the canonical form. -/
@[simp] theorem Mem.write_wf (m : Mem) (a : Nat) (v : Byte) (h : m.wf = true) : (m.write a v).wf = true := by
  simp only [Mem.wf, Bool.and_eq_true] at h ⊢
  by_cases hv : v = Mem.fill
  · simp only [Mem.write, hv, if_true]
    exact ⟨risingFrom_sdel m none a h.1, all_sdel _ m a h.2⟩
  · simp only [Mem.write, hv, if_false]
    exact ⟨risingFrom_sput m none a v h.1 (by simp), all_sput _ m a v h.2 (by simp [hv])⟩

@[simp] theorem Mem.writeBytes_wf (m : Mem) (a : Nat) (bs : List Byte) (h : m.wf = true) : (m.writeBytes a bs).wf = true := by
  induction bs generalizing m a with
  | nil => exact h
  | cons b bs ih => exact ih _ _ (Mem.write_wf m a b h)

@[simp] theorem Mem.writeLE_wf (m : Mem) (a n v : Nat) (h : m.wf = true) : (m.writeLE a n v).wf = true := by
  induction n generalizing m a v with
  | zero => exact h
  | succ n ih => exact ih _ _ _ (Mem.write_wf m a _ h)

/-- Forgetting the bytes of a range keeps the canonical form. -/
@[simp] theorem Mem.filter_wf (m : Mem) (p : Host.Cell → Bool) (h : m.wf = true) : Mem.wf (m.filter p) = true := by
  simp only [Mem.wf, Bool.and_eq_true] at h ⊢
  refine ⟨risingFrom_filter m none p h.1, ?_⟩
  rw [List.all_eq_true] at h ⊢
  intro x hx
  exact h.2 x (List.mem_filter.1 hx).1

theorem Mem.read_write_ne (m : Mem) (a b : Nat) (v : Byte) (h : b ≠ a) : (m.write a v).read b = m.read b := by
  by_cases hv : v = Mem.fill
  · simp only [Mem.write, hv, if_true, Mem.read, sget]; rw [sget?_sdel_ne _ _ _ h]
  · simp only [Mem.write, hv, if_false, Mem.read]; exact sget_sput_ne _ _ _ _ _ h

theorem Mem.read_write_self (m : Mem) (a : Nat) (v : Byte) (h : m.wf = true) : (m.write a v).read a = v := by
  simp only [Mem.wf, Bool.and_eq_true] at h
  by_cases hv : v = Mem.fill
  · simp only [Mem.write, hv, if_true, Mem.read, sget]; rw [sget?_sdel_self m none a h.1]; rfl
  · simp only [Mem.write, hv, if_false, Mem.read]; exact sget_sput_self ..

/-- A write of several bytes leaves every address outside them alone. -/
theorem Mem.read_writeBytes_out (m : Mem) (a b : Nat) (bs : List Byte) (h : b < a ∨ a + bs.length ≤ b) :
    (m.writeBytes a bs).read b = m.read b := by
  induction bs generalizing m a with
  | nil => rfl
  | cons v bs ih =>
    simp only [List.length_cons] at h
    show (Mem.writeBytes (m.write a v) (a + 1) bs).read b = m.read b
    rw [ih (m.write a v) (a + 1) (by omega), Mem.read_write_ne m a b v (by omega)]

/-- A write of several bytes leaves byte `i` of them at its address. -/
theorem Mem.read_writeBytes_in (m : Mem) (a i : Nat) (bs : List Byte) (h : m.wf = true) (hi : i < bs.length) :
    (m.writeBytes a bs).read (a + i) = bs.getD i 0 := by
  induction bs generalizing m a i with
  | nil => simp at hi
  | cons v bs ih =>
    show (Mem.writeBytes (m.write a v) (a + 1) bs).read (a + i) = (v :: bs).getD i 0
    cases i with
    | zero =>
      rw [Mem.read_writeBytes_out _ _ _ _ (by omega)]
      simpa using Mem.read_write_self m a v h
    | succ i =>
      have := ih (m.write a v) (a + 1) i (Mem.write_wf m a v h) (by simpa using hi)
      rw [show a + 1 + i = a + (i + 1) by omega] at this
      simpa using this

/-- Reading several bytes depends on those bytes alone. -/
theorem Mem.readLE_congr (m m' : Mem) (a n : Nat) (h : ∀ b, a ≤ b → b < a + n → m'.read b = m.read b) :
    m'.readLE a n = m.readLE a n := by
  induction n generalizing a with
  | zero => rfl
  | succ n ih =>
    simp only [Mem.readLE]
    rw [h a (Nat.le_refl _) (by omega), ih (a + 1) fun b hb1 hb2 => h b (by omega) (by omega)]

/-- A read of bytes outside a write sees what it saw before. -/
theorem Mem.readLE_writeBytes_out (m : Mem) (a b n : Nat) (bs : List Byte) (h : b + n ≤ a ∨ a + bs.length ≤ b) :
    (m.writeBytes a bs).readLE b n = m.readLE b n :=
  Mem.readLE_congr _ _ _ _ fun x _ _ => Mem.read_writeBytes_out m a x bs (by omega)

end Sys2Proof.Machine
end

