-- ==== Sys2Proof/Laws/State.lean ====
section
/-!
SUPPORT. What each update of the state leaves of each field: one lemma per field and update, and what the accessors of chiplets,
cores and contexts read after an update.
-/
namespace Sys2Proof.Machine
open Sys2Proof

/-! ## Updates of a chiplet -/

@[simp] theorem mem_setChip (s : State) (pos : Nat) (c : Chip) : (s.setChip pos c).mem = s.mem := rfl
@[simp] theorem mem_modChip (s : State) (pos : Nat) (f : Chip → Chip) : (s.modChip pos f).mem = s.mem := rfl
@[simp] theorem bad_setChip (s : State) (pos : Nat) (c : Chip) : (s.setChip pos c).bad = s.bad := rfl
@[simp] theorem bad_modChip (s : State) (pos : Nat) (f : Chip → Chip) : (s.modChip pos f).bad = s.bad := rfl
@[simp] theorem weak_setChip (s : State) (pos : Nat) (c : Chip) : (s.setChip pos c).weak = s.weak := rfl
@[simp] theorem weak_modChip (s : State) (pos : Nat) (f : Chip → Chip) : (s.modChip pos f).weak = s.weak := rfl
@[simp] theorem scrubQ_setChip (s : State) (pos : Nat) (c : Chip) : (s.setChip pos c).scrubQ = s.scrubQ := rfl
@[simp] theorem scrubQ_modChip (s : State) (pos : Nat) (f : Chip → Chip) : (s.modChip pos f).scrubQ = s.scrubQ := rfl
@[simp] theorem cores_setChip (s : State) (pos : Nat) (c : Chip) : (s.setChip pos c).cores = s.cores := rfl
@[simp] theorem cores_modChip (s : State) (pos : Nat) (f : Chip → Chip) : (s.modChip pos f).cores = s.cores := rfl
@[simp] theorem ctxs_setChip (s : State) (pos : Nat) (c : Chip) : (s.setChip pos c).ctxs = s.ctxs := rfl
@[simp] theorem ctxs_modChip (s : State) (pos : Nat) (f : Chip → Chip) : (s.modChip pos f).ctxs = s.ctxs := rfl
@[simp] theorem posts_setChip (s : State) (pos : Nat) (c : Chip) : (s.setChip pos c).posts = s.posts := rfl
@[simp] theorem posts_modChip (s : State) (pos : Nat) (f : Chip → Chip) : (s.modChip pos f).posts = s.posts := rfl
@[simp] theorem objMsgs_setChip (s : State) (pos : Nat) (c : Chip) : (s.setChip pos c).objMsgs = s.objMsgs := rfl
@[simp] theorem objMsgs_modChip (s : State) (pos : Nat) (f : Chip → Chip) : (s.modChip pos f).objMsgs = s.objMsgs := rfl
@[simp] theorem hostWrites_setChip (s : State) (pos : Nat) (c : Chip) : (s.setChip pos c).hostWrites = s.hostWrites := rfl
@[simp] theorem hostWrites_modChip (s : State) (pos : Nat) (f : Chip → Chip) : (s.modChip pos f).hostWrites = s.hostWrites := rfl
@[simp] theorem agenda_setChip (s : State) (pos : Nat) (c : Chip) : (s.setChip pos c).agenda = s.agenda := rfl
@[simp] theorem agenda_modChip (s : State) (pos : Nat) (f : Chip → Chip) : (s.modChip pos f).agenda = s.agenda := rfl
@[simp] theorem turns_setChip (s : State) (pos : Nat) (c : Chip) : (s.setChip pos c).turns = s.turns := rfl
@[simp] theorem turns_modChip (s : State) (pos : Nat) (f : Chip → Chip) : (s.modChip pos f).turns = s.turns := rfl
@[simp] theorem free_setChip (s : State) (pos : Nat) (c : Chip) : (s.setChip pos c).free = s.free := rfl
@[simp] theorem free_modChip (s : State) (pos : Nat) (f : Chip → Chip) : (s.modChip pos f).free = s.free := rfl
@[simp] theorem nextId_setChip (s : State) (pos : Nat) (c : Chip) : (s.setChip pos c).nextId = s.nextId := rfl
@[simp] theorem nextId_modChip (s : State) (pos : Nat) (f : Chip → Chip) : (s.modChip pos f).nextId = s.nextId := rfl
@[simp] theorem focus_setChip (s : State) (pos : Nat) (c : Chip) : (s.setChip pos c).focus = s.focus := rfl
@[simp] theorem focus_modChip (s : State) (pos : Nat) (f : Chip → Chip) : (s.modChip pos f).focus = s.focus := rfl
@[simp] theorem tsets_setChip (s : State) (pos : Nat) (c : Chip) : (s.setChip pos c).tsets = s.tsets := rfl
@[simp] theorem tsets_modChip (s : State) (pos : Nat) (f : Chip → Chip) : (s.modChip pos f).tsets = s.tsets := rfl
@[simp] theorem quorum_setChip (s : State) (pos : Nat) (c : Chip) : (s.setChip pos c).quorum = s.quorum := rfl
@[simp] theorem quorum_modChip (s : State) (pos : Nat) (f : Chip → Chip) : (s.modChip pos f).quorum = s.quorum := rfl
@[simp] theorem conf_setChip (s : State) (pos : Nat) (c : Chip) : (s.setChip pos c).conf = s.conf := rfl
@[simp] theorem conf_modChip (s : State) (pos : Nat) (f : Chip → Chip) : (s.modChip pos f).conf = s.conf := rfl
@[simp] theorem hostGot_setChip (s : State) (pos : Nat) (c : Chip) : (s.setChip pos c).hostGot = s.hostGot := rfl
@[simp] theorem hostGot_modChip (s : State) (pos : Nat) (f : Chip → Chip) : (s.modChip pos f).hostGot = s.hostGot := rfl
@[simp] theorem core_setChip (s : State) (pos : Nat) (c : Chip) (n : Nat) : (s.setChip pos c).core n = s.core n := rfl
@[simp] theorem core_modChip (s : State) (pos : Nat) (f : Chip → Chip) (n : Nat) : (s.modChip pos f).core n = s.core n := rfl
@[simp] theorem ctx_setChip (s : State) (pos : Nat) (c : Chip) (n : Nat) : (s.setChip pos c).ctx n = s.ctx n := rfl
@[simp] theorem ctx_modChip (s : State) (pos : Nat) (f : Chip → Chip) (n : Nat) : (s.modChip pos f).ctx n = s.ctx n := rfl
@[simp] theorem readNat_modChip (s : State) (pos : Nat) (f : Chip → Chip) (a n : Nat) : (s.modChip pos f).readNat a n = s.readNat a n := rfl
@[simp] theorem read64_modChip (s : State) (pos : Nat) (f : Chip → Chip) (a : Nat) : (s.modChip pos f).read64 a = s.read64 a := rfl
@[simp] theorem readBad_modChip (s : State) (pos : Nat) (f : Chip → Chip) (a n : Nat) : (s.modChip pos f).readBad a n = s.readBad a n := rfl
@[simp] theorem writeBad_modChip (s : State) (pos : Nat) (f : Chip → Chip) (a n : Nat) : (s.modChip pos f).writeBad a n = s.writeBad a n := rfl
@[simp] theorem fck_modChip (s : State) (pos : Nat) (f : Chip → Chip) : (s.modChip pos f).fck = s.fck := rfl
@[simp] theorem fk_modChip (s : State) (pos : Nat) (f : Chip → Chip) : (s.modChip pos f).fk = s.fk := rfl
@[simp] theorem now_modChip (s : State) (pos : Nat) (f : Chip → Chip) (n : Nat) : (s.modChip pos f).now n = s.now n := rfl

/-! ## Updates of a core -/

@[simp] theorem mem_setCore (s : State) (k : Nat) (c : CoreSt) : (s.setCore k c).mem = s.mem := rfl
@[simp] theorem mem_modCore (s : State) (k : Nat) (f : CoreSt → CoreSt) : (s.modCore k f).mem = s.mem := rfl
@[simp] theorem bad_setCore (s : State) (k : Nat) (c : CoreSt) : (s.setCore k c).bad = s.bad := rfl
@[simp] theorem bad_modCore (s : State) (k : Nat) (f : CoreSt → CoreSt) : (s.modCore k f).bad = s.bad := rfl
@[simp] theorem weak_setCore (s : State) (k : Nat) (c : CoreSt) : (s.setCore k c).weak = s.weak := rfl
@[simp] theorem weak_modCore (s : State) (k : Nat) (f : CoreSt → CoreSt) : (s.modCore k f).weak = s.weak := rfl
@[simp] theorem scrubQ_setCore (s : State) (k : Nat) (c : CoreSt) : (s.setCore k c).scrubQ = s.scrubQ := rfl
@[simp] theorem scrubQ_modCore (s : State) (k : Nat) (f : CoreSt → CoreSt) : (s.modCore k f).scrubQ = s.scrubQ := rfl
@[simp] theorem chips_setCore (s : State) (k : Nat) (c : CoreSt) : (s.setCore k c).chips = s.chips := rfl
@[simp] theorem chips_modCore (s : State) (k : Nat) (f : CoreSt → CoreSt) : (s.modCore k f).chips = s.chips := rfl
@[simp] theorem ctxs_setCore (s : State) (k : Nat) (c : CoreSt) : (s.setCore k c).ctxs = s.ctxs := rfl
@[simp] theorem ctxs_modCore (s : State) (k : Nat) (f : CoreSt → CoreSt) : (s.modCore k f).ctxs = s.ctxs := rfl
@[simp] theorem posts_setCore (s : State) (k : Nat) (c : CoreSt) : (s.setCore k c).posts = s.posts := rfl
@[simp] theorem posts_modCore (s : State) (k : Nat) (f : CoreSt → CoreSt) : (s.modCore k f).posts = s.posts := rfl
@[simp] theorem objMsgs_setCore (s : State) (k : Nat) (c : CoreSt) : (s.setCore k c).objMsgs = s.objMsgs := rfl
@[simp] theorem objMsgs_modCore (s : State) (k : Nat) (f : CoreSt → CoreSt) : (s.modCore k f).objMsgs = s.objMsgs := rfl
@[simp] theorem hostWrites_setCore (s : State) (k : Nat) (c : CoreSt) : (s.setCore k c).hostWrites = s.hostWrites := rfl
@[simp] theorem hostWrites_modCore (s : State) (k : Nat) (f : CoreSt → CoreSt) : (s.modCore k f).hostWrites = s.hostWrites := rfl
@[simp] theorem agenda_setCore (s : State) (k : Nat) (c : CoreSt) : (s.setCore k c).agenda = s.agenda := rfl
@[simp] theorem agenda_modCore (s : State) (k : Nat) (f : CoreSt → CoreSt) : (s.modCore k f).agenda = s.agenda := rfl
@[simp] theorem turns_setCore (s : State) (k : Nat) (c : CoreSt) : (s.setCore k c).turns = s.turns := rfl
@[simp] theorem turns_modCore (s : State) (k : Nat) (f : CoreSt → CoreSt) : (s.modCore k f).turns = s.turns := rfl
@[simp] theorem free_setCore (s : State) (k : Nat) (c : CoreSt) : (s.setCore k c).free = s.free := rfl
@[simp] theorem free_modCore (s : State) (k : Nat) (f : CoreSt → CoreSt) : (s.modCore k f).free = s.free := rfl
@[simp] theorem nextId_setCore (s : State) (k : Nat) (c : CoreSt) : (s.setCore k c).nextId = s.nextId := rfl
@[simp] theorem nextId_modCore (s : State) (k : Nat) (f : CoreSt → CoreSt) : (s.modCore k f).nextId = s.nextId := rfl
@[simp] theorem focus_setCore (s : State) (k : Nat) (c : CoreSt) : (s.setCore k c).focus = s.focus := rfl
@[simp] theorem focus_modCore (s : State) (k : Nat) (f : CoreSt → CoreSt) : (s.modCore k f).focus = s.focus := rfl
@[simp] theorem tsets_setCore (s : State) (k : Nat) (c : CoreSt) : (s.setCore k c).tsets = s.tsets := rfl
@[simp] theorem tsets_modCore (s : State) (k : Nat) (f : CoreSt → CoreSt) : (s.modCore k f).tsets = s.tsets := rfl
@[simp] theorem quorum_setCore (s : State) (k : Nat) (c : CoreSt) : (s.setCore k c).quorum = s.quorum := rfl
@[simp] theorem quorum_modCore (s : State) (k : Nat) (f : CoreSt → CoreSt) : (s.modCore k f).quorum = s.quorum := rfl
@[simp] theorem conf_setCore (s : State) (k : Nat) (c : CoreSt) : (s.setCore k c).conf = s.conf := rfl
@[simp] theorem conf_modCore (s : State) (k : Nat) (f : CoreSt → CoreSt) : (s.modCore k f).conf = s.conf := rfl
@[simp] theorem hostGot_setCore (s : State) (k : Nat) (c : CoreSt) : (s.setCore k c).hostGot = s.hostGot := rfl
@[simp] theorem hostGot_modCore (s : State) (k : Nat) (f : CoreSt → CoreSt) : (s.modCore k f).hostGot = s.hostGot := rfl
@[simp] theorem chip_setCore (s : State) (k : Nat) (c : CoreSt) (n : Nat) : (s.setCore k c).chip n = s.chip n := rfl
@[simp] theorem chip_modCore (s : State) (k : Nat) (f : CoreSt → CoreSt) (n : Nat) : (s.modCore k f).chip n = s.chip n := rfl
@[simp] theorem ctx_setCore (s : State) (k : Nat) (c : CoreSt) (n : Nat) : (s.setCore k c).ctx n = s.ctx n := rfl
@[simp] theorem ctx_modCore (s : State) (k : Nat) (f : CoreSt → CoreSt) (n : Nat) : (s.modCore k f).ctx n = s.ctx n := rfl
@[simp] theorem readNat_modCore (s : State) (k : Nat) (f : CoreSt → CoreSt) (a n : Nat) : (s.modCore k f).readNat a n = s.readNat a n := rfl
@[simp] theorem read64_modCore (s : State) (k : Nat) (f : CoreSt → CoreSt) (a : Nat) : (s.modCore k f).read64 a = s.read64 a := rfl
@[simp] theorem readBad_modCore (s : State) (k : Nat) (f : CoreSt → CoreSt) (a n : Nat) : (s.modCore k f).readBad a n = s.readBad a n := rfl
@[simp] theorem writeBad_modCore (s : State) (k : Nat) (f : CoreSt → CoreSt) (a n : Nat) : (s.modCore k f).writeBad a n = s.writeBad a n := rfl
@[simp] theorem fck_modCore (s : State) (k : Nat) (f : CoreSt → CoreSt) : (s.modCore k f).fck = s.fck := rfl
@[simp] theorem fk_modCore (s : State) (k : Nat) (f : CoreSt → CoreSt) : (s.modCore k f).fk = s.fk := rfl
@[simp] theorem ctOf_modCore (s : State) (k : Nat) (f : CoreSt → CoreSt) (n : Nat) : (s.modCore k f).ctOf n = s.ctOf n := rfl

/-! ## Updates of a context -/

@[simp] theorem mem_setCtx (s : State) (ck : Nat) (c : Ctx) : (s.setCtx ck c).mem = s.mem := rfl
@[simp] theorem mem_modCtx (s : State) (ck : Nat) (f : Ctx → Ctx) : (s.modCtx ck f).mem = s.mem := rfl
@[simp] theorem bad_setCtx (s : State) (ck : Nat) (c : Ctx) : (s.setCtx ck c).bad = s.bad := rfl
@[simp] theorem bad_modCtx (s : State) (ck : Nat) (f : Ctx → Ctx) : (s.modCtx ck f).bad = s.bad := rfl
@[simp] theorem weak_setCtx (s : State) (ck : Nat) (c : Ctx) : (s.setCtx ck c).weak = s.weak := rfl
@[simp] theorem weak_modCtx (s : State) (ck : Nat) (f : Ctx → Ctx) : (s.modCtx ck f).weak = s.weak := rfl
@[simp] theorem scrubQ_setCtx (s : State) (ck : Nat) (c : Ctx) : (s.setCtx ck c).scrubQ = s.scrubQ := rfl
@[simp] theorem scrubQ_modCtx (s : State) (ck : Nat) (f : Ctx → Ctx) : (s.modCtx ck f).scrubQ = s.scrubQ := rfl
@[simp] theorem chips_setCtx (s : State) (ck : Nat) (c : Ctx) : (s.setCtx ck c).chips = s.chips := rfl
@[simp] theorem chips_modCtx (s : State) (ck : Nat) (f : Ctx → Ctx) : (s.modCtx ck f).chips = s.chips := rfl
@[simp] theorem cores_setCtx (s : State) (ck : Nat) (c : Ctx) : (s.setCtx ck c).cores = s.cores := rfl
@[simp] theorem cores_modCtx (s : State) (ck : Nat) (f : Ctx → Ctx) : (s.modCtx ck f).cores = s.cores := rfl
@[simp] theorem posts_setCtx (s : State) (ck : Nat) (c : Ctx) : (s.setCtx ck c).posts = s.posts := rfl
@[simp] theorem posts_modCtx (s : State) (ck : Nat) (f : Ctx → Ctx) : (s.modCtx ck f).posts = s.posts := rfl
@[simp] theorem objMsgs_setCtx (s : State) (ck : Nat) (c : Ctx) : (s.setCtx ck c).objMsgs = s.objMsgs := rfl
@[simp] theorem objMsgs_modCtx (s : State) (ck : Nat) (f : Ctx → Ctx) : (s.modCtx ck f).objMsgs = s.objMsgs := rfl
@[simp] theorem hostWrites_setCtx (s : State) (ck : Nat) (c : Ctx) : (s.setCtx ck c).hostWrites = s.hostWrites := rfl
@[simp] theorem hostWrites_modCtx (s : State) (ck : Nat) (f : Ctx → Ctx) : (s.modCtx ck f).hostWrites = s.hostWrites := rfl
@[simp] theorem agenda_setCtx (s : State) (ck : Nat) (c : Ctx) : (s.setCtx ck c).agenda = s.agenda := rfl
@[simp] theorem agenda_modCtx (s : State) (ck : Nat) (f : Ctx → Ctx) : (s.modCtx ck f).agenda = s.agenda := rfl
@[simp] theorem turns_setCtx (s : State) (ck : Nat) (c : Ctx) : (s.setCtx ck c).turns = s.turns := rfl
@[simp] theorem turns_modCtx (s : State) (ck : Nat) (f : Ctx → Ctx) : (s.modCtx ck f).turns = s.turns := rfl
@[simp] theorem free_setCtx (s : State) (ck : Nat) (c : Ctx) : (s.setCtx ck c).free = s.free := rfl
@[simp] theorem free_modCtx (s : State) (ck : Nat) (f : Ctx → Ctx) : (s.modCtx ck f).free = s.free := rfl
@[simp] theorem nextId_setCtx (s : State) (ck : Nat) (c : Ctx) : (s.setCtx ck c).nextId = s.nextId := rfl
@[simp] theorem nextId_modCtx (s : State) (ck : Nat) (f : Ctx → Ctx) : (s.modCtx ck f).nextId = s.nextId := rfl
@[simp] theorem focus_setCtx (s : State) (ck : Nat) (c : Ctx) : (s.setCtx ck c).focus = s.focus := rfl
@[simp] theorem focus_modCtx (s : State) (ck : Nat) (f : Ctx → Ctx) : (s.modCtx ck f).focus = s.focus := rfl
@[simp] theorem tsets_setCtx (s : State) (ck : Nat) (c : Ctx) : (s.setCtx ck c).tsets = s.tsets := rfl
@[simp] theorem tsets_modCtx (s : State) (ck : Nat) (f : Ctx → Ctx) : (s.modCtx ck f).tsets = s.tsets := rfl
@[simp] theorem quorum_setCtx (s : State) (ck : Nat) (c : Ctx) : (s.setCtx ck c).quorum = s.quorum := rfl
@[simp] theorem quorum_modCtx (s : State) (ck : Nat) (f : Ctx → Ctx) : (s.modCtx ck f).quorum = s.quorum := rfl
@[simp] theorem conf_setCtx (s : State) (ck : Nat) (c : Ctx) : (s.setCtx ck c).conf = s.conf := rfl
@[simp] theorem conf_modCtx (s : State) (ck : Nat) (f : Ctx → Ctx) : (s.modCtx ck f).conf = s.conf := rfl
@[simp] theorem hostGot_setCtx (s : State) (ck : Nat) (c : Ctx) : (s.setCtx ck c).hostGot = s.hostGot := rfl
@[simp] theorem hostGot_modCtx (s : State) (ck : Nat) (f : Ctx → Ctx) : (s.modCtx ck f).hostGot = s.hostGot := rfl
@[simp] theorem chip_setCtx (s : State) (ck : Nat) (c : Ctx) (n : Nat) : (s.setCtx ck c).chip n = s.chip n := rfl
@[simp] theorem chip_modCtx (s : State) (ck : Nat) (f : Ctx → Ctx) (n : Nat) : (s.modCtx ck f).chip n = s.chip n := rfl
@[simp] theorem core_setCtx (s : State) (ck : Nat) (c : Ctx) (n : Nat) : (s.setCtx ck c).core n = s.core n := rfl
@[simp] theorem core_modCtx (s : State) (ck : Nat) (f : Ctx → Ctx) (n : Nat) : (s.modCtx ck f).core n = s.core n := rfl
@[simp] theorem readNat_modCtx (s : State) (ck : Nat) (f : Ctx → Ctx) (a n : Nat) : (s.modCtx ck f).readNat a n = s.readNat a n := rfl
@[simp] theorem read64_modCtx (s : State) (ck : Nat) (f : Ctx → Ctx) (a : Nat) : (s.modCtx ck f).read64 a = s.read64 a := rfl
@[simp] theorem readBad_modCtx (s : State) (ck : Nat) (f : Ctx → Ctx) (a n : Nat) : (s.modCtx ck f).readBad a n = s.readBad a n := rfl
@[simp] theorem writeBad_modCtx (s : State) (ck : Nat) (f : Ctx → Ctx) (a n : Nat) : (s.modCtx ck f).writeBad a n = s.writeBad a n := rfl
@[simp] theorem fck_modCtx (s : State) (ck : Nat) (f : Ctx → Ctx) : (s.modCtx ck f).fck = s.fck := rfl
@[simp] theorem fk_modCtx (s : State) (ck : Nat) (f : Ctx → Ctx) : (s.modCtx ck f).fk = s.fk := rfl
@[simp] theorem ctOf_modCtx (s : State) (ck : Nat) (f : Ctx → Ctx) (n : Nat) : (s.modCtx ck f).ctOf n = s.ctOf n := rfl
@[simp] theorem now_modCtx (s : State) (ck : Nat) (f : Ctx → Ctx) (n : Nat) : (s.modCtx ck f).now n = s.now n := rfl

/-! ## Reading back -/

@[simp] theorem chip_setChip_self (s : State) (n : Nat) (c : Chip) : (s.setChip n c).chip n = c := sget_sput_self ..
theorem chip_setChip_ne (s : State) (n m : Nat) (c : Chip) (h : m ≠ n) : (s.setChip n c).chip m = s.chip m := sget_sput_ne _ _ _ _ _ h
@[simp] theorem chip_modChip_self (s : State) (n : Nat) (f : Chip → Chip) : (s.modChip n f).chip n = f (s.chip n) := sget_sput_self ..
theorem chip_modChip_ne (s : State) (n m : Nat) (f : Chip → Chip) (h : m ≠ n) : (s.modChip n f).chip m = s.chip m :=
  sget_sput_ne _ _ _ _ _ h
theorem chip_modChip (s : State) (n m : Nat) (f : Chip → Chip) :
    (s.modChip n f).chip m = if m = n then f (s.chip n) else s.chip m := by
  split
  · subst_vars; simp
  · exact chip_modChip_ne _ _ _ _ ‹_›

@[simp] theorem core_setCore_self (s : State) (n : Nat) (c : CoreSt) : (s.setCore n c).core n = c := sget_sput_self ..
theorem core_setCore_ne (s : State) (n m : Nat) (c : CoreSt) (h : m ≠ n) : (s.setCore n c).core m = s.core m := sget_sput_ne _ _ _ _ _ h
@[simp] theorem core_modCore_self (s : State) (n : Nat) (f : CoreSt → CoreSt) : (s.modCore n f).core n = f (s.core n) := sget_sput_self ..
theorem core_modCore_ne (s : State) (n m : Nat) (f : CoreSt → CoreSt) (h : m ≠ n) : (s.modCore n f).core m = s.core m :=
  sget_sput_ne _ _ _ _ _ h
theorem core_modCore (s : State) (n m : Nat) (f : CoreSt → CoreSt) :
    (s.modCore n f).core m = if m = n then f (s.core n) else s.core m := by
  split
  · subst_vars; simp
  · exact core_modCore_ne _ _ _ _ ‹_›

@[simp] theorem ctx_setCtx_self (s : State) (n : Nat) (c : Ctx) : (s.setCtx n c).ctx n = c := sget_sput_self ..
theorem ctx_setCtx_ne (s : State) (n m : Nat) (c : Ctx) (h : m ≠ n) : (s.setCtx n c).ctx m = s.ctx m := sget_sput_ne _ _ _ _ _ h
@[simp] theorem ctx_modCtx_self (s : State) (n : Nat) (f : Ctx → Ctx) : (s.modCtx n f).ctx n = f (s.ctx n) := sget_sput_self ..
theorem ctx_modCtx_ne (s : State) (n m : Nat) (f : Ctx → Ctx) (h : m ≠ n) : (s.modCtx n f).ctx m = s.ctx m :=
  sget_sput_ne _ _ _ _ _ h
theorem ctx_modCtx (s : State) (n m : Nat) (f : Ctx → Ctx) :
    (s.modCtx n f).ctx m = if m = n then f (s.ctx n) else s.ctx m := by
  split
  · subst_vars; simp
  · exact ctx_modCtx_ne _ _ _ _ ‹_›

/-! ## Counters -/

@[simp] theorem mem_takeFree (s : State) : s.takeFree.2.mem = s.mem := rfl
@[simp] theorem bad_takeFree (s : State) : s.takeFree.2.bad = s.bad := rfl
@[simp] theorem weak_takeFree (s : State) : s.takeFree.2.weak = s.weak := rfl
@[simp] theorem scrubQ_takeFree (s : State) : s.takeFree.2.scrubQ = s.scrubQ := rfl
@[simp] theorem chips_takeFree (s : State) : s.takeFree.2.chips = s.chips := rfl
@[simp] theorem cores_takeFree (s : State) : s.takeFree.2.cores = s.cores := rfl
@[simp] theorem ctxs_takeFree (s : State) : s.takeFree.2.ctxs = s.ctxs := rfl
@[simp] theorem posts_takeFree (s : State) : s.takeFree.2.posts = s.posts := rfl
@[simp] theorem objMsgs_takeFree (s : State) : s.takeFree.2.objMsgs = s.objMsgs := rfl
@[simp] theorem hostWrites_takeFree (s : State) : s.takeFree.2.hostWrites = s.hostWrites := rfl
@[simp] theorem agenda_takeFree (s : State) : s.takeFree.2.agenda = s.agenda := rfl
@[simp] theorem turns_takeFree (s : State) : s.takeFree.2.turns = s.turns := rfl
@[simp] theorem nextId_takeFree (s : State) : s.takeFree.2.nextId = s.nextId := rfl
@[simp] theorem focus_takeFree (s : State) : s.takeFree.2.focus = s.focus := rfl
@[simp] theorem tsets_takeFree (s : State) : s.takeFree.2.tsets = s.tsets := rfl
@[simp] theorem quorum_takeFree (s : State) : s.takeFree.2.quorum = s.quorum := rfl
@[simp] theorem conf_takeFree (s : State) : s.takeFree.2.conf = s.conf := rfl
@[simp] theorem hostGot_takeFree (s : State) : s.takeFree.2.hostGot = s.hostGot := rfl
@[simp] theorem ctx_takeFree (s : State) (n : Nat) : s.takeFree.2.ctx n = s.ctx n := rfl
@[simp] theorem core_takeFree (s : State) (n : Nat) : s.takeFree.2.core n = s.core n := rfl
@[simp] theorem chip_takeFree (s : State) (n : Nat) : s.takeFree.2.chip n = s.chip n := rfl
@[simp] theorem free_takeFree (s : State) : s.takeFree.2.free = s.free + 1 := rfl
@[simp] theorem readNat_takeFree (s : State) (a n : Nat) : s.takeFree.2.readNat a n = s.readNat a n := rfl
@[simp] theorem mem_takeId (s : State) : s.takeId.2.mem = s.mem := rfl
@[simp] theorem bad_takeId (s : State) : s.takeId.2.bad = s.bad := rfl
@[simp] theorem weak_takeId (s : State) : s.takeId.2.weak = s.weak := rfl
@[simp] theorem scrubQ_takeId (s : State) : s.takeId.2.scrubQ = s.scrubQ := rfl
@[simp] theorem chips_takeId (s : State) : s.takeId.2.chips = s.chips := rfl
@[simp] theorem cores_takeId (s : State) : s.takeId.2.cores = s.cores := rfl
@[simp] theorem ctxs_takeId (s : State) : s.takeId.2.ctxs = s.ctxs := rfl
@[simp] theorem posts_takeId (s : State) : s.takeId.2.posts = s.posts := rfl
@[simp] theorem objMsgs_takeId (s : State) : s.takeId.2.objMsgs = s.objMsgs := rfl
@[simp] theorem hostWrites_takeId (s : State) : s.takeId.2.hostWrites = s.hostWrites := rfl
@[simp] theorem agenda_takeId (s : State) : s.takeId.2.agenda = s.agenda := rfl
@[simp] theorem turns_takeId (s : State) : s.takeId.2.turns = s.turns := rfl
@[simp] theorem free_takeId (s : State) : s.takeId.2.free = s.free := rfl
@[simp] theorem focus_takeId (s : State) : s.takeId.2.focus = s.focus := rfl
@[simp] theorem tsets_takeId (s : State) : s.takeId.2.tsets = s.tsets := rfl
@[simp] theorem quorum_takeId (s : State) : s.takeId.2.quorum = s.quorum := rfl
@[simp] theorem conf_takeId (s : State) : s.takeId.2.conf = s.conf := rfl
@[simp] theorem hostGot_takeId (s : State) : s.takeId.2.hostGot = s.hostGot := rfl
@[simp] theorem ctx_takeId (s : State) (n : Nat) : s.takeId.2.ctx n = s.ctx n := rfl
@[simp] theorem core_takeId (s : State) (n : Nat) : s.takeId.2.core n = s.core n := rfl
@[simp] theorem chip_takeId (s : State) (n : Nat) : s.takeId.2.chip n = s.chip n := rfl
@[simp] theorem nextId_takeId (s : State) : s.takeId.2.nextId = s.nextId + 1 := rfl
@[simp] theorem readNat_takeId (s : State) (a n : Nat) : s.takeId.2.readNat a n = s.readNat a n := rfl
@[simp] theorem takeId_fst (s : State) : s.takeId.1 = s.nextId := rfl
@[simp] theorem takeFree_fst (s : State) : s.takeFree.1 = Config.freeW s.free := rfl

end Sys2Proof.Machine
end

