-- ==== Sys2Proof/Laws/Issue.lean ====
section
/-!
SUPPORT. What the issue of a bundle does: it commits where the conditions of R308 hold, and what a commit is where nothing else
follows the bundle.
-/
namespace Sys2Proof.Machine
open Sys2Proof

/-! ## Issue -/

theorem issueState_commit {s : State} {p : Pfx} {ops : List Parts} (h : Issues s p ops) :
    issueState p ops none s = commit (s.env p ops) ops := by
  have h1 := h.live; have h2 := h.noStep; have h3 := h.ready; have h4 := h.noFault
  have h5 := h.legal; have h6 := h.noPreempt; have h7 := h.noUser; have h8 := h.runs
  have h9 := h.noStall
  simp only [State.cur, State.env, State.atIssue] at h1 h2 h3 h4 h5 h6 h7 h8 h9
  simp only [issueState, h1, h2, h3, h4, h5, h6, h7, h8, h9, State.env, State.atIssue]
  simp

theorem issueOne_commit {s : State} {p : Pfx} {o : Parts} (h : Issues s p [o]) :
    issueOne p o s = .next (commit (s.env p [o]) [o]) := by
  simp only [issueOne, issueState_commit h]

/-- A bundle that issues passes the checks of R77 and R78. -/
theorem Issues.static {s : State} {p : Pfx} {ops : List Parts} (h : Issues s p ops) : staticTrap s.cur p ops = none := by
  have h1 := h.legal; have h2 := h.runs
  have h3 : gate (s.env p ops).c (s.env p ops).p = .go := h2
  simp only [bundleTrap, h3] at h1
  cases h4 : staticTrap (s.env p ops).c (s.env p ops).p ops with
  | none => exact h4
  | some t => simp [h4] at h1

/-- A bundle that issues has no fault of R381. -/
theorem Issues.issueTrap {s : State} {p : Pfx} {ops : List Parts} (h : Issues s p ops) :
    issueTrap (s.env p ops) ops = none := by
  have h1 := h.legal
  have h3 : gate (s.env p ops).c (s.env p ops).p = .go := h.runs
  have h4 : staticTrap (s.env p ops).c (s.env p ops).p ops = none := h.static
  simpa [bundleTrap, h3, h4] using h1

theorem trapOfFailures_none {l : List (Nat × Nat × W64)} (h : trapOfFailures l = none) : l = [] := by
  cases l with
  | nil => rfl
  | cons x l => obtain ⟨k, f, v⟩ := x; simp [trapOfFailures] at h

/-- The one operation of a bundle that issues passes its checks (R77). -/
theorem Issues.fail {s : State} {p : Pfx} {o : Parts} (h : Issues s p [o]) : o.fail s.cur = none := by
  have h1 : trapOfFailures (failures s.cur p [o]) = none := by
    have := h.static
    simp only [staticTrap] at this
    cases h2 : trapOfFailures (failures s.cur p [o]) with
    | none => rfl
    | some t => simp [h2] at this
  have h2 := trapOfFailures_none h1
  by_cases h7 : o.slot = 7
  · cases h3 : yFail s.cur p [o] with
    | some f => simp [failures, h3] at h2
    | none =>
      simp only [yFail, List.find?_cons, h7, BEq.rfl, Option.getD_some] at h3
      by_contra hne
      obtain ⟨f, hf⟩ := Option.ne_none_iff_exists'.1 hne
      simp only [hf] at h3
      repeat' split at h3
      all_goals simp_all
  · by_contra hne
    obtain ⟨f, hf⟩ := Option.ne_none_iff_exists'.1 hne
    have h7' : (o.slot == 7) = false := by simpa using h7
    simp only [failures, List.filterMap_cons, h7', hf, List.filterMap_nil, Option.map_some] at h2
    revert h2
    cases yFail s.cur p [o] <;> simp

/-- The one operation of a bundle that issues has no fault (R381). -/
theorem Issues.fault {s : State} {p : Pfx} {o : Parts} (h : Issues s p [o]) : o.faultOf (s.env p [o]) = none := by
  have h1 := trapOfFailures_none h.issueTrap
  by_contra hne
  obtain ⟨f, hf⟩ := Option.ne_none_iff_exists'.1 hne
  have h2 : slotFault (s.env p [o]) [o] o ≠ none := by
    simp only [slotFault, hf]
    cases dupToken [o] o with
    | none => simp
    | some t => obtain ⟨c, v⟩ := f; by_cases hc : c = 0x12 <;> simp_all
  obtain ⟨g, hg⟩ := Option.ne_none_iff_exists'.1 h2
  simp [hg] at h1

/-! ## What the pieces of a commit leave alone -/

theorem noteRead_clean {s : State} (hw : s.weak = []) (hb : s.bad = []) (a n : Nat) : s.noteRead a n = s := by
  simp [State.noteRead, hb, hw]

theorem foldl_id {α β : Type} (l : List α) (f : β → α → β) (s : β) (h : ∀ x, f s x = s) : l.foldl f s = s := by
  induction l with
  | nil => rfl
  | cons x l ih => simp only [List.foldl_cons, h x]; exact ih

theorem noteRegs_clean {s : State} (hw : s.weak = []) (hb : s.bad = []) (ck : Nat) (ops : List Parts) :
    noteRegs s ck ops = s := by
  unfold noteRegs
  refine foldl_id _ _ _ fun o => ?_
  rw [foldl_id (distinct ((o.srcS.filter (· != 0)).map fun n => scalarSector ck ((s.ctx ck).sphys n))) _ s
    fun n => noteRead_clean hw hb _ _]
  exact foldl_id _ _ _ fun n => noteRead_clean hw hb _ _

/-- No boundary is reached where the next bundle is not the one after the body of the innermost open level. -/
theorem loopBoundary_stay (n : Nat) (s : State) (ck : Nat)
    (h : ∀ l, (s.ctx ck).loops.getLast? = some l → (s.ctx ck).active l = true → (s.ctx ck).pc ≠ l.last + 1) :
    loopBoundary n s ck = s := by
  cases n with
  | zero => rfl
  | succ n =>
    unfold loopBoundary
    cases hl : (s.ctx ck).loops.getLast? with
    | none => simp [hl]
    | some l =>
      simp only [hl]
      split
      · rename_i h1; exact absurd h1.2 (h l hl h1.1)
      · rfl

theorem markStep_off {s : State} {ck n : Nat} {c : Ctx} (h : c.dbgStep = false) : markStep s ck c n = s := by
  simp [markStep, h]

theorem freedAt_held {s : State} {ck n : Nat} (h : (s.ctx ck).st ≠ .idle) : freedAt s ck n = s := by
  simp [freedAt, h]

/-- A commit of one operation with nothing after it, whose context keeps its node. -/
theorem commit_one {s : State} {p : Pfx} {o : Parts} (hc : Calm s) (ha : o.after (s.env p [o]) = none)
    (hi : ((o.post (s.env p [o]) (o.eff (s.env p [o]) (beginCommit s.atIssue s.fck))).ctx s.fck).st ≠ .idle)
    (hl : let t := o.post (s.env p [o]) (o.eff (s.env p [o]) (beginCommit s.atIssue s.fck))
      ∀ l, (t.ctx s.fck).loops.getLast? = some l → (t.ctx s.fck).active l = true → (t.ctx s.fck).pc ≠ l.last + 1) :
    commit (s.env p [o]) [o]
      = s.issued fun t => o.post (s.env p [o]) (o.eff (s.env p [o]) t) := by
  have e1 : (s.env p [o]).ck = s.fck := rfl
  have e2 : (s.env p [o]).pre = s.atIssue := rfl
  simp only [commit, e1, e2, noteRegs_clean hc.noWeak hc.noBad, List.foldl_cons, List.foldl_nil, List.findSome?_cons, ha,
    List.findSome?_nil]
  have hd : (s.atIssue.ctx s.fck).dbgStep = false := hc.noStep
  rw [loopBoundary_stay, freedAt_held (by simpa using hi), markStep_off hd]
  · rfl
  · intro l h1 h2
    simp only [ctx_modCtx_self] at h1 h2 ⊢
    exact hl l h1 h2

/-! ## Operations that change only their context -/

/-- A context at the start of a commit. -/
def Ctx.begun (c : Ctx) : Ctx :=
  { c with pc := c.pc + 1, bundleNo := c.bundleNo + 1, walkVa := none, walkMig := none, walkRes := none, st := .active
           fetched := none, fillBad := none }

@[simp] theorem ctx_beginCommit (s : State) (ck : Nat) : (beginCommit s ck).ctx ck = (s.ctx ck).begun := by
  simp [beginCommit, Ctx.begun]

theorem ctx_beginCommit_ne (s : State) (ck n : Nat) (h : n ≠ ck) : (beginCommit s ck).ctx n = s.ctx n := by
  simp [beginCommit, ctx_modCtx_ne _ _ _ _ h]

@[simp] theorem core_beginCommit (s : State) (ck : Nat) :
    (beginCommit s ck).core (ckCore ck) = { s.core (ckCore ck) with active := some (ckCtx ck), lastActive := ckCtx ck, yielded := false } := by
  simp [beginCommit]

theorem core_beginCommit_ne (s : State) (ck n : Nat) (h : n ≠ ckCore ck) : (beginCommit s ck).core n = s.core n := by
  simp [beginCommit, core_modCore_ne _ _ _ _ h]

@[simp] theorem mem_withId (s : State) (n : Nat) : (s.withId n).mem = s.mem := rfl
@[simp] theorem bad_withId (s : State) (n : Nat) : (s.withId n).bad = s.bad := rfl
@[simp] theorem weak_withId (s : State) (n : Nat) : (s.withId n).weak = s.weak := rfl
@[simp] theorem scrubQ_withId (s : State) (n : Nat) : (s.withId n).scrubQ = s.scrubQ := rfl
@[simp] theorem chips_withId (s : State) (n : Nat) : (s.withId n).chips = s.chips := rfl
@[simp] theorem cores_withId (s : State) (n : Nat) : (s.withId n).cores = s.cores := rfl
@[simp] theorem ctxs_withId (s : State) (n : Nat) : (s.withId n).ctxs = s.ctxs := rfl
@[simp] theorem posts_withId (s : State) (n : Nat) : (s.withId n).posts = s.posts := rfl
@[simp] theorem objMsgs_withId (s : State) (n : Nat) : (s.withId n).objMsgs = s.objMsgs := rfl
@[simp] theorem hostWrites_withId (s : State) (n : Nat) : (s.withId n).hostWrites = s.hostWrites := rfl
@[simp] theorem agenda_withId (s : State) (n : Nat) : (s.withId n).agenda = s.agenda := rfl
@[simp] theorem turns_withId (s : State) (n : Nat) : (s.withId n).turns = s.turns := rfl
@[simp] theorem free_withId (s : State) (n : Nat) : (s.withId n).free = s.free := rfl
@[simp] theorem focus_withId (s : State) (n : Nat) : (s.withId n).focus = s.focus := rfl
@[simp] theorem tsets_withId (s : State) (n : Nat) : (s.withId n).tsets = s.tsets := rfl
@[simp] theorem quorum_withId (s : State) (n : Nat) : (s.withId n).quorum = s.quorum := rfl
@[simp] theorem conf_withId (s : State) (n : Nat) : (s.withId n).conf = s.conf := rfl
@[simp] theorem hostGot_withId (s : State) (n : Nat) : (s.withId n).hostGot = s.hostGot := rfl
@[simp] theorem ctx_withId (s : State) (n k : Nat) : (s.withId n).ctx k = s.ctx k := rfl
@[simp] theorem core_withId (s : State) (n k : Nat) : (s.withId n).core k = s.core k := rfl

/-- The slip's peak (R116). -/
def Ctx.notePeak (c : Ctx) : Ctx := { c with peak := Nat.max c.peak c.slip }

theorem endBundle_eq (s : State) (ck : Nat) :
    endBundle s ck = (s.modCtx ck Ctx.notePeak).modCore (ckCore ck) fun k => { k with cycle := k.cycle + 1 } := rfl

theorem same_endBundle (s : State) (ck n : Nat) (f : Ctx → Ctx) :
    SameElse s (endBundle (((beginCommit s ck).modCtx ck f).withId n) ck) ck := by
  constructor
  case toSameRest =>
    constructor
    case ctxs => intro m hm; simp [endBundle_eq, ctx_modCtx_ne _ _ _ _ hm, ctx_beginCommit_ne _ _ _ hm]
    case cores => intro m hm; simp [endBundle_eq, core_modCore_ne _ _ _ _ hm, core_beginCommit_ne _ _ _ hm]
    all_goals simp [endBundle_eq, beginCommit]
  all_goals simp [endBundle_eq, beginCommit]

theorem core_endBundle (s : State) (ck n : Nat) (f : Ctx → Ctx) :
    (endBundle (((beginCommit s ck).modCtx ck f).withId n) ck).core (ckCore ck) = (s.core (ckCore ck)).stepped ck := by
  simp [endBundle_eq, CoreSt.stepped]

/-- A commit whose operation changes its context alone, by `f`. -/
theorem did_commit {s : State} {p : Pfx} {o : Parts} {f g : Ctx → Ctx} {n : Nat} (hc : Calm s)
    (ha : o.after (s.env p [o]) = none)
    (he : o.post (s.env p [o]) (o.eff (s.env p [o]) (beginCommit s.atIssue s.fck))
      = ((beginCommit s.atIssue s.fck).modCtx s.fck f).withId n)
    (hi : (f s.cur.begun).st ≠ .idle)
    (hl : ∀ l, (f s.cur.begun).loops.getLast? = some l → (f s.cur.begun).active l = true → (f s.cur.begun).pc ≠ l.last + 1)
    (hg : (f s.cur.begun).notePeak = g s.cur.stepped) :
    Did s (commit (s.env p [o]) [o]) g := by
  have e3 : (((beginCommit s.atIssue s.fck).modCtx s.fck f).withId n).ctx s.fck = f s.cur.begun := by
    rw [ctx_withId, ctx_modCtx_self, ctx_beginCommit]; rfl
  rw [commit_one hc ha (by rw [he, e3]; exact hi) (by simp only [he, e3]; exact hl), State.issued, he]
  refine ⟨same_endBundle _ _ _ _, core_endBundle _ _ _ _, ?_⟩
  rw [← hg, endBundle_eq, ctx_modCore, ctx_modCtx_self, e3]

/-- The next bundle lies inside the innermost open body. -/
theorem calm_begun {s : State} (hc : Calm s) :
    ∀ l, s.cur.begun.loops.getLast? = some l → s.cur.begun.active l = true → s.cur.begun.pc ≠ l.last + 1 := by
  intro l h1 h2 h3
  exact hc.inside l h1 h2 (by simpa [Ctx.begun] using h3)

/-- A commit whose operation changes nothing. -/
theorem did_commit_none {s : State} {p : Pfx} {o : Parts} (hc : Calm s) (ha : o.after (s.env p [o]) = none)
    (he : o.post (s.env p [o]) (o.eff (s.env p [o]) (beginCommit s.atIssue s.fck)) = beginCommit s.atIssue s.fck) :
    Did s (commit (s.env p [o]) [o]) id := by
  have h3 : (beginCommit s.atIssue s.fck).ctx s.fck = s.cur.begun := ctx_beginCommit _ _
  rw [commit_one hc ha (by rw [he, h3]; exact nofun) (by simp only [he, h3]; exact calm_begun hc), State.issued, he]
  refine ⟨?_, by simp [endBundle_eq, CoreSt.stepped], ?_⟩
  · constructor
    case toSameRest =>
      constructor
      case ctxs => intro m hm; simp [endBundle_eq, ctx_modCtx_ne _ _ _ _ hm, ctx_beginCommit_ne _ _ _ hm]
      case cores => intro m hm; simp [endBundle_eq, core_modCore_ne _ _ _ _ hm, core_beginCommit_ne _ _ _ hm]
      all_goals simp [endBundle_eq, beginCommit]
    all_goals simp [endBundle_eq, beginCommit]
  · rw [endBundle_eq, ctx_modCore, ctx_modCtx_self, h3]; rfl

/-! ## Writes put in flight -/

@[simp] theorem putWrite_st (c : Ctx) (w : Write) : (c.putWrite w).st = c.st := rfl
@[simp] theorem putWrite_loops (c : Ctx) (w : Write) : (c.putWrite w).loops = c.loops := rfl
@[simp] theorem putWrite_pc (c : Ctx) (w : Write) : (c.putWrite w).pc = c.pc := rfl
@[simp] theorem putWrite_active (c : Ctx) (w : Write) (l : Loop) : (c.putWrite w).active l = c.active l := rfl
@[simp] theorem putWrite_inflight (c : Ctx) (w : Write) : (c.putWrite w).inflight = c.inflight ++ [w] := rfl
@[simp] theorem putWrite_flags (c : Ctx) (w : Write) : (c.putWrite w).flags = c.flags := rfl
@[simp] theorem putWrite_sregs (c : Ctx) (w : Write) : (c.putWrite w).sregs = c.sregs := rfl
@[simp] theorem putWrite_masks (c : Ctx) (w : Write) : (c.putWrite w).masks = c.masks := rfl
theorem putWrite_notePeak (c : Ctx) (w : Write) : (c.putWrite w).notePeak = c.notePeak.putWrite w := rfl
theorem begun_notePeak (c : Ctx) : c.begun.notePeak = c.stepped := rfl

/-- The write that a bundle puts in flight with its value. -/
def readyWrite (s : State) (d : Dest) (lanes : BitVec 128) (val : VReg) (bound : Nat) (fl : BitVec 7) : Write :=
  { id := s.atIssue.nextId, dest := d, val := val, lanes := lanes, groups := d.groups, ready := true, t := s.atIssue.now s.fck
    acc := some (s.atIssue.now s.fck), bound := bound, lvl := s.cur.tl, hold := false, fl := fl }

theorem pushWrite_begun (s : State) (d : Dest) (lanes : BitVec 128) (val : VReg) (bound : Nat) (fl : BitVec 7) :
    pushWrite (beginCommit s.atIssue s.fck) s.fck d lanes val true false bound fl
      = ((beginCommit s.atIssue s.fck).modCtx s.fck fun c => c.putWrite (readyWrite s d lanes val bound fl)).withId
          (s.atIssue.nextId + 1) := by
  have h1 : (beginCommit s.atIssue s.fck).now s.fck = s.atIssue.now s.fck := by
    simp [State.now]
  have h2 : (beginCommit s.atIssue s.fck).nextId = s.atIssue.nextId := by simp [beginCommit]
  have h3 : ((beginCommit s.atIssue s.fck).ctx s.fck).tl = s.cur.tl := by rw [ctx_beginCommit]; rfl
  simp only [pushWrite, pushWriteId, State.takeId, readyWrite, h2, ← h1, ← h3]
  rfl

/-- A commit whose operation writes one register. -/
theorem did_pushWrite {s : State} {p : Pfx} {o : Parts} {d : Dest} {lanes : BitVec 128} {val : VReg} {bound : Nat} {fl : BitVec 7}
    (hc : Calm s) (ha : o.after (s.env p [o]) = none) (hp : ∀ t, o.post (s.env p [o]) t = t)
    (he : o.eff (s.env p [o]) (beginCommit s.atIssue s.fck)
      = pushWrite (beginCommit s.atIssue s.fck) s.fck d lanes val true false bound fl) :
    Did s (commit (s.env p [o]) [o]) fun c => c.putWrite (readyWrite s d lanes val bound fl) :=
  did_commit hc ha (by rw [hp, he, pushWrite_begun]) (by simp [Ctx.begun]) (by simpa using calm_begun hc) (by rw [putWrite_notePeak, begun_notePeak])

/-- A commit whose operation writes scalar register `n`. -/
theorem did_writeS {s : State} {p : Pfx} {o : Parts} {n : Nat} {v : W64} {bound : Nat}
    (hc : Calm s) (ha : o.after (s.env p [o]) = none) (hp : ∀ t, o.post (s.env p [o]) t = t)
    (he : o.eff (s.env p [o]) (beginCommit s.atIssue s.fck) = writeS (beginCommit s.atIssue s.fck) s.fck n v bound) :
    Did s (commit (s.env p [o]) [o]) (scalarWrite s n v bound) := by
  by_cases hn : n = 0
  · subst hn
    have : scalarWrite s 0 v bound = id := by funext c; simp [scalarWrite]
    rw [this]
    exact did_commit_none hc ha (by rw [hp, he]; simp [writeS])
  · have h1 : ((beginCommit s.atIssue s.fck).ctx s.fck).sphys n = s.cur.sphys n := by rw [ctx_beginCommit]; rfl
    have : scalarWrite s n v bound
        = fun c => c.putWrite (readyWrite s (.s (s.cur.sphys n)) laneS (v.setWidth 1024) bound 0) := by
      funext c; simp only [scalarWrite, hn, if_false]; rfl
    rw [this]
    exact did_pushWrite hc ha hp (by rw [he]; simp only [writeS, hn, if_false, h1])

/-- A commit whose operation writes lanes of vector register `n`. -/
theorem did_writeV {s : State} {p : Pfx} {o : Parts} {n : Nat} {lanes : BitVec 128} {v : VReg} {bound : Nat} {fl : BitVec 7}
    (hc : Calm s) (ha : o.after (s.env p [o]) = none) (hp : ∀ t, o.post (s.env p [o]) t = t)
    (he : o.eff (s.env p [o]) (beginCommit s.atIssue s.fck) = writeV (beginCommit s.atIssue s.fck) s.fck n lanes v bound fl) :
    Did s (commit (s.env p [o]) [o]) (vectorWrite s n lanes v bound fl) := by
  by_cases hn : lanes = 0
  · have : vectorWrite s n lanes v bound fl = id := by funext c; simp [vectorWrite, hn]
    rw [this]
    exact did_commit_none hc ha (by rw [hp, he]; simp [writeV, hn])
  · have h1 : ((beginCommit s.atIssue s.fck).ctx s.fck).vBase = s.cur.vBase := by rw [ctx_beginCommit]; rfl
    have : vectorWrite s n lanes v bound fl = fun c => c.putWrite (readyWrite s (.v (s.cur.vBase + n)) lanes v bound fl) := by
      funext c; simp only [vectorWrite, hn, if_false]; rfl
    rw [this]
    exact did_pushWrite hc ha hp (by rw [he]; simp only [writeV, hn, if_false, h1])

/-- A commit whose operation writes lanes of mask register `n`. -/
theorem did_writeM {s : State} {p : Pfx} {o : Parts} {n : Nat} {lanes v : BitVec 128} {bound : Nat} {fl : BitVec 7}
    (hc : Calm s) (ha : o.after (s.env p [o]) = none) (hp : ∀ t, o.post (s.env p [o]) t = t)
    (he : o.eff (s.env p [o]) (beginCommit s.atIssue s.fck) = writeM (beginCommit s.atIssue s.fck) s.fck n lanes v bound fl) :
    Did s (commit (s.env p [o]) [o]) (maskWrite s n lanes v bound fl) := by
  by_cases hn : lanes = 0
  · have : maskWrite s n lanes v bound fl = id := by funext c; simp [maskWrite, hn]
    rw [this]
    exact did_commit_none hc ha (by rw [hp, he]; simp [writeM, hn])
  · have : maskWrite s n lanes v bound fl = fun c => c.putWrite (readyWrite s (.m n) lanes (v.setWidth 1024) bound fl) := by
      funext c; simp only [maskWrite, hn, if_false]; rfl
    rw [this]
    exact did_pushWrite hc ha hp (by rw [he]; simp only [writeM, hn, if_false])

end Sys2Proof.Machine
end

