-- ==== Sys2Proof/Laws/PerInstr.lean ====
section
/-!
SUPPORT. The family SlotWords: the slot word of an instruction decodes, in its slot and under the prefix of its Y slot, to the
instruction (R75, R81 to R95). One lemma per constructor; for a step that no bundle holds there is no slot word.
-/
namespace Sys2Proof

/-! ## The fields of an encoded word -/

@[simp] theorem rrrOf_rrrWord (op : BitVec 8) (f : Rrr) : rrrOf (rrrWord op f) = f := by
  cases f
  simp only [rrrOf, rrrWord, fld, Rrr.mk.injEq]
  refine ⟨?_, ?_, ?_, ?_, ?_, ?_, ?_, ?_, ?_, ?_, ?_⟩ <;> (
    ext i hi
    simp only [BitVec.getElem_extractLsb']
    change BitVec.getLsbD (w := 8+4+2+1+1+1+5+10+10+10+3+9) _ _ = _
    simp only [BitVec.getLsbD_append]
    repeat rw [if_neg (by omega)]
    try rw [if_pos (by omega)]
    simp only [← BitVec.getLsbD_eq_getElem]
    congr 1
    try omega)

@[simp] theorem opOf_rrrWord (op : BitVec 8) (f : Rrr) : opOf (rrrWord op f) = op.toNat := by
  simp only [opOf, rrrWord, fld]
  congr 1
  ext i hi
  simp only [BitVec.getElem_extractLsb']
  change BitVec.getLsbD (w := 8+4+2+1+1+1+5+10+10+10+3+9) _ _ = _
  simp only [BitVec.getLsbD_append]
  repeat rw [if_neg (by omega)]
  try rw [if_pos (by omega)]
  simp only [← BitVec.getLsbD_eq_getElem]
  congr 1
  omega

@[simp] theorem riOf_riWord (op : BitVec 8) (f : Ri) : riOf (riWord op f) = f := by
  cases f
  simp only [riOf, riWord, fld, Ri.mk.injEq]
  refine ⟨?_, ?_, ?_, ?_, ?_, ?_, ?_, ?_, ?_⟩ <;> (
    ext i hi
    simp only [BitVec.getElem_extractLsb']
    change BitVec.getLsbD (w := 8+4+2+1+1+1+5+10+10+22) _ _ = _
    simp only [BitVec.getLsbD_append]
    repeat rw [if_neg (by omega)]
    try rw [if_pos (by omega)]
    simp only [← BitVec.getLsbD_eq_getElem]
    congr 1
    try omega)

@[simp] theorem opOf_riWord (op : BitVec 8) (f : Ri) : opOf (riWord op f) = op.toNat := by
  simp only [opOf, riWord, fld]
  congr 1
  ext i hi
  simp only [BitVec.getElem_extractLsb']
  change BitVec.getLsbD (w := 8+4+2+1+1+1+5+10+10+22) _ _ = _
  simp only [BitVec.getLsbD_append]
  repeat rw [if_neg (by omega)]
  try rw [if_pos (by omega)]
  simp only [← BitVec.getLsbD_eq_getElem]
  congr 1
  omega

@[simp] theorem brOf_brWord (op : BitVec 8) (f : Br) : brOf (brWord op f) = f := by
  cases f
  simp only [brOf, brWord, fld, Br.mk.injEq]
  refine ⟨?_, ?_, ?_, ?_, ?_, ?_, ?_⟩ <;> (
    ext i hi
    simp only [BitVec.getElem_extractLsb']
    change BitVec.getLsbD (w := 8+4+4+6+6+2+2+32) _ _ = _
    simp only [BitVec.getLsbD_append]
    repeat rw [if_neg (by omega)]
    try rw [if_pos (by omega)]
    simp only [← BitVec.getLsbD_eq_getElem]
    congr 1
    try omega)

@[simp] theorem opOf_brWord (op : BitVec 8) (f : Br) : opOf (brWord op f) = op.toNat := by
  simp only [opOf, brWord, fld]
  congr 1
  ext i hi
  simp only [BitVec.getElem_extractLsb']
  change BitVec.getLsbD (w := 8+4+4+6+6+2+2+32) _ _ = _
  simp only [BitVec.getLsbD_append]
  repeat rw [if_neg (by omega)]
  try rw [if_pos (by omega)]
  simp only [← BitVec.getLsbD_eq_getElem]
  congr 1
  omega

@[simp] theorem memFOf_memWord (op : BitVec 8) (f : MemF) : memFOf (memWord op f) = f := by
  cases f
  simp only [memFOf, memWord, fld, MemF.mk.injEq]
  refine ⟨?_, ?_, ?_, ?_, ?_, ?_, ?_, ?_⟩ <;> (
    ext i hi
    simp only [BitVec.getElem_extractLsb']
    change BitVec.getLsbD (w := 8+4+4+3+1+10+10+6+18) _ _ = _
    simp only [BitVec.getLsbD_append]
    repeat rw [if_neg (by omega)]
    try rw [if_pos (by omega)]
    simp only [← BitVec.getLsbD_eq_getElem]
    congr 1
    try omega)

@[simp] theorem opOf_memWord (op : BitVec 8) (f : MemF) : opOf (memWord op f) = op.toNat := by
  simp only [opOf, memWord, fld]
  congr 1
  ext i hi
  simp only [BitVec.getElem_extractLsb']
  change BitVec.getLsbD (w := 8+4+4+3+1+10+10+6+18) _ _ = _
  simp only [BitVec.getLsbD_append]
  repeat rw [if_neg (by omega)]
  try rw [if_pos (by omega)]
  simp only [← BitVec.getLsbD_eq_getElem]
  congr 1
  omega

@[simp] theorem engOf_engWord (op : BitVec 8) (f : Eng) : engOf (engWord op f) = f := by
  cases f
  simp only [engOf, engWord, fld, Eng.mk.injEq]
  refine ⟨?_, ?_, ?_, ?_, ?_, ?_, ?_, ?_, ?_⟩ <;> (
    ext i hi
    simp only [BitVec.getElem_extractLsb']
    change BitVec.getLsbD (w := 8+4+6+4+6+6+6+6+6+12) _ _ = _
    simp only [BitVec.getLsbD_append]
    repeat rw [if_neg (by omega)]
    try rw [if_pos (by omega)]
    simp only [← BitVec.getLsbD_eq_getElem]
    congr 1
    try omega)

@[simp] theorem opOf_engWord (op : BitVec 8) (f : Eng) : opOf (engWord op f) = op.toNat := by
  simp only [opOf, engWord, fld]
  congr 1
  ext i hi
  simp only [BitVec.getElem_extractLsb']
  change BitVec.getLsbD (w := 8+4+6+4+6+6+6+6+6+12) _ _ = _
  simp only [BitVec.getLsbD_append]
  repeat rw [if_neg (by omega)]
  try rw [if_pos (by omega)]
  simp only [← BitVec.getLsbD_eq_getElem]
  congr 1
  omega

@[simp] theorem cpyOf_cpyWord (op : BitVec 8) (f : Cpy) : cpyOf (cpyWord op f) = f := by
  cases f
  simp only [cpyOf, cpyWord, fld, Cpy.mk.injEq]
  refine ⟨?_, ?_, ?_, ?_, ?_, ?_, ?_, ?_, ?_, ?_⟩ <;> (
    ext i hi
    simp only [BitVec.getElem_extractLsb']
    change BitVec.getLsbD (w := 8+4+4+4+6+6+6+6+6+6+8) _ _ = _
    simp only [BitVec.getLsbD_append]
    repeat rw [if_neg (by omega)]
    try rw [if_pos (by omega)]
    simp only [← BitVec.getLsbD_eq_getElem]
    congr 1
    try omega)

@[simp] theorem opOf_cpyWord (op : BitVec 8) (f : Cpy) : opOf (cpyWord op f) = op.toNat := by
  simp only [opOf, cpyWord, fld]
  congr 1
  ext i hi
  simp only [BitVec.getElem_extractLsb']
  change BitVec.getLsbD (w := 8+4+4+4+6+6+6+6+6+6+8) _ _ = _
  simp only [BitVec.getLsbD_append]
  repeat rw [if_neg (by omega)]
  try rw [if_pos (by omega)]
  simp only [← BitVec.getLsbD_eq_getElem]
  congr 1
  omega

@[simp] theorem synOf_synWord (op : BitVec 8) (p : Pfx) (f : Syn) : synOf (synWord op p f) = f := by
  cases f
  simp only [synOf, synWord, fld, Syn.mk.injEq]
  refine ⟨?_, ?_, ?_, ?_, ?_, ?_⟩ <;> (
    ext i hi
    simp only [BitVec.getElem_extractLsb']
    change BitVec.getLsbD (w := 8+1+3+6+1+1+3+10+10+6+6+6+3) _ _ = _
    simp only [BitVec.getLsbD_append]
    repeat rw [if_neg (by omega)]
    try rw [if_pos (by omega)]
    simp only [← BitVec.getLsbD_eq_getElem]
    congr 1
    try omega)

@[simp] theorem pfxOf_synWord (op : BitVec 8) (p : Pfx) (f : Syn) : pfxOf (synWord op p f) = p := by
  cases p
  simp only [pfxOf, synWord, fld, Pfx.mk.injEq]
  refine ⟨?_, ?_, ?_, ?_, ?_, ?_⟩ <;> (
    ext i hi
    simp only [BitVec.getElem_extractLsb']
    change BitVec.getLsbD (w := 8+1+3+6+1+1+3+10+10+6+6+6+3) _ _ = _
    simp only [BitVec.getLsbD_append]
    repeat rw [if_neg (by omega)]
    try rw [if_pos (by omega)]
    simp only [← BitVec.getLsbD_eq_getElem]
    congr 1
    try omega)

@[simp] theorem opOf_synWord (op : BitVec 8) (p : Pfx) (f : Syn) : opOf (synWord op p f) = op.toNat := by
  simp only [opOf, synWord, fld]
  congr 1
  ext i hi
  simp only [BitVec.getElem_extractLsb']
  change BitVec.getLsbD (w := 8+1+3+6+1+1+3+10+10+6+6+6+3) _ _ = _
  simp only [BitVec.getLsbD_append]
  repeat rw [if_neg (by omega)]
  try rw [if_pos (by omega)]
  simp only [← BitVec.getLsbD_eq_getElem]
  congr 1
  omega

/-- Bit 7 of an RRR word is bit 7 of X (R187). -/
theorem rrrWord_bit7 (op : BitVec 8) (f : Rrr) : (rrrWord op f).getLsbD 7 = f.x.getLsbD 7 := by
  have h := congrArg (fun g : Rrr => g.x.getLsbD 7) (rrrOf_rrrWord op f)
  simpa [rrrOf, fld] using h

/-! ## The family -/

namespace Laws.SlotWords

/-- The slot word of `i`, where it has one, is decoded as `i`, in a slot of the bundle whose prefix a Y slot's word holds; its opcode is
not 0 but for the empty bundle. -/
def Statement (i : Instr) : Prop :=
  ∀ p k w, slotWord i = some (p, k, w) → i.wf = true → (∀ q, i ≠ .emptyBundle q) →
    decodeSlot k p w = some i ∧ opOf w ≠ 0 ∧ k < 8 ∧ (k = 7 → pfxOf w = p)

theorem or_left {α : Type} {a b : Option α} {x : α} (h : a = some x) : a.or b = some x := by
  rw [h]; rfl

theorem no_word {i : Instr} (h : slotWord i = none) : Statement i := by
  intro p k w hw
  rw [h] at hw
  exact absurd hw (by simp)

theorem of_word {i : Instr} {p : Pfx} {k : Nat} {w : W64} (h : slotWord i = some (p, k, w))
    (hd : i.wf = true → decodeSlot k p w = some i) (ho : opOf w ≠ 0) (hk : k < 8) (hp : k = 7 → pfxOf w = p) : Statement i := by
  intro p' k' w' hw hwf _
  rw [h] at hw
  simp only [Option.some.injEq, Prod.mk.injEq] at hw
  obtain ⟨rfl, rfl, rfl⟩ := hw
  exact ⟨hd hwf, ho, hk, hp⟩

theorem tokenArrival : Statement .tokenArrival := no_word rfl

theorem releaseTick : Statement .releaseTick := no_word rfl

theorem frameStart : Statement .frameStart := no_word rfl

theorem mirrorComplete : Statement .mirrorComplete := no_word rfl

theorem deadlineMiss : Statement .deadlineMiss := no_word rfl

theorem stretchFault : Statement .stretchFault := no_word rfl

theorem nodeCompletion : Statement .nodeCompletion := no_word rfl

theorem nodeFaultReport : Statement .nodeFaultReport := no_word rfl

theorem coneWalkComplete : Statement .coneWalkComplete := no_word rfl

theorem cancelMessage : Statement .cancelMessage := no_word rfl

theorem nodePlacement : Statement .nodePlacement := no_word rfl

theorem currentGrant : Statement .currentGrant := no_word rfl

theorem currentShortfall : Statement .currentShortfall := no_word rfl

theorem quotaChange : Statement .quotaChange := no_word rfl

theorem instructionBlockFill : Statement .instructionBlockFill := no_word rfl

theorem nodeStart : Statement .nodeStart := no_word rfl

theorem contextSave : Statement .contextSave := no_word rfl

theorem contextRestore : Statement .contextRestore := no_word rfl

theorem spareSubstitution : Statement .spareSubstitution := no_word rfl

theorem quarantine : Statement .quarantine := no_word rfl

theorem partitionReset : Statement .partitionReset := no_word rfl

theorem resultLanding : Statement .resultLanding := no_word rfl

theorem slotQueueAccept : Statement .slotQueueAccept := no_word rfl

theorem translationWalk : Statement .translationWalk := no_word rfl

theorem migrationRewalk : Statement .migrationRewalk := no_word rfl

theorem migrationTimeout : Statement .migrationTimeout := no_word rfl

theorem tlbinvComplete : Statement .tlbinvComplete := no_word rfl

theorem accessAbort : Statement .accessAbort := no_word rfl

theorem copyStart : Statement .copyStart := no_word rfl

theorem copyChunk : Statement .copyChunk := no_word rfl

theorem chainRecord : Statement .chainRecord := no_word rfl

theorem copyComplete : Statement .copyComplete := no_word rfl

theorem multicastCredit : Statement .multicastCredit := no_word rfl

theorem engineOpStart : Statement .engineOpStart := no_word rfl

theorem fretAutoDrain : Statement .fretAutoDrain := no_word rfl

theorem engineOpComplete : Statement .engineOpComplete := no_word rfl

theorem engineOpStop : Statement .engineOpStop := no_word rfl

theorem peerContribution : Statement .peerContribution := no_word rfl

theorem tokenPostArrival : Statement .tokenPostArrival := no_word rfl

theorem remoteObjectOperation : Statement .remoteObjectOperation := no_word rfl

theorem objectRegistration : Statement .objectRegistration := no_word rfl

theorem zmlReceive : Statement .zmlReceive := no_word rfl

theorem zmlAckReceive : Statement .zmlAckReceive := no_word rfl

theorem zmlNakReceive : Statement .zmlNakReceive := no_word rfl

theorem zmlResendTimeout : Statement .zmlResendTimeout := no_word rfl

theorem readResponseTimeout : Statement .readResponseTimeout := no_word rfl

theorem flitReplay : Statement .flitReplay := no_word rfl

theorem linkRetrain : Statement .linkRetrain := no_word rfl

theorem retrainComplete : Statement .retrainComplete := no_word rfl

theorem linkDown : Statement .linkDown := no_word rfl

theorem trapAsync : Statement .trapAsync := no_word rfl

theorem lateWriteReplay : Statement .lateWriteReplay := no_word rfl

theorem userInterrupt : Statement .userInterrupt := no_word rfl

theorem stepTrap : Statement .stepTrap := no_word rfl

theorem scrubRead : Statement .scrubRead := no_word rfl

theorem scrubWriteback : Statement .scrubWriteback := no_word rfl

theorem suspectDecay : Statement .suspectDecay := no_word rfl

theorem scanStart : Statement .scanStart := no_word rfl

theorem scanComplete : Statement .scanComplete := no_word rfl

theorem scanOverdue : Statement .scanOverdue := no_word rfl

theorem heartbeatSend : Statement .heartbeatSend := no_word rfl

theorem heartbeatMissed : Statement .heartbeatMissed := no_word rfl

theorem railFault : Statement .railFault := no_word rfl

theorem lockstepMismatch : Statement .lockstepMismatch := no_word rfl

theorem evidenceReceive : Statement .evidenceReceive := no_word rfl

theorem proposal : Statement .proposal := no_word rfl

theorem coordinatorTimeout : Statement .coordinatorTimeout := no_word rfl

theorem bridgeVote : Statement .bridgeVote := no_word rfl

theorem voteTimeout : Statement .voteTimeout := no_word rfl

theorem mirrorRestore : Statement .mirrorRestore := no_word rfl

theorem spareRotation : Statement .spareRotation := no_word rfl

theorem ctSampleSend : Statement .ctSampleSend := no_word rfl

theorem ctDiscipline : Statement .ctDiscipline := no_word rfl

theorem droopThrottle : Statement .droopThrottle := no_word rfl

theorem droopRelease : Statement .droopRelease := no_word rfl

theorem temperatureSample : Statement .temperatureSample := no_word rfl

theorem logHoldRelease : Statement .logHoldRelease := no_word rfl

theorem replayHostPost : Statement .replayHostPost := no_word rfl

theorem hostTokenPost : Statement .hostTokenPost := no_word rfl

theorem dataWindowWrite : Statement .dataWindowWrite := no_word rfl

theorem dataWindowRead : Statement .dataWindowRead := no_word rfl

theorem endpointReset : Statement .endpointReset := no_word rfl

theorem msixUnmask : Statement .msixUnmask := no_word rfl

theorem hvoteWrite : Statement .hvoteWrite := no_word rfl

theorem qevtWrite : Statement .qevtWrite := no_word rfl

theorem load : Statement .load := no_word rfl

theorem quote : Statement .quote := no_word rfl

theorem join : Statement .join := no_word rfl

theorem ttset : Statement .ttset := no_word rfl

theorem tsstart : Statement .tsstart := no_word rfl

theorem svnraise : Statement .svnraise := no_word rfl

theorem levelcap : Statement .levelcap := no_word rfl

theorem mailboxCompletion : Statement .mailboxCompletion := no_word rfl

theorem chipletReset : Statement .chipletReset := no_word rfl

theorem bridgeRomCheck : Statement .bridgeRomCheck := no_word rfl

theorem pcieLinkTrained : Statement .pcieLinkTrained := no_word rfl

theorem dramTrained : Statement .dramTrained := no_word rfl

theorem ucieLinksTrained : Statement .ucieLinksTrained := no_word rfl

theorem watermarkArm : Statement .watermarkArm := no_word rfl

theorem tablatureOff : Statement .tablatureOff := no_word rfl

theorem tablatureRecord : Statement .tablatureRecord := no_word rfl

theorem tablatureReplay : Statement .tablatureReplay := no_word rfl

theorem tbrdWrite : Statement .tbrdWrite := no_word rfl

theorem tbstatWrite : Statement .tbstatWrite := no_word rfl

theorem wdiscRead : Statement .wdiscRead := no_word rfl

theorem errstatRead : Statement .errstatRead := no_word rfl

theorem lkcntRead : Statement .lkcntRead := no_word rfl

theorem tbwrRead : Statement .tbwrRead := no_word rfl

theorem tempRead : Statement .tempRead := no_word rfl

theorem vmonRead : Statement .vmonRead := no_word rfl

theorem pwrstatRead : Statement .pwrstatRead := no_word rfl

theorem dbgctlRead : Statement .dbgctlRead := no_word rfl

theorem registerWrite : Statement .registerWrite := no_word rfl

theorem hartEcall : Statement .hartEcall := no_word rfl

theorem hartException (cause : Nat) : Statement (.hartException cause) := no_word rfl

theorem jqPush (n : BitVec 7) (b : RReg) (a : RReg) : Statement (.jqPush n b a) := no_word rfl

theorem jqPop (n : BitVec 7) (a : RReg) (d : RReg) : Statement (.jqPop n a d) := no_word rfl

theorem jcSub (n : BitVec 7) (a : RReg) (d : RReg) : Statement (.jcSub n a d) := no_word rfl

theorem jcWm (n : BitVec 7) (d : RReg) : Statement (.jcWm n d) := no_word rfl

theorem jtPost (n : BitVec 7) (a : RReg) : Statement (.jtPost n a) := no_word rfl

theorem jrWait (b : RReg) (a : RReg) (d : RReg) : Statement (.jrWait b a d) := no_word rfl

theorem add (p : Pfx) (f : Rrr) : Statement (.add p f) := by
  refine of_word rfl (fun _ => ?_) (by rw [opOf_rrrWord]; decide) (by decide) (absurd · (by decide))
  change decodeS p (rrrWord 0x01 f) = _; delta decodeS; rw [opOf_rrrWord, rrrOf_rrrWord]; rfl

theorem sub (p : Pfx) (f : Rrr) : Statement (.sub p f) := by
  refine of_word rfl (fun _ => ?_) (by rw [opOf_rrrWord]; decide) (by decide) (absurd · (by decide))
  change decodeS p (rrrWord 0x02 f) = _; delta decodeS; rw [opOf_rrrWord, rrrOf_rrrWord]; rfl

theorem mul (p : Pfx) (f : Rrr) : Statement (.mul p f) := by
  refine of_word rfl (fun _ => ?_) (by rw [opOf_rrrWord]; decide) (by decide) (absurd · (by decide))
  change decodeS p (rrrWord 0x03 f) = _; delta decodeS; rw [opOf_rrrWord, rrrOf_rrrWord]; rfl

theorem mulh (p : Pfx) (f : Rrr) : Statement (.mulh p f) := by
  refine of_word rfl (fun _ => ?_) (by rw [opOf_rrrWord]; decide) (by decide) (absurd · (by decide))
  change decodeS p (rrrWord 0x04 f) = _; delta decodeS; rw [opOf_rrrWord, rrrOf_rrrWord]; rfl

theorem mulhu (p : Pfx) (f : Rrr) : Statement (.mulhu p f) := by
  refine of_word rfl (fun _ => ?_) (by rw [opOf_rrrWord]; decide) (by decide) (absurd · (by decide))
  change decodeS p (rrrWord 0x05 f) = _; delta decodeS; rw [opOf_rrrWord, rrrOf_rrrWord]; rfl

theorem div (p : Pfx) (f : Rrr) : Statement (.div p f) := by
  refine of_word rfl (fun _ => ?_) (by rw [opOf_rrrWord]; decide) (by decide) (absurd · (by decide))
  change decodeS p (rrrWord 0x06 f) = _; delta decodeS; rw [opOf_rrrWord, rrrOf_rrrWord]; rfl

theorem divu (p : Pfx) (f : Rrr) : Statement (.divu p f) := by
  refine of_word rfl (fun _ => ?_) (by rw [opOf_rrrWord]; decide) (by decide) (absurd · (by decide))
  change decodeS p (rrrWord 0x07 f) = _; delta decodeS; rw [opOf_rrrWord, rrrOf_rrrWord]; rfl

theorem rem (p : Pfx) (f : Rrr) : Statement (.rem p f) := by
  refine of_word rfl (fun _ => ?_) (by rw [opOf_rrrWord]; decide) (by decide) (absurd · (by decide))
  change decodeS p (rrrWord 0x08 f) = _; delta decodeS; rw [opOf_rrrWord, rrrOf_rrrWord]; rfl

theorem remu (p : Pfx) (f : Rrr) : Statement (.remu p f) := by
  refine of_word rfl (fun _ => ?_) (by rw [opOf_rrrWord]; decide) (by decide) (absurd · (by decide))
  change decodeS p (rrrWord 0x09 f) = _; delta decodeS; rw [opOf_rrrWord, rrrOf_rrrWord]; rfl

theorem and (p : Pfx) (f : Rrr) : Statement (.and p f) := by
  refine of_word rfl (fun _ => ?_) (by rw [opOf_rrrWord]; decide) (by decide) (absurd · (by decide))
  change decodeS p (rrrWord 0x0A f) = _; delta decodeS; rw [opOf_rrrWord, rrrOf_rrrWord]; rfl

theorem or (p : Pfx) (f : Rrr) : Statement (.or p f) := by
  refine of_word rfl (fun _ => ?_) (by rw [opOf_rrrWord]; decide) (by decide) (absurd · (by decide))
  change decodeS p (rrrWord 0x0B f) = _; delta decodeS; rw [opOf_rrrWord, rrrOf_rrrWord]; rfl

theorem xor (p : Pfx) (f : Rrr) : Statement (.xor p f) := by
  refine of_word rfl (fun _ => ?_) (by rw [opOf_rrrWord]; decide) (by decide) (absurd · (by decide))
  change decodeS p (rrrWord 0x0C f) = _; delta decodeS; rw [opOf_rrrWord, rrrOf_rrrWord]; rfl

theorem andn (p : Pfx) (f : Rrr) : Statement (.andn p f) := by
  refine of_word rfl (fun _ => ?_) (by rw [opOf_rrrWord]; decide) (by decide) (absurd · (by decide))
  change decodeS p (rrrWord 0x0D f) = _; delta decodeS; rw [opOf_rrrWord, rrrOf_rrrWord]; rfl

theorem shl (p : Pfx) (f : Rrr) : Statement (.shl p f) := by
  refine of_word rfl (fun _ => ?_) (by rw [opOf_rrrWord]; decide) (by decide) (absurd · (by decide))
  change decodeS p (rrrWord 0x0E f) = _; delta decodeS; rw [opOf_rrrWord, rrrOf_rrrWord]; rfl

theorem shr (p : Pfx) (f : Rrr) : Statement (.shr p f) := by
  refine of_word rfl (fun _ => ?_) (by rw [opOf_rrrWord]; decide) (by decide) (absurd · (by decide))
  change decodeS p (rrrWord 0x0F f) = _; delta decodeS; rw [opOf_rrrWord, rrrOf_rrrWord]; rfl

theorem sra (p : Pfx) (f : Rrr) : Statement (.sra p f) := by
  refine of_word rfl (fun _ => ?_) (by rw [opOf_rrrWord]; decide) (by decide) (absurd · (by decide))
  change decodeS p (rrrWord 0x10 f) = _; delta decodeS; rw [opOf_rrrWord, rrrOf_rrrWord]; rfl

theorem rotl (p : Pfx) (f : Rrr) : Statement (.rotl p f) := by
  refine of_word rfl (fun _ => ?_) (by rw [opOf_rrrWord]; decide) (by decide) (absurd · (by decide))
  change decodeS p (rrrWord 0x11 f) = _; delta decodeS; rw [opOf_rrrWord, rrrOf_rrrWord]; rfl

theorem min (p : Pfx) (f : Rrr) : Statement (.min p f) := by
  refine of_word rfl (fun _ => ?_) (by rw [opOf_rrrWord]; decide) (by decide) (absurd · (by decide))
  change decodeS p (rrrWord 0x12 f) = _; delta decodeS; rw [opOf_rrrWord, rrrOf_rrrWord]; rfl

theorem max (p : Pfx) (f : Rrr) : Statement (.max p f) := by
  refine of_word rfl (fun _ => ?_) (by rw [opOf_rrrWord]; decide) (by decide) (absurd · (by decide))
  change decodeS p (rrrWord 0x13 f) = _; delta decodeS; rw [opOf_rrrWord, rrrOf_rrrWord]; rfl

theorem minu (p : Pfx) (f : Rrr) : Statement (.minu p f) := by
  refine of_word rfl (fun _ => ?_) (by rw [opOf_rrrWord]; decide) (by decide) (absurd · (by decide))
  change decodeS p (rrrWord 0x14 f) = _; delta decodeS; rw [opOf_rrrWord, rrrOf_rrrWord]; rfl

theorem maxu (p : Pfx) (f : Rrr) : Statement (.maxu p f) := by
  refine of_word rfl (fun _ => ?_) (by rw [opOf_rrrWord]; decide) (by decide) (absurd · (by decide))
  change decodeS p (rrrWord 0x15 f) = _; delta decodeS; rw [opOf_rrrWord, rrrOf_rrrWord]; rfl

theorem seq (p : Pfx) (f : Rrr) : Statement (.seq p f) := by
  refine of_word rfl (fun _ => ?_) (by rw [opOf_rrrWord]; decide) (by decide) (absurd · (by decide))
  change decodeS p (rrrWord 0x16 f) = _; delta decodeS; rw [opOf_rrrWord, rrrOf_rrrWord]; rfl

theorem sne (p : Pfx) (f : Rrr) : Statement (.sne p f) := by
  refine of_word rfl (fun _ => ?_) (by rw [opOf_rrrWord]; decide) (by decide) (absurd · (by decide))
  change decodeS p (rrrWord 0x17 f) = _; delta decodeS; rw [opOf_rrrWord, rrrOf_rrrWord]; rfl

theorem slt (p : Pfx) (f : Rrr) : Statement (.slt p f) := by
  refine of_word rfl (fun _ => ?_) (by rw [opOf_rrrWord]; decide) (by decide) (absurd · (by decide))
  change decodeS p (rrrWord 0x18 f) = _; delta decodeS; rw [opOf_rrrWord, rrrOf_rrrWord]; rfl

theorem sltu (p : Pfx) (f : Rrr) : Statement (.sltu p f) := by
  refine of_word rfl (fun _ => ?_) (by rw [opOf_rrrWord]; decide) (by decide) (absurd · (by decide))
  change decodeS p (rrrWord 0x19 f) = _; delta decodeS; rw [opOf_rrrWord, rrrOf_rrrWord]; rfl

theorem sle (p : Pfx) (f : Rrr) : Statement (.sle p f) := by
  refine of_word rfl (fun _ => ?_) (by rw [opOf_rrrWord]; decide) (by decide) (absurd · (by decide))
  change decodeS p (rrrWord 0x1A f) = _; delta decodeS; rw [opOf_rrrWord, rrrOf_rrrWord]; rfl

theorem sleu (p : Pfx) (f : Rrr) : Statement (.sleu p f) := by
  refine of_word rfl (fun _ => ?_) (by rw [opOf_rrrWord]; decide) (by decide) (absurd · (by decide))
  change decodeS p (rrrWord 0x1B f) = _; delta decodeS; rw [opOf_rrrWord, rrrOf_rrrWord]; rfl

theorem sel (p : Pfx) (f : Rrr) : Statement (.sel p f) := by
  refine of_word rfl (fun _ => ?_) (by rw [opOf_rrrWord]; decide) (by decide) (absurd · (by decide))
  change decodeS p (rrrWord 0x1C f) = _; delta decodeS; rw [opOf_rrrWord, rrrOf_rrrWord]; rfl

theorem clz (p : Pfx) (f : Rrr) : Statement (.clz p f) := by
  refine of_word rfl (fun _ => ?_) (by rw [opOf_rrrWord]; decide) (by decide) (absurd · (by decide))
  change decodeS p (rrrWord 0x1D f) = _; delta decodeS; rw [opOf_rrrWord, rrrOf_rrrWord]; rfl

theorem ctz (p : Pfx) (f : Rrr) : Statement (.ctz p f) := by
  refine of_word rfl (fun _ => ?_) (by rw [opOf_rrrWord]; decide) (by decide) (absurd · (by decide))
  change decodeS p (rrrWord 0x1E f) = _; delta decodeS; rw [opOf_rrrWord, rrrOf_rrrWord]; rfl

theorem popc (p : Pfx) (f : Rrr) : Statement (.popc p f) := by
  refine of_word rfl (fun _ => ?_) (by rw [opOf_rrrWord]; decide) (by decide) (absurd · (by decide))
  change decodeS p (rrrWord 0x1F f) = _; delta decodeS; rw [opOf_rrrWord, rrrOf_rrrWord]; rfl

theorem addi (p : Pfx) (f : Ri) : Statement (.addi p f) := by
  refine of_word rfl (fun _ => ?_) (by rw [opOf_riWord]; decide) (by decide) (absurd · (by decide))
  change decodeS p (riWord 0x20 f) = _; delta decodeS; rw [opOf_riWord, riOf_riWord]; rfl

theorem andi (p : Pfx) (f : Ri) : Statement (.andi p f) := by
  refine of_word rfl (fun _ => ?_) (by rw [opOf_riWord]; decide) (by decide) (absurd · (by decide))
  change decodeS p (riWord 0x21 f) = _; delta decodeS; rw [opOf_riWord, riOf_riWord]; rfl

theorem ori (p : Pfx) (f : Ri) : Statement (.ori p f) := by
  refine of_word rfl (fun _ => ?_) (by rw [opOf_riWord]; decide) (by decide) (absurd · (by decide))
  change decodeS p (riWord 0x22 f) = _; delta decodeS; rw [opOf_riWord, riOf_riWord]; rfl

theorem xori (p : Pfx) (f : Ri) : Statement (.xori p f) := by
  refine of_word rfl (fun _ => ?_) (by rw [opOf_riWord]; decide) (by decide) (absurd · (by decide))
  change decodeS p (riWord 0x23 f) = _; delta decodeS; rw [opOf_riWord, riOf_riWord]; rfl

theorem shli (p : Pfx) (f : Ri) : Statement (.shli p f) := by
  refine of_word rfl (fun _ => ?_) (by rw [opOf_riWord]; decide) (by decide) (absurd · (by decide))
  change decodeS p (riWord 0x24 f) = _; delta decodeS; rw [opOf_riWord, riOf_riWord]; rfl

theorem shri (p : Pfx) (f : Ri) : Statement (.shri p f) := by
  refine of_word rfl (fun _ => ?_) (by rw [opOf_riWord]; decide) (by decide) (absurd · (by decide))
  change decodeS p (riWord 0x25 f) = _; delta decodeS; rw [opOf_riWord, riOf_riWord]; rfl

theorem srai (p : Pfx) (f : Ri) : Statement (.srai p f) := by
  refine of_word rfl (fun _ => ?_) (by rw [opOf_riWord]; decide) (by decide) (absurd · (by decide))
  change decodeS p (riWord 0x26 f) = _; delta decodeS; rw [opOf_riWord, riOf_riWord]; rfl

theorem slti (p : Pfx) (f : Ri) : Statement (.slti p f) := by
  refine of_word rfl (fun _ => ?_) (by rw [opOf_riWord]; decide) (by decide) (absurd · (by decide))
  change decodeS p (riWord 0x27 f) = _; delta decodeS; rw [opOf_riWord, riOf_riWord]; rfl

theorem sltui (p : Pfx) (f : Ri) : Statement (.sltui p f) := by
  refine of_word rfl (fun _ => ?_) (by rw [opOf_riWord]; decide) (by decide) (absurd · (by decide))
  change decodeS p (riWord 0x28 f) = _; delta decodeS; rw [opOf_riWord, riOf_riWord]; rfl

theorem li (p : Pfx) (f : Ri) : Statement (.li p f) := by
  refine of_word rfl (fun _ => ?_) (by rw [opOf_riWord]; decide) (by decide) (absurd · (by decide))
  change decodeS p (riWord 0x29 f) = _; delta decodeS; rw [opOf_riWord, riOf_riWord]; rfl

theorem lix (p : Pfx) (f : Ri) : Statement (.lix p f) := by
  refine of_word rfl (fun _ => ?_) (by rw [opOf_riWord]; decide) (by decide) (absurd · (by decide))
  change decodeS p (riWord 0x2A f) = _; delta decodeS; rw [opOf_riWord, riOf_riWord]; rfl

theorem ext (p : Pfx) (f : Ri) : Statement (.ext p f) := by
  refine of_word rfl (fun _ => ?_) (by rw [opOf_riWord]; decide) (by decide) (absurd · (by decide))
  change decodeS p (riWord 0x2B f) = _; delta decodeS; rw [opOf_riWord, riOf_riWord]; rfl

theorem ins (p : Pfx) (f : Ri) : Statement (.ins p f) := by
  refine of_word rfl (fun _ => ?_) (by rw [opOf_riWord]; decide) (by decide) (absurd · (by decide))
  change decodeS p (riWord 0x2C f) = _; delta decodeS; rw [opOf_riWord, riOf_riWord]; rfl

theorem muli (p : Pfx) (f : Ri) : Statement (.muli p f) := by
  refine of_word rfl (fun _ => ?_) (by rw [opOf_riWord]; decide) (by decide) (absurd · (by decide))
  change decodeS p (riWord 0x2D f) = _; delta decodeS; rw [opOf_riWord, riOf_riWord]; rfl

theorem br (p : Pfx) (f : Br) : Statement (.br p f) := by
  refine of_word rfl (fun _ => ?_) (by rw [opOf_brWord]; decide) (by decide) (absurd · (by decide))
  change decodeS p (brWord 0x40 f) = _; delta decodeS; rw [opOf_brWord, brOf_brWord]; rfl

theorem bri (p : Pfx) (f : Br) : Statement (.bri p f) := by
  refine of_word rfl (fun _ => ?_) (by rw [opOf_brWord]; decide) (by decide) (absurd · (by decide))
  change decodeS p (brWord 0x41 f) = _; delta decodeS; rw [opOf_brWord, brOf_brWord]; rfl

theorem call (p : Pfx) (f : Br) : Statement (.call p f) := by
  refine of_word rfl (fun _ => ?_) (by rw [opOf_brWord]; decide) (by decide) (absurd · (by decide))
  change decodeS p (brWord 0x42 f) = _; delta decodeS; rw [opOf_brWord, brOf_brWord]; rfl

theorem calli (p : Pfx) (f : Br) : Statement (.calli p f) := by
  refine of_word rfl (fun _ => ?_) (by rw [opOf_brWord]; decide) (by decide) (absurd · (by decide))
  change decodeS p (brWord 0x43 f) = _; delta decodeS; rw [opOf_brWord, brOf_brWord]; rfl

theorem ret (p : Pfx) (f : Br) : Statement (.ret p f) := by
  refine of_word rfl (fun _ => ?_) (by rw [opOf_brWord]; decide) (by decide) (absurd · (by decide))
  change decodeS p (brWord 0x44 f) = _; delta decodeS; rw [opOf_brWord, brOf_brWord]; rfl

theorem loop (p : Pfx) (f : Br) : Statement (.loop p f) := by
  refine of_word rfl (fun _ => ?_) (by rw [opOf_brWord]; decide) (by decide) (absurd · (by decide))
  change decodeS p (brWord 0x45 f) = _; delta decodeS; rw [opOf_brWord, brOf_brWord]; rfl

theorem lstr (p : Pfx) (f : Br) : Statement (.lstr p f) := by
  refine of_word rfl (fun _ => ?_) (by rw [opOf_brWord]; decide) (by decide) (absurd · (by decide))
  change decodeS p (brWord 0x46 f) = _; delta decodeS; rw [opOf_brWord, brOf_brWord]; rfl

theorem lbrk (p : Pfx) (f : Br) : Statement (.lbrk p f) := by
  refine of_word rfl (fun _ => ?_) (by rw [opOf_brWord]; decide) (by decide) (absurd · (by decide))
  change decodeS p (brWord 0x47 f) = _; delta decodeS; rw [opOf_brWord, brOf_brWord]; rfl

theorem mfsr (p : Pfx) (f : Ri) : Statement (.mfsr p f) := by
  refine of_word rfl (fun _ => ?_) (by rw [opOf_riWord]; decide) (by decide) (absurd · (by decide))
  change decodeS p (riWord 0x60 f) = _; delta decodeS; rw [opOf_riWord, riOf_riWord]; rfl

theorem mtsr (p : Pfx) (f : Ri) : Statement (.mtsr p f) := by
  refine of_word rfl (fun _ => ?_) (by rw [opOf_riWord]; decide) (by decide) (absurd · (by decide))
  change decodeS p (riWord 0x61 f) = _; delta decodeS; rw [opOf_riWord, riOf_riWord]; rfl

theorem ecall (p : Pfx) (f : Ri) : Statement (.ecall p f) := by
  refine of_word rfl (fun _ => ?_) (by rw [opOf_riWord]; decide) (by decide) (absurd · (by decide))
  change decodeS p (riWord 0x62 f) = _; delta decodeS; rw [opOf_riWord, riOf_riWord]; rfl

theorem tret (p : Pfx) (f : Rrr) : Statement (.tret p f) := by
  refine of_word rfl (fun _ => ?_) (by rw [opOf_rrrWord]; decide) (by decide) (absurd · (by decide))
  change decodeS p (rrrWord 0x63 f) = _; delta decodeS; rw [opOf_rrrWord, rrrOf_rrrWord]; rfl

theorem uiret (p : Pfx) (f : Rrr) : Statement (.uiret p f) := by
  refine of_word rfl (fun _ => ?_) (by rw [opOf_rrrWord]; decide) (by decide) (absurd · (by decide))
  change decodeS p (rrrWord 0x64 f) = _; delta decodeS; rw [opOf_rrrWord, rrrOf_rrrWord]; rfl

theorem bkpt (p : Pfx) (f : Ri) : Statement (.bkpt p f) := by
  refine of_word rfl (fun _ => ?_) (by rw [opOf_riWord]; decide) (by decide) (absurd · (by decide))
  change decodeS p (riWord 0x65 f) = _; delta decodeS; rw [opOf_riWord, riOf_riWord]; rfl

theorem halt (p : Pfx) (f : Rrr) : Statement (.halt p f) := by
  refine of_word rfl (fun _ => ?_) (by rw [opOf_rrrWord]; decide) (by decide) (absurd · (by decide))
  change decodeS p (rrrWord 0x66 f) = _; delta decodeS; rw [opOf_rrrWord, rrrOf_rrrWord]; rfl

theorem yield (p : Pfx) (f : Rrr) : Statement (.yield p f) := by
  refine of_word rfl (fun _ => ?_) (by rw [opOf_rrrWord]; decide) (by decide) (absurd · (by decide))
  change decodeS p (rrrWord 0x67 f) = _; delta decodeS; rw [opOf_rrrWord, rrrOf_rrrWord]; rfl

theorem tlbinv (p : Pfx) (f : Rrr) : Statement (.tlbinv p f) := by
  refine of_word rfl (fun _ => ?_) (by rw [opOf_rrrWord]; decide) (by decide) (absurd · (by decide))
  change decodeS p (rrrWord 0x68 f) = _; delta decodeS; rw [opOf_rrrWord, rrrOf_rrrWord]; rfl

theorem icinv (p : Pfx) (f : Rrr) : Statement (.icinv p f) := by
  refine of_word rfl (fun _ => ?_) (by rw [opOf_rrrWord]; decide) (by decide) (absurd · (by decide))
  change decodeS p (rrrWord 0x69 f) = _; delta decodeS; rw [opOf_rrrWord, rrrOf_rrrWord]; rfl

theorem kill (p : Pfx) (f : Rrr) : Statement (.kill p f) := by
  refine of_word rfl (fun _ => ?_) (by rw [opOf_rrrWord]; decide) (by decide) (absurd · (by decide))
  change decodeS p (rrrWord 0x6A f) = _; delta decodeS; rw [opOf_rrrWord, rrrOf_rrrWord]; rfl

theorem trap (p : Pfx) (f : Ri) : Statement (.trap p f) := by
  refine of_word rfl (fun _ => ?_) (by rw [opOf_riWord]; decide) (by decide) (absurd · (by decide))
  change decodeS p (riWord 0x6B f) = _; delta decodeS; rw [opOf_riWord, riOf_riWord]; rfl

theorem vshrink (p : Pfx) (f : Ri) : Statement (.vshrink p f) := by
  refine of_word rfl (fun _ => ?_) (by rw [opOf_riWord]; decide) (by decide) (absurd · (by decide))
  change decodeS p (riWord 0x6C f) = _; delta decodeS; rw [opOf_riWord, riOf_riWord]; rfl

theorem vgrow (p : Pfx) (f : Ri) : Statement (.vgrow p f) := by
  refine of_word rfl (fun _ => ?_) (by rw [opOf_riWord]; decide) (by decide) (absurd · (by decide))
  change decodeS p (riWord 0x6D f) = _; delta decodeS; rw [opOf_riWord, riOf_riWord]; rfl

theorem smir (p : Pfx) (f : Rrr) : Statement (.smir p f) := by
  refine of_word rfl (fun _ => ?_) (by rw [opOf_rrrWord]; decide) (by decide) (absurd · (by decide))
  change (decodeV p .vb (rrrWord 0xE0 f)).or (decodeVB p (rrrWord 0xE0 f)) = _
  have h : decodeV p .vb (rrrWord 0xE0 f) = none := by delta decodeV; rw [opOf_rrrWord]; rfl
  rw [h, Option.none_or]
  delta decodeVB; rw [opOf_rrrWord, rrrOf_rrrWord]; rfl

theorem vadd (p : Pfx) (u : VUnit) (f : Rrr) : Statement (.vadd p u f) := by
  cases u <;> refine of_word rfl (fun _ => ?_) (by rw [opOf_rrrWord]; decide) (by decide) (absurd · (by decide)) <;>
    (refine or_left ?_; delta decodeV; rw [opOf_rrrWord, rrrOf_rrrWord]; rfl)

theorem vsub (p : Pfx) (u : VUnit) (f : Rrr) : Statement (.vsub p u f) := by
  cases u <;> refine of_word rfl (fun _ => ?_) (by rw [opOf_rrrWord]; decide) (by decide) (absurd · (by decide)) <;>
    (refine or_left ?_; delta decodeV; rw [opOf_rrrWord, rrrOf_rrrWord]; rfl)

theorem vmul (p : Pfx) (u : VUnit) (f : Rrr) : Statement (.vmul p u f) := by
  cases u <;> refine of_word rfl (fun _ => ?_) (by rw [opOf_rrrWord]; decide) (by decide) (absurd · (by decide)) <;>
    (refine or_left ?_; delta decodeV; rw [opOf_rrrWord, rrrOf_rrrWord]; rfl)

theorem vmulh (p : Pfx) (u : VUnit) (f : Rrr) : Statement (.vmulh p u f) := by
  cases u <;> refine of_word rfl (fun _ => ?_) (by rw [opOf_rrrWord]; decide) (by decide) (absurd · (by decide)) <;>
    (refine or_left ?_; delta decodeV; rw [opOf_rrrWord, rrrOf_rrrWord]; rfl)

theorem vmad (p : Pfx) (u : VUnit) (f : Rrr) : Statement (.vmad p u f) := by
  cases u <;> refine of_word rfl (fun _ => ?_) (by rw [opOf_rrrWord]; decide) (by decide) (absurd · (by decide)) <;>
    (refine or_left ?_; delta decodeV; rw [opOf_rrrWord, rrrOf_rrrWord]; rfl)

theorem vmsb (p : Pfx) (u : VUnit) (f : Rrr) : Statement (.vmsb p u f) := by
  cases u <;> refine of_word rfl (fun _ => ?_) (by rw [opOf_rrrWord]; decide) (by decide) (absurd · (by decide)) <;>
    (refine or_left ?_; delta decodeV; rw [opOf_rrrWord, rrrOf_rrrWord]; rfl)

theorem vdiv (p : Pfx) (f : Rrr) : Statement (.vdiv p f) := by
  refine of_word rfl (fun _ => ?_) (by rw [opOf_rrrWord]; decide) (by decide) (absurd · (by decide))
  change (decodeV p .vb (rrrWord 0x07 f)).or (decodeVB p (rrrWord 0x07 f)) = _
  have h : decodeV p .vb (rrrWord 0x07 f) = none := by delta decodeV; rw [opOf_rrrWord]; rfl
  rw [h, Option.none_or]
  delta decodeVB; rw [opOf_rrrWord, rrrOf_rrrWord]; rfl

theorem vrcp (p : Pfx) (u : VUnit) (f : Rrr) : Statement (.vrcp p u f) := by
  cases u <;> refine of_word rfl (fun _ => ?_) (by rw [opOf_rrrWord]; decide) (by decide) (absurd · (by decide)) <;>
    (refine or_left ?_; delta decodeV; rw [opOf_rrrWord, rrrOf_rrrWord]; rfl)

theorem vrsq (p : Pfx) (u : VUnit) (f : Rrr) : Statement (.vrsq p u f) := by
  cases u <;> refine of_word rfl (fun _ => ?_) (by rw [opOf_rrrWord]; decide) (by decide) (absurd · (by decide)) <;>
    (refine or_left ?_; delta decodeV; rw [opOf_rrrWord, rrrOf_rrrWord]; rfl)

theorem vsqrt (p : Pfx) (u : VUnit) (f : Rrr) : Statement (.vsqrt p u f) := by
  cases u <;> refine of_word rfl (fun _ => ?_) (by rw [opOf_rrrWord]; decide) (by decide) (absurd · (by decide)) <;>
    (refine or_left ?_; delta decodeV; rw [opOf_rrrWord, rrrOf_rrrWord]; rfl)

theorem vmin (p : Pfx) (u : VUnit) (f : Rrr) : Statement (.vmin p u f) := by
  cases u <;> refine of_word rfl (fun _ => ?_) (by rw [opOf_rrrWord]; decide) (by decide) (absurd · (by decide)) <;>
    (refine or_left ?_; delta decodeV; rw [opOf_rrrWord, rrrOf_rrrWord]; rfl)

theorem vmax (p : Pfx) (u : VUnit) (f : Rrr) : Statement (.vmax p u f) := by
  cases u <;> refine of_word rfl (fun _ => ?_) (by rw [opOf_rrrWord]; decide) (by decide) (absurd · (by decide)) <;>
    (refine or_left ?_; delta decodeV; rw [opOf_rrrWord, rrrOf_rrrWord]; rfl)

theorem vabs (p : Pfx) (u : VUnit) (f : Rrr) : Statement (.vabs p u f) := by
  cases u <;> refine of_word rfl (fun _ => ?_) (by rw [opOf_rrrWord]; decide) (by decide) (absurd · (by decide)) <;>
    (refine or_left ?_; delta decodeV; rw [opOf_rrrWord, rrrOf_rrrWord]; rfl)

theorem vneg (p : Pfx) (u : VUnit) (f : Rrr) : Statement (.vneg p u f) := by
  cases u <;> refine of_word rfl (fun _ => ?_) (by rw [opOf_rrrWord]; decide) (by decide) (absurd · (by decide)) <;>
    (refine or_left ?_; delta decodeV; rw [opOf_rrrWord, rrrOf_rrrWord]; rfl)

theorem vavg (p : Pfx) (u : VUnit) (f : Rrr) : Statement (.vavg p u f) := by
  cases u <;> refine of_word rfl (fun _ => ?_) (by rw [opOf_rrrWord]; decide) (by decide) (absurd · (by decide)) <;>
    (refine or_left ?_; delta decodeV; rw [opOf_rrrWord, rrrOf_rrrWord]; rfl)

theorem vand (p : Pfx) (u : VUnit) (f : Rrr) : Statement (.vand p u f) := by
  cases u <;> refine of_word rfl (fun _ => ?_) (by rw [opOf_rrrWord]; decide) (by decide) (absurd · (by decide)) <;>
    (refine or_left ?_; delta decodeV; rw [opOf_rrrWord, rrrOf_rrrWord]; rfl)

theorem vor (p : Pfx) (u : VUnit) (f : Rrr) : Statement (.vor p u f) := by
  cases u <;> refine of_word rfl (fun _ => ?_) (by rw [opOf_rrrWord]; decide) (by decide) (absurd · (by decide)) <;>
    (refine or_left ?_; delta decodeV; rw [opOf_rrrWord, rrrOf_rrrWord]; rfl)

theorem vxor (p : Pfx) (u : VUnit) (f : Rrr) : Statement (.vxor p u f) := by
  cases u <;> refine of_word rfl (fun _ => ?_) (by rw [opOf_rrrWord]; decide) (by decide) (absurd · (by decide)) <;>
    (refine or_left ?_; delta decodeV; rw [opOf_rrrWord, rrrOf_rrrWord]; rfl)

theorem vandn (p : Pfx) (u : VUnit) (f : Rrr) : Statement (.vandn p u f) := by
  cases u <;> refine of_word rfl (fun _ => ?_) (by rw [opOf_rrrWord]; decide) (by decide) (absurd · (by decide)) <;>
    (refine or_left ?_; delta decodeV; rw [opOf_rrrWord, rrrOf_rrrWord]; rfl)

theorem vshl (p : Pfx) (u : VUnit) (f : Rrr) : Statement (.vshl p u f) := by
  cases u <;> refine of_word rfl (fun _ => ?_) (by rw [opOf_rrrWord]; decide) (by decide) (absurd · (by decide)) <;>
    (refine or_left ?_; delta decodeV; rw [opOf_rrrWord, rrrOf_rrrWord]; rfl)

theorem vshr (p : Pfx) (u : VUnit) (f : Rrr) : Statement (.vshr p u f) := by
  cases u <;> refine of_word rfl (fun _ => ?_) (by rw [opOf_rrrWord]; decide) (by decide) (absurd · (by decide)) <;>
    (refine or_left ?_; delta decodeV; rw [opOf_rrrWord, rrrOf_rrrWord]; rfl)

theorem vsra (p : Pfx) (u : VUnit) (f : Rrr) : Statement (.vsra p u f) := by
  cases u <;> refine of_word rfl (fun _ => ?_) (by rw [opOf_rrrWord]; decide) (by decide) (absurd · (by decide)) <;>
    (refine or_left ?_; delta decodeV; rw [opOf_rrrWord, rrrOf_rrrWord]; rfl)

theorem vpopc (p : Pfx) (u : VUnit) (f : Rrr) : Statement (.vpopc p u f) := by
  cases u <;> refine of_word rfl (fun _ => ?_) (by rw [opOf_rrrWord]; decide) (by decide) (absurd · (by decide)) <;>
    (refine or_left ?_; delta decodeV; rw [opOf_rrrWord, rrrOf_rrrWord]; rfl)

theorem vclz (p : Pfx) (u : VUnit) (f : Rrr) : Statement (.vclz p u f) := by
  cases u <;> refine of_word rfl (fun _ => ?_) (by rw [opOf_rrrWord]; decide) (by decide) (absurd · (by decide)) <;>
    (refine or_left ?_; delta decodeV; rw [opOf_rrrWord, rrrOf_rrrWord]; rfl)

theorem vceq (p : Pfx) (u : VUnit) (f : Rrr) : Statement (.vceq p u f) := by
  cases u <;> refine of_word rfl (fun _ => ?_) (by rw [opOf_rrrWord]; decide) (by decide) (absurd · (by decide)) <;>
    (refine or_left ?_; delta decodeV; rw [opOf_rrrWord, rrrOf_rrrWord]; rfl)

theorem vcne (p : Pfx) (u : VUnit) (f : Rrr) : Statement (.vcne p u f) := by
  cases u <;> refine of_word rfl (fun _ => ?_) (by rw [opOf_rrrWord]; decide) (by decide) (absurd · (by decide)) <;>
    (refine or_left ?_; delta decodeV; rw [opOf_rrrWord, rrrOf_rrrWord]; rfl)

theorem vclt (p : Pfx) (u : VUnit) (f : Rrr) : Statement (.vclt p u f) := by
  cases u <;> refine of_word rfl (fun _ => ?_) (by rw [opOf_rrrWord]; decide) (by decide) (absurd · (by decide)) <;>
    (refine or_left ?_; delta decodeV; rw [opOf_rrrWord, rrrOf_rrrWord]; rfl)

theorem vcle (p : Pfx) (u : VUnit) (f : Rrr) : Statement (.vcle p u f) := by
  cases u <;> refine of_word rfl (fun _ => ?_) (by rw [opOf_rrrWord]; decide) (by decide) (absurd · (by decide)) <;>
    (refine or_left ?_; delta decodeV; rw [opOf_rrrWord, rrrOf_rrrWord]; rfl)

theorem vcun (p : Pfx) (u : VUnit) (f : Rrr) : Statement (.vcun p u f) := by
  cases u <;> refine of_word rfl (fun _ => ?_) (by rw [opOf_rrrWord]; decide) (by decide) (absurd · (by decide)) <;>
    (refine or_left ?_; delta decodeV; rw [opOf_rrrWord, rrrOf_rrrWord]; rfl)

theorem vsel (p : Pfx) (u : VUnit) (f : Rrr) : Statement (.vsel p u f) := by
  cases u <;> refine of_word rfl (fun _ => ?_) (by rw [opOf_rrrWord]; decide) (by decide) (absurd · (by decide)) <;>
    (refine or_left ?_; delta decodeV; rw [opOf_rrrWord, rrrOf_rrrWord]; rfl)

theorem vmov (p : Pfx) (u : VUnit) (f : Rrr) : Statement (.vmov p u f) := by
  cases u <;> refine of_word rfl (fun _ => ?_) (by rw [opOf_rrrWord]; decide) (by decide) (absurd · (by decide)) <;>
    (refine or_left ?_; delta decodeV; rw [opOf_rrrWord, rrrOf_rrrWord]; rfl)

theorem vaddi (p : Pfx) (u : VUnit) (f : Ri) : Statement (.vaddi p u f) := by
  cases u <;> refine of_word rfl (fun _ => ?_) (by rw [opOf_riWord]; decide) (by decide) (absurd · (by decide)) <;>
    (refine or_left ?_; delta decodeV; rw [opOf_riWord, riOf_riWord]; rfl)

theorem vshli (p : Pfx) (u : VUnit) (f : Ri) : Statement (.vshli p u f) := by
  cases u <;> refine of_word rfl (fun _ => ?_) (by rw [opOf_riWord]; decide) (by decide) (absurd · (by decide)) <;>
    (refine or_left ?_; delta decodeV; rw [opOf_riWord, riOf_riWord]; rfl)

theorem vshri (p : Pfx) (u : VUnit) (f : Ri) : Statement (.vshri p u f) := by
  cases u <;> refine of_word rfl (fun _ => ?_) (by rw [opOf_riWord]; decide) (by decide) (absurd · (by decide)) <;>
    (refine or_left ?_; delta decodeV; rw [opOf_riWord, riOf_riWord]; rfl)

theorem vsrai (p : Pfx) (u : VUnit) (f : Ri) : Statement (.vsrai p u f) := by
  cases u <;> refine of_word rfl (fun _ => ?_) (by rw [opOf_riWord]; decide) (by decide) (absurd · (by decide)) <;>
    (refine or_left ?_; delta decodeV; rw [opOf_riWord, riOf_riWord]; rfl)

theorem vandi (p : Pfx) (u : VUnit) (f : Ri) : Statement (.vandi p u f) := by
  cases u <;> refine of_word rfl (fun _ => ?_) (by rw [opOf_riWord]; decide) (by decide) (absurd · (by decide)) <;>
    (refine or_left ?_; delta decodeV; rw [opOf_riWord, riOf_riWord]; rfl)

theorem vsplat (p : Pfx) (u : VUnit) (f : Rrr) : Statement (.vsplat p u f) := by
  cases u <;> refine of_word rfl (fun _ => ?_) (by rw [opOf_rrrWord]; decide) (by decide) (absurd · (by decide)) <;>
    (refine or_left ?_; delta decodeV; rw [opOf_rrrWord, rrrOf_rrrWord]; rfl)

theorem vsplati (p : Pfx) (u : VUnit) (f : Ri) : Statement (.vsplati p u f) := by
  cases u <;> refine of_word rfl (fun _ => ?_) (by rw [opOf_riWord]; decide) (by decide) (absurd · (by decide)) <;>
    (refine or_left ?_; delta decodeV; rw [opOf_riWord, riOf_riWord]; rfl)

theorem vext (p : Pfx) (u : VUnit) (f : Rrr) : Statement (.vext p u f) := by
  cases u <;> refine of_word rfl (fun _ => ?_) (by rw [opOf_rrrWord]; decide) (by decide) (absurd · (by decide)) <;>
    (refine or_left ?_; delta decodeV; rw [opOf_rrrWord, rrrOf_rrrWord]; rfl)

theorem vins (p : Pfx) (u : VUnit) (f : Rrr) : Statement (.vins p u f) := by
  cases u <;> refine of_word rfl (fun _ => ?_) (by rw [opOf_rrrWord]; decide) (by decide) (absurd · (by decide)) <;>
    (refine or_left ?_; delta decodeV; rw [opOf_rrrWord, rrrOf_rrrWord]; rfl)

theorem vredadd (p : Pfx) (u : VUnit) (f : Rrr) : Statement (.vredadd p u f) := by
  cases u <;> refine of_word rfl (fun _ => ?_) (by rw [opOf_rrrWord]; decide) (by decide) (absurd · (by decide)) <;>
    (refine or_left ?_; delta decodeV; rw [opOf_rrrWord, rrrOf_rrrWord]; rfl)

theorem vredmax (p : Pfx) (u : VUnit) (f : Rrr) : Statement (.vredmax p u f) := by
  cases u <;> refine of_word rfl (fun _ => ?_) (by rw [opOf_rrrWord]; decide) (by decide) (absurd · (by decide)) <;>
    (refine or_left ?_; delta decodeV; rw [opOf_rrrWord, rrrOf_rrrWord]; rfl)

theorem vredmin (p : Pfx) (u : VUnit) (f : Rrr) : Statement (.vredmin p u f) := by
  cases u <;> refine of_word rfl (fun _ => ?_) (by rw [opOf_rrrWord]; decide) (by decide) (absurd · (by decide)) <;>
    (refine or_left ?_; delta decodeV; rw [opOf_rrrWord, rrrOf_rrrWord]; rfl)

theorem vredand (p : Pfx) (u : VUnit) (f : Rrr) : Statement (.vredand p u f) := by
  cases u <;> refine of_word rfl (fun _ => ?_) (by rw [opOf_rrrWord]; decide) (by decide) (absurd · (by decide)) <;>
    (refine or_left ?_; delta decodeV; rw [opOf_rrrWord, rrrOf_rrrWord]; rfl)

theorem vredor (p : Pfx) (u : VUnit) (f : Rrr) : Statement (.vredor p u f) := by
  cases u <;> refine of_word rfl (fun _ => ?_) (by rw [opOf_rrrWord]; decide) (by decide) (absurd · (by decide)) <;>
    (refine or_left ?_; delta decodeV; rw [opOf_rrrWord, rrrOf_rrrWord]; rfl)

theorem vdot4 (p : Pfx) (u : VUnit) (f : Rrr) : Statement (.vdot4 p u f) := by
  cases u <;> refine of_word rfl (fun _ => ?_) (by rw [opOf_rrrWord]; decide) (by decide) (absurd · (by decide)) <;>
    (refine or_left ?_; delta decodeV; rw [opOf_rrrWord, rrrOf_rrrWord]; rfl)

theorem vshuf (p : Pfx) (u : VUnit) (f : Rrr) : Statement (.vshuf p u f) := by
  cases u <;> refine of_word rfl (fun _ => ?_) (by rw [opOf_rrrWord]; decide) (by decide) (absurd · (by decide)) <;>
    (refine or_left ?_; delta decodeV; rw [opOf_rrrWord, rrrOf_rrrWord]; rfl)

theorem vslide (p : Pfx) (u : VUnit) (f : Rrr) : Statement (.vslide p u f) := by
  cases u <;> refine of_word rfl (fun _ => ?_) (by rw [opOf_rrrWord]; decide) (by decide) (absurd · (by decide)) <;>
    (refine or_left ?_; delta decodeV; rw [opOf_rrrWord, rrrOf_rrrWord]; rfl)

theorem vrotl (p : Pfx) (u : VUnit) (f : Rrr) : Statement (.vrotl p u f) := by
  cases u <;> refine of_word rfl (fun _ => ?_) (by rw [opOf_rrrWord]; decide) (by decide) (absurd · (by decide)) <;>
    (refine or_left ?_; delta decodeV; rw [opOf_rrrWord, rrrOf_rrrWord]; rfl)

theorem vzip (p : Pfx) (u : VUnit) (f : Rrr) : Statement (.vzip p u f) := by
  cases u <;> refine of_word rfl (fun _ => ?_) (by rw [opOf_rrrWord]; decide) (by decide) (absurd · (by decide)) <;>
    (refine or_left ?_; delta decodeV; rw [opOf_rrrWord, rrrOf_rrrWord]; rfl)

theorem vunzip (p : Pfx) (u : VUnit) (f : Rrr) : Statement (.vunzip p u f) := by
  cases u <;> refine of_word rfl (fun _ => ?_) (by rw [opOf_rrrWord]; decide) (by decide) (absurd · (by decide)) <;>
    (refine or_left ?_; delta decodeV; rw [opOf_rrrWord, rrrOf_rrrWord]; rfl)

theorem mpush (p : Pfx) (f : Rrr) : Statement (.mpush p f) := by
  refine of_word rfl (fun _ => ?_) (by rw [opOf_rrrWord]; decide) (by decide) (absurd · (by decide))
  change (decodeV p .va (rrrWord 0x40 f)).or (decodeVA p (rrrWord 0x40 f)) = _
  have h : decodeV p .va (rrrWord 0x40 f) = none := by delta decodeV; rw [opOf_rrrWord]; rfl
  rw [h, Option.none_or]
  delta decodeVA; rw [opOf_rrrWord, rrrOf_rrrWord]; rfl

theorem minv (p : Pfx) (f : Rrr) : Statement (.minv p f) := by
  refine of_word rfl (fun _ => ?_) (by rw [opOf_rrrWord]; decide) (by decide) (absurd · (by decide))
  change (decodeV p .va (rrrWord 0x41 f)).or (decodeVA p (rrrWord 0x41 f)) = _
  have h : decodeV p .va (rrrWord 0x41 f) = none := by delta decodeV; rw [opOf_rrrWord]; rfl
  rw [h, Option.none_or]
  delta decodeVA; rw [opOf_rrrWord, rrrOf_rrrWord]; rfl

theorem mpop (p : Pfx) (f : Rrr) : Statement (.mpop p f) := by
  refine of_word rfl (fun _ => ?_) (by rw [opOf_rrrWord]; decide) (by decide) (absurd · (by decide))
  change (decodeV p .va (rrrWord 0x42 f)).or (decodeVA p (rrrWord 0x42 f)) = _
  have h : decodeV p .va (rrrWord 0x42 f) = none := by delta decodeV; rw [opOf_rrrWord]; rfl
  rw [h, Option.none_or]
  delta decodeVA; rw [opOf_rrrWord, rrrOf_rrrWord]; rfl

theorem mand (p : Pfx) (f : Rrr) : Statement (.mand p f) := by
  refine of_word rfl (fun _ => ?_) (by rw [opOf_rrrWord]; decide) (by decide) (absurd · (by decide))
  change (decodeV p .va (rrrWord 0x43 f)).or (decodeVA p (rrrWord 0x43 f)) = _
  have h : decodeV p .va (rrrWord 0x43 f) = none := by delta decodeV; rw [opOf_rrrWord]; rfl
  rw [h, Option.none_or]
  delta decodeVA; rw [opOf_rrrWord, rrrOf_rrrWord]; rfl

theorem mor (p : Pfx) (f : Rrr) : Statement (.mor p f) := by
  refine of_word rfl (fun _ => ?_) (by rw [opOf_rrrWord]; decide) (by decide) (absurd · (by decide))
  change (decodeV p .va (rrrWord 0x44 f)).or (decodeVA p (rrrWord 0x44 f)) = _
  have h : decodeV p .va (rrrWord 0x44 f) = none := by delta decodeV; rw [opOf_rrrWord]; rfl
  rw [h, Option.none_or]
  delta decodeVA; rw [opOf_rrrWord, rrrOf_rrrWord]; rfl

theorem mnot (p : Pfx) (f : Rrr) : Statement (.mnot p f) := by
  refine of_word rfl (fun _ => ?_) (by rw [opOf_rrrWord]; decide) (by decide) (absurd · (by decide))
  change (decodeV p .va (rrrWord 0x45 f)).or (decodeVA p (rrrWord 0x45 f)) = _
  have h : decodeV p .va (rrrWord 0x45 f) = none := by delta decodeV; rw [opOf_rrrWord]; rfl
  rw [h, Option.none_or]
  delta decodeVA; rw [opOf_rrrWord, rrrOf_rrrWord]; rfl

theorem mcpy (p : Pfx) (f : Rrr) : Statement (.mcpy p f) := by
  refine of_word rfl (fun _ => ?_) (by rw [opOf_rrrWord]; decide) (by decide) (absurd · (by decide))
  change (decodeV p .va (rrrWord 0x46 f)).or (decodeVA p (rrrWord 0x46 f)) = _
  have h : decodeV p .va (rrrWord 0x46 f) = none := by delta decodeV; rw [opOf_rrrWord]; rfl
  rw [h, Option.none_or]
  delta decodeVA; rw [opOf_rrrWord, rrrOf_rrrWord]; rfl

theorem mcnt (p : Pfx) (f : Rrr) : Statement (.mcnt p f) := by
  refine of_word rfl (fun _ => ?_) (by rw [opOf_rrrWord]; decide) (by decide) (absurd · (by decide))
  change (decodeV p .va (rrrWord 0x47 f)).or (decodeVA p (rrrWord 0x47 f)) = _
  have h : decodeV p .va (rrrWord 0x47 f) = none := by delta decodeV; rw [opOf_rrrWord]; rfl
  rw [h, Option.none_or]
  delta decodeVA; rw [opOf_rrrWord, rrrOf_rrrWord]; rfl

theorem vcvt (p : Pfx) (f : Rrr) : Statement (.vcvt p f) := by
  refine of_word rfl (fun _ => ?_) (by rw [opOf_rrrWord]; decide) (by decide) (absurd · (by decide))
  change (decodeV p .vb (rrrWord 0x50 f)).or (decodeVB p (rrrWord 0x50 f)) = _
  have h : decodeV p .vb (rrrWord 0x50 f) = none := by delta decodeV; rw [opOf_rrrWord]; rfl
  rw [h, Option.none_or]
  delta decodeVB; rw [opOf_rrrWord, rrrOf_rrrWord]; rfl

theorem vnarrow (p : Pfx) (f : Rrr) : Statement (.vnarrow p f) := by
  refine of_word rfl (fun _ => ?_) (by rw [opOf_rrrWord]; decide) (by decide) (absurd · (by decide))
  change (decodeV p .vb (rrrWord 0x51 f)).or (decodeVB p (rrrWord 0x51 f)) = _
  have h : decodeV p .vb (rrrWord 0x51 f) = none := by delta decodeV; rw [opOf_rrrWord]; rfl
  rw [h, Option.none_or]
  delta decodeVB; rw [opOf_rrrWord, rrrOf_rrrWord]; rfl

theorem vwiden (p : Pfx) (f : Rrr) : Statement (.vwiden p f) := by
  refine of_word rfl (fun _ => ?_) (by rw [opOf_rrrWord]; decide) (by decide) (absurd · (by decide))
  change (decodeV p .vb (rrrWord 0x52 f)).or (decodeVB p (rrrWord 0x52 f)) = _
  have h : decodeV p .vb (rrrWord 0x52 f) = none := by delta decodeV; rw [opOf_rrrWord]; rfl
  rw [h, Option.none_or]
  delta decodeVB; rw [opOf_rrrWord, rrrOf_rrrWord]; rfl

theorem vqntScale (p : Pfx) (f : Rrr) : Statement (.vqntScale p f) := by
  refine of_word rfl (fun hw => ?_) (by rw [opOf_rrrWord]; decide) (by decide) (absurd · (by decide))
  change (decodeV p .vb (rrrWord 0x53 f)).or (decodeVB p (rrrWord 0x53 f)) = _
  have h : decodeV p .vb (rrrWord 0x53 f) = none := by delta decodeV; rw [opOf_rrrWord]; rfl
  rw [h, Option.none_or]
  delta decodeVB; rw [opOf_rrrWord, rrrOf_rrrWord, rrrWord_bit7]
  change some (if f.x.getLsbD 7 = true then _ else _) = _
  have hx : f.x.getLsbD 7 = true := by simpa [Instr.wf] using hw
  rw [hx]; rfl

theorem vqnt (p : Pfx) (f : Rrr) : Statement (.vqnt p f) := by
  refine of_word rfl (fun hw => ?_) (by rw [opOf_rrrWord]; decide) (by decide) (absurd · (by decide))
  change (decodeV p .vb (rrrWord 0x53 f)).or (decodeVB p (rrrWord 0x53 f)) = _
  have h : decodeV p .vb (rrrWord 0x53 f) = none := by delta decodeV; rw [opOf_rrrWord]; rfl
  rw [h, Option.none_or]
  delta decodeVB; rw [opOf_rrrWord, rrrOf_rrrWord, rrrWord_bit7]
  change some (if f.x.getLsbD 7 = true then _ else _) = _
  have hx : f.x.getLsbD 7 = false := by simpa [Instr.wf] using hw
  rw [hx]; rfl

theorem vdqnt (p : Pfx) (f : Rrr) : Statement (.vdqnt p f) := by
  refine of_word rfl (fun _ => ?_) (by rw [opOf_rrrWord]; decide) (by decide) (absurd · (by decide))
  change (decodeV p .vb (rrrWord 0x54 f)).or (decodeVB p (rrrWord 0x54 f)) = _
  have h : decodeV p .vb (rrrWord 0x54 f) = none := by delta decodeV; rw [opOf_rrrWord]; rfl
  rw [h, Option.none_or]
  delta decodeVB; rw [opOf_rrrWord, rrrOf_rrrWord]; rfl

theorem vdsenc (p : Pfx) (f : Rrr) : Statement (.vdsenc p f) := by
  refine of_word rfl (fun _ => ?_) (by rw [opOf_rrrWord]; decide) (by decide) (absurd · (by decide))
  change (decodeV p .vb (rrrWord 0x55 f)).or (decodeVB p (rrrWord 0x55 f)) = _
  have h : decodeV p .vb (rrrWord 0x55 f) = none := by delta decodeV; rw [opOf_rrrWord]; rfl
  rw [h, Option.none_or]
  delta decodeVB; rw [opOf_rrrWord, rrrOf_rrrWord]; rfl

theorem vdsmul (p : Pfx) (f : Rrr) : Statement (.vdsmul p f) := by
  refine of_word rfl (fun _ => ?_) (by rw [opOf_rrrWord]; decide) (by decide) (absurd · (by decide))
  change (decodeV p .vb (rrrWord 0x56 f)).or (decodeVB p (rrrWord 0x56 f)) = _
  have h : decodeV p .vb (rrrWord 0x56 f) = none := by delta decodeV; rw [opOf_rrrWord]; rfl
  rw [h, Option.none_or]
  delta decodeVB; rw [opOf_rrrWord, rrrOf_rrrWord]; rfl

theorem mdsa (p : Pfx) (f : Eng) : Statement (.mdsa p f) := by
  refine of_word rfl (fun _ => ?_) (by rw [opOf_engWord]; decide) (by decide) (absurd · (by decide))
  change decodeM p (engWord 0x01 f) = _; delta decodeM; rw [opOf_engWord, engOf_engWord]; rfl

theorem mdsb (p : Pfx) (f : Eng) : Statement (.mdsb p f) := by
  refine of_word rfl (fun _ => ?_) (by rw [opOf_engWord]; decide) (by decide) (absurd · (by decide))
  change decodeM p (engWord 0x02 f) = _; delta decodeM; rw [opOf_engWord, engOf_engWord]; rfl

theorem mdsk (p : Pfx) (f : Eng) : Statement (.mdsk p f) := by
  refine of_word rfl (fun _ => ?_) (by rw [opOf_engWord]; decide) (by decide) (absurd · (by decide))
  change decodeM p (engWord 0x03 f) = _; delta decodeM; rw [opOf_engWord, engOf_engWord]; rfl

theorem mdss (p : Pfx) (f : Eng) : Statement (.mdss p f) := by
  refine of_word rfl (fun _ => ?_) (by rw [opOf_engWord]; decide) (by decide) (absurd · (by decide))
  change decodeM p (engWord 0x04 f) = _; delta decodeM; rw [opOf_engWord, engOf_engWord]; rfl

theorem mma (p : Pfx) (f : Eng) : Statement (.mma p f) := by
  refine of_word rfl (fun _ => ?_) (by rw [opOf_engWord]; decide) (by decide) (absurd · (by decide))
  change decodeM p (engWord 0x08 f) = _; delta decodeM; rw [opOf_engWord, engOf_engWord]; rfl

theorem mmaz (p : Pfx) (f : Eng) : Statement (.mmaz p f) := by
  refine of_word rfl (fun _ => ?_) (by rw [opOf_engWord]; decide) (by decide) (absurd · (by decide))
  change decodeM p (engWord 0x09 f) = _; delta decodeM; rw [opOf_engWord, engOf_engWord]; rfl

theorem mmac (p : Pfx) (f : Eng) : Statement (.mmac p f) := by
  refine of_word rfl (fun _ => ?_) (by rw [opOf_engWord]; decide) (by decide) (absurd · (by decide))
  change decodeM p (engWord 0x0A f) = _; delta decodeM; rw [opOf_engWord, engOf_engWord]; rfl

theorem mmar (p : Pfx) (f : Eng) : Statement (.mmar p f) := by
  refine of_word rfl (fun _ => ?_) (by rw [opOf_engWord]; decide) (by decide) (absurd · (by decide))
  change decodeM p (engWord 0x0B f) = _; delta decodeM; rw [opOf_engWord, engOf_engWord]; rfl

theorem mfret (p : Pfx) (f : Eng) : Statement (.mfret p f) := by
  refine of_word rfl (fun _ => ?_) (by rw [opOf_engWord]; decide) (by decide) (absurd · (by decide))
  change decodeM p (engWord 0x10 f) = _; delta decodeM; rw [opOf_engWord, engOf_engWord]; rfl

theorem mfretr (p : Pfx) (f : Eng) : Statement (.mfretr p f) := by
  refine of_word rfl (fun _ => ?_) (by rw [opOf_engWord]; decide) (by decide) (absurd · (by decide))
  change decodeM p (engWord 0x11 f) = _; delta decodeM; rw [opOf_engWord, engOf_engWord]; rfl

theorem mpark (p : Pfx) (f : Eng) : Statement (.mpark p f) := by
  refine of_word rfl (fun _ => ?_) (by rw [opOf_engWord]; decide) (by decide) (absurd · (by decide))
  change decodeM p (engWord 0x12 f) = _; delta decodeM; rw [opOf_engWord, engOf_engWord]; rfl

theorem munpark (p : Pfx) (f : Eng) : Statement (.munpark p f) := by
  refine of_word rfl (fun _ => ?_) (by rw [opOf_engWord]; decide) (by decide) (absurd · (by decide))
  change decodeM p (engWord 0x13 f) = _; delta decodeM; rw [opOf_engWord, engOf_engWord]; rfl

theorem mmerge (p : Pfx) (f : Eng) : Statement (.mmerge p f) := by
  refine of_word rfl (fun _ => ?_) (by rw [opOf_engWord]; decide) (by decide) (absurd · (by decide))
  change decodeM p (engWord 0x14 f) = _; delta decodeM; rw [opOf_engWord, engOf_engWord]; rfl

theorem mdrain (p : Pfx) (f : Eng) : Statement (.mdrain p f) := by
  refine of_word rfl (fun _ => ?_) (by rw [opOf_engWord]; decide) (by decide) (absurd · (by decide))
  change decodeM p (engWord 0x15 f) = _; delta decodeM; rw [opOf_engWord, engOf_engWord]; rfl

theorem mfclr (p : Pfx) (f : Eng) : Statement (.mfclr p f) := by
  refine of_word rfl (fun _ => ?_) (by rw [opOf_engWord]; decide) (by decide) (absurd · (by decide))
  change decodeM p (engWord 0x16 f) = _; delta decodeM; rw [opOf_engWord, engOf_engWord]; rfl

theorem mzero (p : Pfx) (f : Eng) : Statement (.mzero p f) := by
  refine of_word rfl (fun _ => ?_) (by rw [opOf_engWord]; decide) (by decide) (absurd · (by decide))
  change decodeM p (engWord 0x18 f) = _; delta decodeM; rw [opOf_engWord, engOf_engWord]; rfl

theorem mrdv (p : Pfx) (f : Eng) : Statement (.mrdv p f) := by
  refine of_word rfl (fun _ => ?_) (by rw [opOf_engWord]; decide) (by decide) (absurd · (by decide))
  change decodeM p (engWord 0x19 f) = _; delta decodeM; rw [opOf_engWord, engOf_engWord]; rfl

theorem mwrv (p : Pfx) (f : Eng) : Statement (.mwrv p f) := by
  refine of_word rfl (fun _ => ?_) (by rw [opOf_engWord]; decide) (by decide) (absurd · (by decide))
  change decodeM p (engWord 0x1A f) = _; delta decodeM; rw [opOf_engWord, engOf_engWord]; rfl

theorem mdrainp (p : Pfx) (f : Eng) : Statement (.mdrainp p f) := by
  refine of_word rfl (fun _ => ?_) (by rw [opOf_engWord]; decide) (by decide) (absurd · (by decide))
  change decodeM p (engWord 0x1B f) = _; delta decodeM; rw [opOf_engWord, engOf_engWord]; rfl

theorem msts (p : Pfx) (f : Eng) : Statement (.msts p f) := by
  refine of_word rfl (fun _ => ?_) (by rw [opOf_engWord]; decide) (by decide) (absurd · (by decide))
  change decodeM p (engWord 0x1D f) = _; delta decodeM; rw [opOf_engWord, engOf_engWord]; rfl

theorem mstat (p : Pfx) (f : Eng) : Statement (.mstat p f) := by
  refine of_word rfl (fun _ => ?_) (by rw [opOf_engWord]; decide) (by decide) (absurd · (by decide))
  change decodeM p (engWord 0x1E f) = _; delta decodeM; rw [opOf_engWord, engOf_engWord]; rfl

theorem ld (p : Pfx) (f : MemF) : Statement (.ld p f) := by
  refine of_word rfl (fun _ => ?_) (by rw [opOf_memWord]; decide) (by decide) (absurd · (by decide))
  change decodeL p (memWord 0x01 f) = _; delta decodeL; rw [opOf_memWord, memFOf_memWord]; rfl

theorem ldaq (p : Pfx) (f : MemF) : Statement (.ldaq p f) := by
  refine of_word rfl (fun _ => ?_) (by rw [opOf_memWord]; decide) (by decide) (absurd · (by decide))
  change decodeL p (memWord 0x02 f) = _; delta decodeL; rw [opOf_memWord, memFOf_memWord]; rfl

theorem ldf (p : Pfx) (f : MemF) : Statement (.ldf p f) := by
  refine of_word rfl (fun _ => ?_) (by rw [opOf_memWord]; decide) (by decide) (absurd · (by decide))
  change decodeL p (memWord 0x03 f) = _; delta decodeL; rw [opOf_memWord, memFOf_memWord]; rfl

theorem ldv (p : Pfx) (f : MemF) : Statement (.ldv p f) := by
  refine of_word rfl (fun _ => ?_) (by rw [opOf_memWord]; decide) (by decide) (absurd · (by decide))
  change decodeL p (memWord 0x04 f) = _; delta decodeL; rw [opOf_memWord, memFOf_memWord]; rfl

theorem ldvs (p : Pfx) (f : MemF) : Statement (.ldvs p f) := by
  refine of_word rfl (fun _ => ?_) (by rw [opOf_memWord]; decide) (by decide) (absurd · (by decide))
  change decodeL p (memWord 0x05 f) = _; delta decodeL; rw [opOf_memWord, memFOf_memWord]; rfl

theorem ldvx (p : Pfx) (f : MemF) : Statement (.ldvx p f) := by
  refine of_word rfl (fun _ => ?_) (by rw [opOf_memWord]; decide) (by decide) (absurd · (by decide))
  change decodeL p (memWord 0x06 f) = _; delta decodeL; rw [opOf_memWord, memFOf_memWord]; rfl

theorem ldvb (p : Pfx) (f : MemF) : Statement (.ldvb p f) := by
  refine of_word rfl (fun _ => ?_) (by rw [opOf_memWord]; decide) (by decide) (absurd · (by decide))
  change decodeL p (memWord 0x07 f) = _; delta decodeL; rw [opOf_memWord, memFOf_memWord]; rfl

theorem qpop (p : Pfx) (f : MemF) : Statement (.qpop p f) := by
  refine of_word rfl (fun _ => ?_) (by rw [opOf_memWord]; decide) (by decide) (absurd · (by decide))
  change decodeL p (memWord 0x08 f) = _; delta decodeL; rw [opOf_memWord, memFOf_memWord]; rfl

theorem ldt (p : Pfx) (f : MemF) : Statement (.ldt p f) := by
  refine of_word rfl (fun _ => ?_) (by rw [opOf_memWord]; decide) (by decide) (absurd · (by decide))
  change decodeL p (memWord 0x09 f) = _; delta decodeL; rw [opOf_memWord, memFOf_memWord]; rfl

theorem ldvt (p : Pfx) (f : MemF) : Statement (.ldvt p f) := by
  refine of_word rfl (fun _ => ?_) (by rw [opOf_memWord]; decide) (by decide) (absurd · (by decide))
  change decodeL p (memWord 0x0A f) = _; delta decodeL; rw [opOf_memWord, memFOf_memWord]; rfl

theorem st (p : Pfx) (f : MemF) : Statement (.st p f) := by
  refine of_word rfl (fun _ => ?_) (by rw [opOf_memWord]; decide) (by decide) (absurd · (by decide))
  change decodeT p (memWord 0x01 f) = _; delta decodeT; rw [opOf_memWord, memFOf_memWord]; rfl

theorem strl (p : Pfx) (f : MemF) : Statement (.strl p f) := by
  refine of_word rfl (fun _ => ?_) (by rw [opOf_memWord]; decide) (by decide) (absurd · (by decide))
  change decodeT p (memWord 0x02 f) = _; delta decodeT; rw [opOf_memWord, memFOf_memWord]; rfl

theorem stf (p : Pfx) (f : MemF) : Statement (.stf p f) := by
  refine of_word rfl (fun _ => ?_) (by rw [opOf_memWord]; decide) (by decide) (absurd · (by decide))
  change decodeT p (memWord 0x03 f) = _; delta decodeT; rw [opOf_memWord, memFOf_memWord]; rfl

theorem stv (p : Pfx) (f : MemF) : Statement (.stv p f) := by
  refine of_word rfl (fun _ => ?_) (by rw [opOf_memWord]; decide) (by decide) (absurd · (by decide))
  change decodeT p (memWord 0x04 f) = _; delta decodeT; rw [opOf_memWord, memFOf_memWord]; rfl

theorem stvs (p : Pfx) (f : MemF) : Statement (.stvs p f) := by
  refine of_word rfl (fun _ => ?_) (by rw [opOf_memWord]; decide) (by decide) (absurd · (by decide))
  change decodeT p (memWord 0x05 f) = _; delta decodeT; rw [opOf_memWord, memFOf_memWord]; rfl

theorem stvx (p : Pfx) (f : MemF) : Statement (.stvx p f) := by
  refine of_word rfl (fun _ => ?_) (by rw [opOf_memWord]; decide) (by decide) (absurd · (by decide))
  change decodeT p (memWord 0x06 f) = _; delta decodeT; rw [opOf_memWord, memFOf_memWord]; rfl

theorem qpush (p : Pfx) (f : MemF) : Statement (.qpush p f) := by
  refine of_word rfl (fun _ => ?_) (by rw [opOf_memWord]; decide) (by decide) (absurd · (by decide))
  change decodeT p (memWord 0x07 f) = _; delta decodeT; rw [opOf_memWord, memFOf_memWord]; rfl

theorem amoadd (p : Pfx) (f : MemF) : Statement (.amoadd p f) := by
  refine of_word rfl (fun _ => ?_) (by rw [opOf_memWord]; decide) (by decide) (absurd · (by decide))
  change decodeT p (memWord 0x08 f) = _; delta decodeT; rw [opOf_memWord, memFOf_memWord]; rfl

theorem amomin (p : Pfx) (f : MemF) : Statement (.amomin p f) := by
  refine of_word rfl (fun _ => ?_) (by rw [opOf_memWord]; decide) (by decide) (absurd · (by decide))
  change decodeT p (memWord 0x09 f) = _; delta decodeT; rw [opOf_memWord, memFOf_memWord]; rfl

theorem amomax (p : Pfx) (f : MemF) : Statement (.amomax p f) := by
  refine of_word rfl (fun _ => ?_) (by rw [opOf_memWord]; decide) (by decide) (absurd · (by decide))
  change decodeT p (memWord 0x0A f) = _; delta decodeT; rw [opOf_memWord, memFOf_memWord]; rfl

theorem amominu (p : Pfx) (f : MemF) : Statement (.amominu p f) := by
  refine of_word rfl (fun _ => ?_) (by rw [opOf_memWord]; decide) (by decide) (absurd · (by decide))
  change decodeT p (memWord 0x0B f) = _; delta decodeT; rw [opOf_memWord, memFOf_memWord]; rfl

theorem amomaxu (p : Pfx) (f : MemF) : Statement (.amomaxu p f) := by
  refine of_word rfl (fun _ => ?_) (by rw [opOf_memWord]; decide) (by decide) (absurd · (by decide))
  change decodeT p (memWord 0x0C f) = _; delta decodeT; rw [opOf_memWord, memFOf_memWord]; rfl

theorem amoand (p : Pfx) (f : MemF) : Statement (.amoand p f) := by
  refine of_word rfl (fun _ => ?_) (by rw [opOf_memWord]; decide) (by decide) (absurd · (by decide))
  change decodeT p (memWord 0x0D f) = _; delta decodeT; rw [opOf_memWord, memFOf_memWord]; rfl

theorem amoor (p : Pfx) (f : MemF) : Statement (.amoor p f) := by
  refine of_word rfl (fun _ => ?_) (by rw [opOf_memWord]; decide) (by decide) (absurd · (by decide))
  change decodeT p (memWord 0x0E f) = _; delta decodeT; rw [opOf_memWord, memFOf_memWord]; rfl

theorem amoxor (p : Pfx) (f : MemF) : Statement (.amoxor p f) := by
  refine of_word rfl (fun _ => ?_) (by rw [opOf_memWord]; decide) (by decide) (absurd · (by decide))
  change decodeT p (memWord 0x0F f) = _; delta decodeT; rw [opOf_memWord, memFOf_memWord]; rfl

theorem amoswap (p : Pfx) (f : MemF) : Statement (.amoswap p f) := by
  refine of_word rfl (fun _ => ?_) (by rw [opOf_memWord]; decide) (by decide) (absurd · (by decide))
  change decodeT p (memWord 0x10 f) = _; delta decodeT; rw [opOf_memWord, memFOf_memWord]; rfl

theorem amocas (p : Pfx) (f : MemF) : Statement (.amocas p f) := by
  refine of_word rfl (fun _ => ?_) (by rw [opOf_memWord]; decide) (by decide) (absurd · (by decide))
  change decodeT p (memWord 0x11 f) = _; delta decodeT; rw [opOf_memWord, memFOf_memWord]; rfl

theorem amofadd (p : Pfx) (f : MemF) : Statement (.amofadd p f) := by
  refine of_word rfl (fun _ => ?_) (by rw [opOf_memWord]; decide) (by decide) (absurd · (by decide))
  change decodeT p (memWord 0x12 f) = _; delta decodeT; rw [opOf_memWord, memFOf_memWord]; rfl

theorem cdset (p : Pfx) (f : Cpy) : Statement (.cdset p f) := by
  refine of_word rfl (fun _ => ?_) (by rw [opOf_cpyWord]; decide) (by decide) (absurd · (by decide))
  change decodeC p (cpyWord 0x01 f) = _; delta decodeC; rw [opOf_cpyWord, cpyOf_cpyWord]; rfl

theorem cdfmt (p : Pfx) (f : Cpy) : Statement (.cdfmt p f) := by
  refine of_word rfl (fun _ => ?_) (by rw [opOf_cpyWord]; decide) (by decide) (absurd · (by decide))
  change decodeC p (cpyWord 0x02 f) = _; delta decodeC; rw [opOf_cpyWord, cpyOf_cpyWord]; rfl

theorem cpy (p : Pfx) (f : Cpy) : Statement (.cpy p f) := by
  refine of_word rfl (fun _ => ?_) (by rw [opOf_cpyWord]; decide) (by decide) (absurd · (by decide))
  change decodeC p (cpyWord 0x08 f) = _; delta decodeC; rw [opOf_cpyWord, cpyOf_cpyWord]; rfl

theorem cpym (p : Pfx) (f : Cpy) : Statement (.cpym p f) := by
  refine of_word rfl (fun _ => ?_) (by rw [opOf_cpyWord]; decide) (by decide) (absurd · (by decide))
  change decodeC p (cpyWord 0x09 f) = _; delta decodeC; rw [opOf_cpyWord, cpyOf_cpyWord]; rfl

theorem cpyr (p : Pfx) (f : Cpy) : Statement (.cpyr p f) := by
  refine of_word rfl (fun _ => ?_) (by rw [opOf_cpyWord]; decide) (by decide) (absurd · (by decide))
  change decodeC p (cpyWord 0x0A f) = _; delta decodeC; rw [opOf_cpyWord, cpyOf_cpyWord]; rfl

theorem chain (p : Pfx) (f : Cpy) : Statement (.chain p f) := by
  refine of_word rfl (fun _ => ?_) (by rw [opOf_cpyWord]; decide) (by decide) (absurd · (by decide))
  change decodeC p (cpyWord 0x0B f) = _; delta decodeC; rw [opOf_cpyWord, cpyOf_cpyWord]; rfl

theorem cpyw (p : Pfx) (f : Cpy) : Statement (.cpyw p f) := by
  refine of_word rfl (fun _ => ?_) (by rw [opOf_cpyWord]; decide) (by decide) (absurd · (by decide))
  change decodeC p (cpyWord 0x0C f) = _; delta decodeC; rw [opOf_cpyWord, cpyOf_cpyWord]; rfl

theorem lxfer (p : Pfx) (f : Cpy) : Statement (.lxfer p f) := by
  refine of_word rfl (fun _ => ?_) (by rw [opOf_cpyWord]; decide) (by decide) (absurd · (by decide))
  change decodeC p (cpyWord 0x10 f) = _; delta decodeC; rw [opOf_cpyWord, cpyOf_cpyWord]; rfl

theorem lxred (p : Pfx) (f : Cpy) : Statement (.lxred p f) := by
  refine of_word rfl (fun _ => ?_) (by rw [opOf_cpyWord]; decide) (by decide) (absurd · (by decide))
  change decodeC p (cpyWord 0x11 f) = _; delta decodeC; rw [opOf_cpyWord, cpyOf_cpyWord]; rfl

theorem xamo (p : Pfx) (f : Cpy) : Statement (.xamo p f) := by
  refine of_word rfl (fun _ => ?_) (by rw [opOf_cpyWord]; decide) (by decide) (absurd · (by decide))
  change decodeC p (cpyWord 0x12 f) = _; delta decodeC; rw [opOf_cpyWord, cpyOf_cpyWord]; rfl

theorem cabort (p : Pfx) (f : Cpy) : Statement (.cabort p f) := by
  refine of_word rfl (fun _ => ?_) (by rw [opOf_cpyWord]; decide) (by decide) (absurd · (by decide))
  change decodeC p (cpyWord 0x19 f) = _; delta decodeC; rw [opOf_cpyWord, cpyOf_cpyWord]; rfl

theorem tkwait (p : Pfx) (f : Syn) : Statement (.tkwait p f) := by
  refine of_word rfl (fun _ => ?_) (by rw [opOf_synWord]; decide) (by decide) fun _ => pfxOf_synWord _ _ _
  change decodeY p (synWord 0x01 p f) = _; delta decodeY; rw [opOf_synWord, synOf_synWord]; rfl

theorem tkpost (p : Pfx) (f : Syn) : Statement (.tkpost p f) := by
  refine of_word rfl (fun _ => ?_) (by rw [opOf_synWord]; decide) (by decide) fun _ => pfxOf_synWord _ _ _
  change decodeY p (synWord 0x02 p f) = _; delta decodeY; rw [opOf_synWord, synOf_synWord]; rfl

theorem tkclr (p : Pfx) (f : Syn) : Statement (.tkclr p f) := by
  refine of_word rfl (fun _ => ?_) (by rw [opOf_synWord]; decide) (by decide) fun _ => pfxOf_synWord _ _ _
  change decodeY p (synWord 0x03 p f) = _; delta decodeY; rw [opOf_synWord, synOf_synWord]; rfl

theorem bara (p : Pfx) (f : Syn) : Statement (.bara p f) := by
  refine of_word rfl (fun _ => ?_) (by rw [opOf_synWord]; decide) (by decide) fun _ => pfxOf_synWord _ _ _
  change decodeY p (synWord 0x08 p f) = _; delta decodeY; rw [opOf_synWord, synOf_synWord]; rfl

theorem barw (p : Pfx) (f : Syn) : Statement (.barw p f) := by
  refine of_word rfl (fun _ => ?_) (by rw [opOf_synWord]; decide) (by decide) fun _ => pfxOf_synWord _ _ _
  change decodeY p (synWord 0x09 p f) = _; delta decodeY; rw [opOf_synWord, synOf_synWord]; rfl

theorem barx (p : Pfx) (f : Syn) : Statement (.barx p f) := by
  refine of_word rfl (fun _ => ?_) (by rw [opOf_synWord]; decide) (by decide) fun _ => pfxOf_synWord _ _ _
  change decodeY p (synWord 0x0A p f) = _; delta decodeY; rw [opOf_synWord, synOf_synWord]; rfl

theorem drain (p : Pfx) (f : Syn) : Statement (.drain p f) := by
  refine of_word rfl (fun _ => ?_) (by rw [opOf_synWord]; decide) (by decide) fun _ => pfxOf_synWord _ _ _
  change decodeY p (synWord 0x10 p f) = _; delta decodeY; rw [opOf_synWord, synOf_synWord]; rfl

theorem fence (p : Pfx) (f : Syn) : Statement (.fence p f) := by
  refine of_word rfl (fun _ => ?_) (by rw [opOf_synWord]; decide) (by decide) fun _ => pfxOf_synWord _ _ _
  change decodeY p (synWord 0x11 p f) = _; delta decodeY; rw [opOf_synWord, synOf_synWord]; rfl

theorem brel (p : Pfx) (f : Syn) : Statement (.brel p f) := by
  refine of_word rfl (fun _ => ?_) (by rw [opOf_synWord]; decide) (by decide) fun _ => pfxOf_synWord _ _ _
  change decodeY p (synWord 0x18 p f) = _; delta decodeY; rw [opOf_synWord, synOf_synWord]; rfl

theorem bacq (p : Pfx) (f : Syn) : Statement (.bacq p f) := by
  refine of_word rfl (fun _ => ?_) (by rw [opOf_synWord]; decide) (by decide) fun _ => pfxOf_synWord _ _ _
  change decodeY p (synWord 0x19 p f) = _; delta decodeY; rw [opOf_synWord, synOf_synWord]; rfl

theorem chkeq (p : Pfx) (f : Syn) : Statement (.chkeq p f) := by
  refine of_word rfl (fun _ => ?_) (by rw [opOf_synWord]; decide) (by decide) fun _ => pfxOf_synWord _ _ _
  change decodeY p (synWord 0x20 p f) = _; delta decodeY; rw [opOf_synWord, synOf_synWord]; rfl

theorem chkv (p : Pfx) (f : Syn) : Statement (.chkv p f) := by
  refine of_word rfl (fun _ => ?_) (by rw [opOf_synWord]; decide) (by decide) fun _ => pfxOf_synWord _ _ _
  change decodeY p (synWord 0x21 p f) = _; delta decodeY; rw [opOf_synWord, synOf_synWord]; rfl

theorem chka (p : Pfx) (f : Syn) : Statement (.chka p f) := by
  refine of_word rfl (fun _ => ?_) (by rw [opOf_synWord]; decide) (by decide) fun _ => pfxOf_synWord _ _ _
  change decodeY p (synWord 0x22 p f) = _; delta decodeY; rw [opOf_synWord, synOf_synWord]; rfl

theorem vote (p : Pfx) (f : Syn) : Statement (.vote p f) := by
  refine of_word rfl (fun _ => ?_) (by rw [opOf_synWord]; decide) (by decide) fun _ => pfxOf_synWord _ _ _
  change decodeY p (synWord 0x23 p f) = _; delta decodeY; rw [opOf_synWord, synOf_synWord]; rfl

theorem racq (p : Pfx) (f : Syn) : Statement (.racq p f) := by
  refine of_word rfl (fun _ => ?_) (by rw [opOf_synWord]; decide) (by decide) fun _ => pfxOf_synWord _ _ _
  change decodeY p (synWord 0x28 p f) = _; delta decodeY; rw [opOf_synWord, synOf_synWord]; rfl

theorem rrel (p : Pfx) (f : Syn) : Statement (.rrel p f) := by
  refine of_word rfl (fun _ => ?_) (by rw [opOf_synWord]; decide) (by decide) fun _ => pfxOf_synWord _ _ _
  change decodeY p (synWord 0x29 p f) = _; delta decodeY; rw [opOf_synWord, synOf_synWord]; rfl

theorem reos (p : Pfx) (f : Syn) : Statement (.reos p f) := by
  refine of_word rfl (fun _ => ?_) (by rw [opOf_synWord]; decide) (by decide) fun _ => pfxOf_synWord _ _ _
  change decodeY p (synWord 0x2A p f) = _; delta decodeY; rw [opOf_synWord, synOf_synWord]; rfl

theorem slack (p : Pfx) (f : Syn) : Statement (.slack p f) := by
  refine of_word rfl (fun _ => ?_) (by rw [opOf_synWord]; decide) (by decide) fun _ => pfxOf_synWord _ _ _
  change decodeY p (synWord 0x30 p f) = _; delta decodeY; rw [opOf_synWord, synOf_synWord]; rfl

theorem twait (p : Pfx) (f : Syn) : Statement (.twait p f) := by
  refine of_word rfl (fun _ => ?_) (by rw [opOf_synWord]; decide) (by decide) fun _ => pfxOf_synWord _ _ _
  change decodeY p (synWord 0x31 p f) = _; delta decodeY; rw [opOf_synWord, synOf_synWord]; rfl

theorem phase (p : Pfx) (f : Syn) : Statement (.phase p f) := by
  refine of_word rfl (fun _ => ?_) (by rw [opOf_synWord]; decide) (by decide) fun _ => pfxOf_synWord _ _ _
  change decodeY p (synWord 0x32 p f) = _; delta decodeY; rw [opOf_synWord, synOf_synWord]; rfl

theorem tevt (p : Pfx) (f : Syn) : Statement (.tevt p f) := by
  refine of_word rfl (fun _ => ?_) (by rw [opOf_synWord]; decide) (by decide) fun _ => pfxOf_synWord _ _ _
  change decodeY p (synWord 0x33 p f) = _; delta decodeY; rw [opOf_synWord, synOf_synWord]; rfl

theorem uien (p : Pfx) (f : Syn) : Statement (.uien p f) := by
  refine of_word rfl (fun _ => ?_) (by rw [opOf_synWord]; decide) (by decide) fun _ => pfxOf_synWord _ _ _
  change decodeY p (synWord 0x34 p f) = _; delta decodeY; rw [opOf_synWord, synOf_synWord]; rfl

theorem nominalFrameEnd : Statement .nominalFrameEnd := no_word rfl

theorem hartInstruction (h : RvForm) : Statement (.hartInstruction h) := no_word rfl

theorem emptyBundle (p : Pfx) : Statement (.emptyBundle p) := fun _ _ _ _ _ h => absurd rfl (h p)

theorem spareSelfTest : Statement .spareSelfTest := no_word rfl

theorem readmission : Statement .readmission := no_word rfl

theorem unknownCommand : Statement .unknownCommand := no_word rfl

theorem doorbellOverrun : Statement .doorbellOverrun := no_word rfl

end Laws.SlotWords

theorem Laws.SlotWords.unseal : Laws.SlotWords.Statement .unseal := Laws.SlotWords.no_word rfl

end Sys2Proof
end

