-- ==== Sys2Proof/Laws/Zml.lean ====
section
/-!
SUPPORT. The checks of a ZML message are linear: what errors on the wire change them by depends on the errors alone (Table 14-3).
-/
namespace Sys2Proof.Machine
open Sys2Proof

theorem crc8Bit_xor (a b : BitVec 8) : crc8Bit (a ^^^ b) = crc8Bit a ^^^ crc8Bit b := by
  simp only [crc8Bit, BitVec.shiftLeft_xor_distrib, BitVec.msb_xor]
  have h : (7 : BitVec 8) ^^^ (7 ^^^ (a <<< 1 ^^^ b <<< 1)) = a <<< 1 ^^^ b <<< 1 := by rw [← BitVec.xor_assoc]; simp
  cases a.msb <;> cases b.msb <;> simp
  · ac_rfl
  · ac_rfl
  · rw [← h]; ac_rfl

theorem crc8Byte_xor (a b : BitVec 8) (x y : Byte) : crc8Byte (a ^^^ b) (x ^^^ y) = crc8Byte a x ^^^ crc8Byte b y := by
  have h : a ^^^ b ^^^ (x ^^^ y) = (a ^^^ x) ^^^ (b ^^^ y) := by ac_rfl
  simp only [crc8Byte, h, crc8Bit_xor]

theorem crcBit_xor (a b : Nat) : crcBit (a ^^^ b) = crcBit a ^^^ crcBit b := by
  have h2 : (a ^^^ b) / 2 = a / 2 ^^^ b / 2 := by
    apply Nat.eq_of_testBit_eq; intro i; simp [Nat.testBit_div_two]
  have h1 : (a ^^^ b) % 2 = (a % 2 + b % 2) % 2 := by
    have := Nat.xor_mod_two_eq (m := a) (n := b); omega
  simp only [crcBit, h1, h2]
  rcases Nat.mod_two_eq_zero_or_one a with ha | ha <;> rcases Nat.mod_two_eq_zero_or_one b with hb | hb <;> simp only [ha, hb]
  · simp
  · simp [Nat.xor_assoc]
  · simp only [Nat.add_zero, Nat.one_mod, if_true, if_false, OfNat.zero_ne_ofNat, zero_ne_one]
    rw [Nat.xor_assoc, Nat.xor_comm (b / 2), ← Nat.xor_assoc]
  · simp only [Nat.reduceAdd, Nat.reduceMod, zero_ne_one, if_false, if_true]
    rw [Nat.xor_assoc, Nat.xor_comm (b / 2), ← Nat.xor_assoc 0x82F63B78, Nat.xor_self, Nat.zero_xor]

theorem crcByte_xor (a b : Nat) (x y : Byte) : crcByte (a ^^^ b) (x ^^^ y) = crcByte a x ^^^ crcByte b y := by
  have h : a ^^^ b ^^^ (x ^^^ y).toNat = (a ^^^ x.toNat) ^^^ (b ^^^ y.toNat) := by
    rw [BitVec.toNat_xor, Nat.xor_assoc, Nat.xor_assoc, ← Nat.xor_assoc b, Nat.xor_comm b, Nat.xor_assoc]
  simp only [crcByte, h, crcBit_xor]

theorem crc8_foldl_xor (m e : List Byte) (h : m.length = e.length) (a b : BitVec 8) :
    (m.zipWith (· ^^^ ·) e).foldl crc8Byte (a ^^^ b) = m.foldl crc8Byte a ^^^ e.foldl crc8Byte b := by
  induction m generalizing e a b with
  | nil => cases e with
    | nil => rfl
    | cons y e => simp at h
  | cons x m ih => cases e with
    | nil => simp at h
    | cons y e => simp only [List.zipWith_cons_cons, List.foldl_cons, crc8Byte_xor]; exact ih e (by simpa using h) _ _

theorem crc_foldl_xor (m e : List Byte) (h : m.length = e.length) (a b : Nat) :
    (m.zipWith (· ^^^ ·) e).foldl crcByte (a ^^^ b) = m.foldl crcByte a ^^^ e.foldl crcByte b := by
  induction m generalizing e a b with
  | nil => cases e with
    | nil => rfl
    | cons y e => simp at h
  | cons x m ih => cases e with
    | nil => simp at h
    | cons y e => simp only [List.zipWith_cons_cons, List.foldl_cons, crcByte_xor]; exact ih e (by simpa using h) _ _

/-- Errors `e` change both checks of the bytes `m` by what `e` alone gives. -/
theorem zml_checks (m e : List Byte) (h : m.length = e.length) :
    crc8 (m.zipWith (· ^^^ ·) e) = crc8 m ^^^ crc8 e ∧ crc32c (m.zipWith (· ^^^ ·) e) = crc32c m ^^^ crcLin e := by
  constructor
  · simpa [crc8] using crc8_foldl_xor m e h 0 0
  · have h1 := crc_foldl_xor m e h 0xFFFFFFFF 0
    simp only [Nat.xor_zero] at h1
    simp only [crc32c, crcLin, h1]
    rw [Nat.xor_assoc, Nat.xor_comm (List.foldl crcByte 0 e), ← Nat.xor_assoc]

end Sys2Proof.Machine
end

