-- ==== Sys2Proof/Tests/Slice0.lean ====
section
/-!
SUPPORT. Tests: the smoke test of WellFormed, words written out from the encoding tables, and states that meet the hypotheses of
the statements.
-/
namespace Sys2Proof.Tests
open Sys2Proof Sys2Proof.Machine
set_option Elab.async false


def issuesB (s : Machine.State) (p : Pfx) (ops : List Parts) : Bool :=
  s.cur.live && !s.cur.stalled && !(s.cur.stepDue.isSome && s.cur.tl == 0) && (bundleHeld (s.env p ops) ops).isNone && s.cur.async.isEmpty
    && (bundleTrap (s.env p ops) ops).isNone && !preemptPoint s.atIssue s.fck && !s.cur.userReady && decide (gate s.cur p = .go)
def calmB (s : Machine.State) : Bool :=
  s.atIssue.weak.isEmpty && s.atIssue.bad.isEmpty && !s.cur.dbgStep
    && match s.cur.loops.getLast? with
      | some l => !(s.cur.active l && s.cur.pc == l.last)
      | none => true
def regs (l : List (Nat × Nat)) (c : Ctx) : Ctx :=
  { c with sregs := l.foldl (fun m x => sput m (if x.1 < 16 then 256 + x.1 else x.1 - 16) (BitVec.ofNat 64 x.2)) c.sregs }
def page (va pa n flags : Nat) : TlbEnt := { part := 0, va := va, size := n, pte := BitVec.ofNat 64 (pa + flags) }
def core0 : CoreSt :=
  { CoreSt.reset with
    active := some 0, lastActive := 0, cycle := 1000
    tlb := [page 0x200000 0x200000 0x200000 0xFB, page 0x400000 0x100000000000 0x200000 0x2FB, page 0x600000 0x100000400000 0x200000 0x2FB]
    ctlb := [page 0x200000 0x200000 0x200000 0xFB, page 0x400000 0x100000000000 0x200000 0x2FB, page 0x800000 0x800200000 0x200000 0x1FB]
    atlb := [page 0x200000 0x200000 0x200000 0xFB, page 0x400000 0x100000000000 0x200000 0x2FB]
    btlb := [page 0x200000 0x200000 0x200000 0xFB, page 0x400000 0x100000000000 0x200000 0x2FB]
    banks := [(0, { Bank.reset with owner := some 0, inuse := true }), (1, { Bank.reset with owner := some 0, inuse := true }), (2, { Bank.reset with owner := some 0 })]
    owner := some 0 }
def ctx0 : Ctx := regs
  [(20, 0x1122334455667788), (21, 5), (22, 3), (23, 0x1000), (24, 9), (25, 64), (26, 0x200000), (27, 0x600000 + 0x4000 * 9), (28, 0),
   (29, 0x200000000), (30, 0x200800), (31, 0x400000), (32, 0x400040), (33, 0x100001), (35, 0x800000), (36, 0x400080), (34, 0xFFFFFFFFFFFFFFF9)]
  { Ctx.reset with
    st := .active, res := true, pc := 5, vSize := 64, bCount := 4, tCount := 64, fdepth := 8, npdef := 1, bundleNo := 7
    node := 0x46001, imgBase := 0x1000000, imgLen := 0x4000, ui := UserInt.reset
    shapes := [(3, { Shape.reset with count := [64, 1, 1, 1, 1, 1], fmt := 0xF00 })]
    descs := [(1, BitVec.ofNat 256 (0x200000 + 0x200000 * 2 ^ 64 + 64 * 2 ^ 128 + 64 * 2 ^ 160 + 128 * 2 ^ 192))]
    toks := [(4, { fire := 1, pend := false }), (5, { fire := 2, pend := false }), (7, { fire := 1, pend := false })] }
def dram : Part := { Part.reset with valid := true, regions := [(0x200000, 0x800000)] }
def chip0 : Chip :=
  { Chip.reset with
    ct := 5000
    pcie := true
    parts := [(0, dram)]
    boot := { Boot.reset with romOk := true, dramOk := true, linksUp := true, fwRun := true, ctOk := true }
    lcmap := [(0, { LcEnt.reset 0 with owned := true }), (1, { LcEnt.reset 1 with owned := true })] }
def ring0 : Nat := 2 * 2 ^ 58 + 2 ^ 54 + 0x40000
def poke (l : List (Nat × Nat × Nat)) (m : Mem) : Mem := l.foldl (fun m x => Mem.writeLE m x.1 x.2.1 x.2.2) m
def pad : Mem := poke [(0x100000000000, 8, 2 ^ 32 + 2), (0x100000000040, 8, ring0), (0x100000000048, 8, 0x10)] []
def st : Machine.State := { State.reset with mem := pad, chips := [(0, chip0)], cores := [(0, core0)], ctxs := [(0, ctx0)] }
def lvl : Loop := { loopPc := 3, last := 9, trip := 4, iter := 1, forced := false, serve := false, tag := (0, false, 0), strides := [], buf := [] }
def stL : Machine.State := st.modCtx 0 fun c => { c with loops := [lvl], mstack := [0xFFFF], wdepth := 1, link := [(1, (40, 2))], wp := 16, resid := 0 }
def stH : Machine.State := st.modCtx 0 fun c => { c with tl := 1, trap1 := { c.trap1 with ret := 77 } }
def stU : Machine.State := st.modCtx 0 fun c => { c with ui := { c.ui with inh := true, pc := 66 } }
def stF : Machine.State := st.modCtx 0 fun c => { c with npdef := 7, parked := [(2, { parked := true, depth := 5, pair := 1 })], fDepth := 9, fPair := 1 }
def stR : Machine.State := st.modCtx 0 fun c => { c with rowprog := 0x88100040 }
def stG : Machine.State := stF.modCtx 0 fun c => { c with fDepth := 0, fPair := 0, rowprog := 0xC0100040 }
def stB : Machine.State := st.modCtx 0 fun c => { c with loops := [lvl] }
def stQ : Machine.State := st.modCore 0 fun k => { k with queues := [(2, [0x77])] }

theorem issues_of {s : Machine.State} {p : Pfx} {ops : List Parts} (h : issuesB s p ops = true) : Issues s p ops := by
  simp only [issuesB, Bool.and_eq_true, Bool.not_eq_true', decide_eq_true_eq, Option.isNone_iff_eq_none, List.isEmpty_iff] at h
  obtain ⟨⟨⟨⟨⟨⟨⟨⟨h1, h0⟩, h2⟩, h3⟩, h4⟩, h5⟩, h6⟩, h7⟩, h8⟩ := h
  refine { live := h1, noStall := h0, noStep := ?_, ready := h3, noFault := h4, legal := h5, noPreempt := h6, noUser := h7, runs := h8 }
  rintro ⟨a, b⟩
  simp [a, b] at h2

theorem calm_of {s : Machine.State} (h : calmB s = true) : Calm s := by
  simp only [calmB, Bool.and_eq_true, Bool.not_eq_true', List.isEmpty_iff] at h
  obtain ⟨⟨⟨h1, h2⟩, h3⟩, h4⟩ := h
  refine { noWeak := h1, noBad := h2, noStep := h3, inside := fun l hl ha hp => ?_ }
  rw [hl] at h4
  simp [ha, hp] at h4

/-- Each instruction of the list issues in one of the states. -/
def shown (ss : List Machine.State) (l : List (W64 × Instr)) : Bool :=
  l.all fun x => ss.any fun s => issuesB s Pfx.zero (opsOf x.2) && calmB s

theorem shown_of (ss : List Machine.State) (l : List (W64 × Instr)) (h : shown ss l = true) :
    ∀ x ∈ l, ∃ s, Issues s Pfx.zero (opsOf x.2) ∧ Calm s := by
  intro x hx
  obtain ⟨s, _, hs⟩ := List.any_eq_true.mp (List.all_eq_true.mp h x hx)
  rw [Bool.and_eq_true] at hs
  exact ⟨s, issues_of hs.1, calm_of hs.2⟩

/-- Words of slot 0, put together from Tables 5-3 to 5-16 (R81 to R95). -/
def scalarWords : List (W64 × Instr) :=
  [ (0x0190001405416000, .add Pfx.zero ⟨9, 0, 0, 0, 0, 0, 20, 21, 22, 0, 0⟩)
  , (0x0290401405416000, .sub Pfx.zero ⟨9, 0, 0, 0, 0, 16, 20, 21, 22, 0, 0⟩)
  , (0x0390001405416000, .mul Pfx.zero ⟨9, 0, 0, 0, 0, 0, 20, 21, 22, 0, 0⟩)
  , (0x0490401405416000, .mulh Pfx.zero ⟨9, 0, 0, 0, 0, 16, 20, 21, 22, 0, 0⟩)
  , (0x0590001405416000, .mulhu Pfx.zero ⟨9, 0, 0, 0, 0, 0, 20, 21, 22, 0, 0⟩)
  , (0x0690001405416000, .div Pfx.zero ⟨9, 0, 0, 0, 0, 0, 20, 21, 22, 0, 0⟩)
  , (0x0790001405416000, .divu Pfx.zero ⟨9, 0, 0, 0, 0, 0, 20, 21, 22, 0, 0⟩)
  , (0x0890001405416000, .rem Pfx.zero ⟨9, 0, 0, 0, 0, 0, 20, 21, 22, 0, 0⟩)
  , (0x0990001405416000, .remu Pfx.zero ⟨9, 0, 0, 0, 0, 0, 20, 21, 22, 0, 0⟩)
  , (0x0A90001405416000, .and Pfx.zero ⟨9, 0, 0, 0, 0, 0, 20, 21, 22, 0, 0⟩)
  , (0x0B90001405416000, .or Pfx.zero ⟨9, 0, 0, 0, 0, 0, 20, 21, 22, 0, 0⟩)
  , (0x0C90001405416000, .xor Pfx.zero ⟨9, 0, 0, 0, 0, 0, 20, 21, 22, 0, 0⟩)
  , (0x0D90001405416000, .andn Pfx.zero ⟨9, 0, 0, 0, 0, 0, 20, 21, 22, 0, 0⟩)
  , (0x0E90401405416000, .shl Pfx.zero ⟨9, 0, 0, 0, 0, 16, 20, 21, 22, 0, 0⟩)
  , (0x0F90001405416000, .shr Pfx.zero ⟨9, 0, 0, 0, 0, 0, 20, 21, 22, 0, 0⟩)
  , (0x1090001405416000, .sra Pfx.zero ⟨9, 0, 0, 0, 0, 0, 20, 21, 22, 0, 0⟩)
  , (0x1190001405416000, .rotl Pfx.zero ⟨9, 0, 0, 0, 0, 0, 20, 21, 22, 0, 0⟩)
  , (0x1290001405416000, .min Pfx.zero ⟨9, 0, 0, 0, 0, 0, 20, 21, 22, 0, 0⟩)
  , (0x1390001405416000, .max Pfx.zero ⟨9, 0, 0, 0, 0, 0, 20, 21, 22, 0, 0⟩)
  , (0x1490001405416000, .minu Pfx.zero ⟨9, 0, 0, 0, 0, 0, 20, 21, 22, 0, 0⟩)
  , (0x1590001405416000, .maxu Pfx.zero ⟨9, 0, 0, 0, 0, 0, 20, 21, 22, 0, 0⟩)
  , (0x1690001405416000, .seq Pfx.zero ⟨9, 0, 0, 0, 0, 0, 20, 21, 22, 0, 0⟩)
  , (0x1790001405416000, .sne Pfx.zero ⟨9, 0, 0, 0, 0, 0, 20, 21, 22, 0, 0⟩)
  , (0x1890001405416000, .slt Pfx.zero ⟨9, 0, 0, 0, 0, 0, 20, 21, 22, 0, 0⟩)
  , (0x1990001405416000, .sltu Pfx.zero ⟨9, 0, 0, 0, 0, 0, 20, 21, 22, 0, 0⟩)
  , (0x1A90001405416000, .sle Pfx.zero ⟨9, 0, 0, 0, 0, 0, 20, 21, 22, 0, 0⟩)
  , (0x1B90001405416000, .sleu Pfx.zero ⟨9, 0, 0, 0, 0, 0, 20, 21, 22, 0, 0⟩)
  , (0x1C90001405416000, .sel Pfx.zero ⟨9, 0, 0, 0, 0, 0, 20, 21, 22, 0, 0⟩)
  , (0x1D90001405400000, .clz Pfx.zero ⟨9, 0, 0, 0, 0, 0, 20, 21, 0, 0, 0⟩)
  , (0x1E90001405400000, .ctz Pfx.zero ⟨9, 0, 0, 0, 0, 0, 20, 21, 0, 0, 0⟩) ]

theorem test_decode_scalarWords : scalarWords.all (fun x => decodeSlot 0 Pfx.zero x.1 == some x.2) = true := by decide +kernel

theorem test_issues_scalarWords : ∀ x ∈ scalarWords, ∃ s, Issues s Pfx.zero (opsOf x.2) ∧ Calm s :=
  shown_of [st] _ (by decide +kernel)

/-- Words of slot 0, put together from Tables 5-3 to 5-16 (R81 to R95). -/
def scalarWords2 : List (W64 × Instr) :=
  [ (0x1F90001405400000, .popc Pfx.zero ⟨9, 0, 0, 0, 0, 0, 20, 21, 0, 0, 0⟩)
  , (0x20900014057FFFF9, .addi Pfx.zero ⟨9, 0, 0, 0, 0, 0, 20, 21, 4194297⟩)
  , (0x219000140540002A, .andi Pfx.zero ⟨9, 0, 0, 0, 0, 0, 20, 21, 42⟩)
  , (0x229000140540002A, .ori Pfx.zero ⟨9, 0, 0, 0, 0, 0, 20, 21, 42⟩)
  , (0x239000140540002A, .xori Pfx.zero ⟨9, 0, 0, 0, 0, 0, 20, 21, 42⟩)
  , (0x2490001405400005, .shli Pfx.zero ⟨9, 0, 0, 0, 0, 0, 20, 21, 5⟩)
  , (0x259000140540003F, .shri Pfx.zero ⟨9, 0, 0, 0, 0, 0, 20, 21, 63⟩)
  , (0x2690001405400003, .srai Pfx.zero ⟨9, 0, 0, 0, 0, 0, 20, 21, 3⟩)
  , (0x279000140540002A, .slti Pfx.zero ⟨9, 0, 0, 0, 0, 0, 20, 21, 42⟩)
  , (0x289000140540002A, .sltui Pfx.zero ⟨9, 0, 0, 0, 0, 0, 20, 21, 42⟩)
  , (0x2990001400001234, .li Pfx.zero ⟨9, 0, 0, 0, 0, 0, 20, 0, 4660⟩)
  , (0x2A90001400159E26, .lix Pfx.zero ⟨9, 0, 0, 0, 0, 0, 20, 0, 1416742⟩)
  , (0x2B900014054011C4, .ext Pfx.zero ⟨9, 0, 0, 0, 0, 0, 20, 21, 4548⟩)
  , (0x2C900014054001C4, .ins Pfx.zero ⟨9, 0, 0, 0, 0, 0, 20, 21, 452⟩)
  , (0x2D9000140540002A, .muli Pfx.zero ⟨9, 0, 0, 0, 0, 0, 20, 21, 42⟩)
  , (0x40035154FFFFFFFD, .br Pfx.zero ⟨0, 3, 20, 21, 1, 0, 4294967293⟩)
  , (0x4107600000000000, .bri Pfx.zero ⟨0, 7, 24, 0, 0, 0, 0⟩)
  , (0x4200003000000009, .call Pfx.zero ⟨0, 0, 0, 3, 0, 0, 9⟩)
  , (0x4300606000000000, .calli Pfx.zero ⟨0, 0, 24, 6, 0, 0, 0⟩)
  , (0x4400000800000000, .ret Pfx.zero ⟨0, 0, 0, 0, 2, 0, 0⟩)
  , (0x4500580000000004, .loop Pfx.zero ⟨0, 0, 22, 0, 0, 0, 4⟩)
  , (0x4600556000000000, .lstr Pfx.zero ⟨0, 0, 21, 22, 0, 0, 0⟩)
  , (0x4701596000000000, .lbrk Pfx.zero ⟨0, 1, 22, 22, 0, 0, 0⟩)
  , (0x6010001600000010, .mfsr Pfx.zero ⟨1, 0, 0, 0, 0, 0, 22, 0, 16⟩)
  , (0x6100000005800030, .mtsr Pfx.zero ⟨0, 0, 0, 0, 0, 0, 0, 22, 48⟩)
  , (0x620000000000005A, .ecall Pfx.zero ⟨0, 0, 0, 0, 0, 0, 0, 0, 90⟩)
  , (0x6300000000000000, .tret Pfx.zero ⟨0, 0, 0, 0, 0, 0, 0, 0, 0, 0, 0⟩)
  , (0x6400000000000000, .uiret Pfx.zero ⟨0, 0, 0, 0, 0, 0, 0, 0, 0, 0, 0⟩)
  , (0x6600000000000000, .halt Pfx.zero ⟨0, 0, 0, 0, 0, 0, 0, 0, 0, 0, 0⟩)
  , (0x6700000000000000, .yield Pfx.zero ⟨0, 0, 0, 0, 0, 0, 0, 0, 0, 0, 0⟩) ]

theorem test_decode_scalarWords2 : scalarWords2.all (fun x => decodeSlot 0 Pfx.zero x.1 == some x.2) = true := by decide +kernel

theorem test_issues_scalarWords2 : ∀ x ∈ scalarWords2, ∃ s, Issues s Pfx.zero (opsOf x.2) ∧ Calm s :=
  shown_of [st, stB, stH, stL, stU] _ (by decide +kernel)

/-- Words of slot 0, put together from Tables 5-3 to 5-16 (R81 to R95). -/
def scalarWords3 : List (W64 × Instr) :=
  [ (0x6800000005416045, .tlbinv Pfx.zero ⟨0, 0, 0, 0, 0, 0, 0, 21, 22, 0, 69⟩)
  , (0x6900000005C00000, .icinv Pfx.zero ⟨0, 0, 0, 0, 0, 0, 0, 23, 0, 0, 0⟩)
  , (0x6A00000005815000, .kill Pfx.zero ⟨0, 0, 0, 0, 0, 0, 0, 22, 21, 0, 0⟩)
  , (0x6B00000000000042, .trap Pfx.zero ⟨0, 0, 0, 0, 0, 0, 0, 0, 66⟩)
  , (0x6C00000000000020, .vshrink Pfx.zero ⟨0, 0, 0, 0, 0, 0, 0, 0, 32⟩)
  , (0x6D10001400000010, .vgrow Pfx.zero ⟨1, 0, 0, 0, 0, 0, 20, 0, 16⟩) ]

theorem test_decode_scalarWords3 : scalarWords3.all (fun x => decodeSlot 0 Pfx.zero x.1 == some x.2) = true := by decide +kernel

theorem test_issues_scalarWords3 : ∀ x ∈ scalarWords3, ∃ s, Issues s Pfx.zero (opsOf x.2) ∧ Calm s :=
  shown_of [st] _ (by decide +kernel)

theorem test_decode_bkpt : decodeSlot 0 Pfx.zero 0x650000000000FFFF = some (.bkpt Pfx.zero ⟨0, 0, 0, 0, 0, 0, 0, 0, 65535⟩) := by decide +kernel

/-- Words of slot 1, put together from Tables 5-3 to 5-16 (R81 to R95). -/
def vectorAWords : List (W64 × Instr) :=
  [ (0x0290900800402000, .vsub Pfx.zero .va ⟨9, 0, 0, 0, 1, 4, 8, 1, 2, 0, 0⟩)
  , (0x0490100800402000, .vmulh Pfx.zero .va ⟨9, 0, 0, 0, 0, 4, 8, 1, 2, 0, 0⟩)
  , (0x06903C0800402000, .vmsb Pfx.zero .va ⟨9, 0, 0, 0, 0, 15, 8, 1, 2, 0, 0⟩)
  , (0x08913C0800400000, .vrcp Pfx.zero .va ⟨9, 0, 0, 1, 0, 15, 8, 1, 0, 0, 0⟩)
  , (0x09913C0800400000, .vrsq Pfx.zero .va ⟨9, 0, 0, 1, 0, 15, 8, 1, 0, 0, 0⟩)
  , (0x0A913C0800400000, .vsqrt Pfx.zero .va ⟨9, 0, 0, 1, 0, 15, 8, 1, 0, 0, 0⟩)
  , (0x0B903C0800402000, .vmin Pfx.zero .va ⟨9, 0, 0, 0, 0, 15, 8, 1, 2, 0, 0⟩)
  , (0x0C903C0800402000, .vmax Pfx.zero .va ⟨9, 0, 0, 0, 0, 15, 8, 1, 2, 0, 0⟩)
  , (0x0D903C0800400000, .vabs Pfx.zero .va ⟨9, 0, 0, 0, 0, 15, 8, 1, 0, 0, 0⟩)
  , (0x0E903C0800400000, .vneg Pfx.zero .va ⟨9, 0, 0, 0, 0, 15, 8, 1, 0, 0, 0⟩)
  , (0x0F903C0800402000, .vavg Pfx.zero .va ⟨9, 0, 0, 0, 0, 15, 8, 1, 2, 0, 0⟩)
  , (0x19903C0202009000, .vceq Pfx.zero .va ⟨9, 0, 0, 0, 0, 15, 2, 8, 9, 0, 0⟩)
  , (0x1A903C0202009000, .vcne Pfx.zero .va ⟨9, 0, 0, 0, 0, 15, 2, 8, 9, 0, 0⟩)
  , (0x1B903C0202009000, .vclt Pfx.zero .va ⟨9, 0, 0, 0, 0, 15, 2, 8, 9, 0, 0⟩)
  , (0x1C903C0202009000, .vcle Pfx.zero .va ⟨9, 0, 0, 0, 0, 15, 2, 8, 9, 0, 0⟩)
  , (0x1D903C0202009000, .vcun Pfx.zero .va ⟨9, 0, 0, 0, 0, 15, 2, 8, 9, 0, 0⟩)
  , (0x1E902C0800402003, .vsel Pfx.zero .va ⟨9, 0, 0, 0, 0, 11, 8, 1, 2, 0, 3⟩)
  , (0x2090100800400003, .vaddi Pfx.zero .va ⟨9, 0, 0, 0, 0, 4, 8, 1, 3⟩)
  , (0x2190100800400003, .vshli Pfx.zero .va ⟨9, 0, 0, 0, 0, 4, 8, 1, 3⟩)
  , (0x2290100800400003, .vshri Pfx.zero .va ⟨9, 0, 0, 0, 0, 4, 8, 1, 3⟩)
  , (0x2390100800400003, .vsrai Pfx.zero .va ⟨9, 0, 0, 0, 0, 4, 8, 1, 3⟩)
  , (0x2490100800400003, .vandi Pfx.zero .va ⟨9, 0, 0, 0, 0, 4, 8, 1, 3⟩)
  , (0x25902C0805400000, .vsplat Pfx.zero .va ⟨9, 0, 0, 0, 0, 11, 8, 21, 0, 0, 0⟩)
  , (0x26901005003FFFFF, .vsplati Pfx.zero .va ⟨9, 0, 0, 0, 0, 4, 5, 0, 4194303⟩)
  , (0x28902C0805416000, .vins Pfx.zero .va ⟨9, 0, 0, 0, 0, 11, 8, 21, 22, 0, 0⟩)
  , (0x3090400800400000, .vredadd Pfx.zero .va ⟨9, 0, 0, 0, 0, 16, 8, 1, 0, 0, 0⟩)
  , (0x3190400800400001, .vredmax Pfx.zero .va ⟨9, 0, 0, 0, 0, 16, 8, 1, 0, 0, 1⟩)
  , (0x3290400800400000, .vredmin Pfx.zero .va ⟨9, 0, 0, 0, 0, 16, 8, 1, 0, 0, 0⟩)
  , (0x3390400800400001, .vredand Pfx.zero .va ⟨9, 0, 0, 0, 0, 16, 8, 1, 0, 0, 1⟩)
  , (0x3490400800400000, .vredor Pfx.zero .va ⟨9, 0, 0, 0, 0, 16, 8, 1, 0, 0, 0⟩) ]

theorem test_decode_vectorAWords : vectorAWords.all (fun x => decodeSlot 1 Pfx.zero x.1 == some x.2) = true := by decide +kernel

theorem test_issues_vectorAWords : ∀ x ∈ vectorAWords, ∃ s, Issues s Pfx.zero (opsOf x.2) ∧ Calm s :=
  shown_of [st] _ (by decide +kernel)

/-- Words of slot 1, put together from Tables 5-3 to 5-16 (R81 to R95). -/
def vectorAWords2 : List (W64 × Instr) :=
  [ (0x3590100800402000, .vdot4 Pfx.zero .va ⟨9, 0, 0, 0, 0, 4, 8, 1, 2, 0, 0⟩)
  , (0x3890100800402000, .vshuf Pfx.zero .va ⟨9, 0, 0, 0, 0, 4, 8, 1, 2, 0, 0⟩)
  , (0x3990100800416000, .vslide Pfx.zero .va ⟨9, 0, 0, 0, 0, 4, 8, 1, 22, 0, 0⟩)
  , (0x3B90100800402001, .vzip Pfx.zero .va ⟨9, 0, 0, 0, 0, 4, 8, 1, 2, 0, 1⟩)
  , (0x3C90100800402000, .vunzip Pfx.zero .va ⟨9, 0, 0, 0, 0, 4, 8, 1, 2, 0, 0⟩)
  , (0x4000000000C00000, .mpush Pfx.zero ⟨0, 0, 0, 0, 0, 0, 0, 3, 0, 0, 0⟩)
  , (0x4100000000000000, .minv Pfx.zero ⟨0, 0, 0, 0, 0, 0, 0, 0, 0, 0, 0⟩)
  , (0x4200000000000000, .mpop Pfx.zero ⟨0, 0, 0, 0, 0, 0, 0, 0, 0, 0, 0⟩)
  , (0x4390000100803000, .mand Pfx.zero ⟨9, 0, 0, 0, 0, 0, 1, 2, 3, 0, 0⟩)
  , (0x4490000200803000, .mor Pfx.zero ⟨9, 0, 0, 0, 0, 0, 2, 2, 3, 0, 0⟩)
  , (0x4590000301000000, .mnot Pfx.zero ⟨9, 0, 0, 0, 0, 0, 3, 4, 0, 0, 0⟩)
  , (0x4690000400000000, .mcpy Pfx.zero ⟨9, 0, 0, 0, 0, 0, 4, 0, 0, 0, 0⟩)
  , (0x47902C1400C00000, .mcnt Pfx.zero ⟨9, 0, 0, 0, 0, 11, 20, 3, 0, 0, 0⟩) ]

theorem test_decode_vectorAWords2 : vectorAWords2.all (fun x => decodeSlot 1 Pfx.zero x.1 == some x.2) = true := by decide +kernel

theorem test_issues_vectorAWords2 : ∀ x ∈ vectorAWords2, ∃ s, Issues s Pfx.zero (opsOf x.2) ∧ Calm s :=
  shown_of [st, stL] _ (by decide +kernel)

/-- Words of slot 2, put together from Tables 5-3 to 5-16 (R81 to R95). -/
def vectorBWords : List (W64 × Instr) :=
  [ (0x0190100800402000, .vadd Pfx.zero .vb ⟨9, 0, 0, 0, 0, 4, 8, 1, 2, 0, 0⟩)
  , (0x0390100800402000, .vmul Pfx.zero .vb ⟨9, 0, 0, 0, 0, 4, 8, 1, 2, 0, 0⟩)
  , (0x05903C0800402000, .vmad Pfx.zero .vb ⟨9, 0, 0, 0, 0, 15, 8, 1, 2, 0, 0⟩)
  , (0x07963C0800402000, .vdiv Pfx.zero ⟨9, 1, 1, 0, 0, 15, 8, 1, 2, 0, 0⟩)
  , (0x1090100800402600, .vand Pfx.zero .vb ⟨9, 0, 0, 0, 0, 4, 8, 1, 2, 3, 0⟩)
  , (0x1190100800402600, .vor Pfx.zero .vb ⟨9, 0, 0, 0, 0, 4, 8, 1, 2, 3, 0⟩)
  , (0x1290100800402600, .vxor Pfx.zero .vb ⟨9, 0, 0, 0, 0, 4, 8, 1, 2, 3, 0⟩)
  , (0x1390100800402600, .vandn Pfx.zero .vb ⟨9, 0, 0, 0, 0, 4, 8, 1, 2, 3, 0⟩)
  , (0x1490100800402600, .vshl Pfx.zero .vb ⟨9, 0, 0, 0, 0, 4, 8, 1, 2, 3, 0⟩)
  , (0x1590100800402600, .vshr Pfx.zero .vb ⟨9, 0, 0, 0, 0, 4, 8, 1, 2, 3, 0⟩)
  , (0x1690100800402600, .vsra Pfx.zero .vb ⟨9, 0, 0, 0, 0, 4, 8, 1, 2, 3, 0⟩)
  , (0x1790100800400600, .vpopc Pfx.zero .vb ⟨9, 0, 0, 0, 0, 4, 8, 1, 0, 3, 0⟩)
  , (0x1890100800400600, .vclz Pfx.zero .vb ⟨9, 0, 0, 0, 0, 4, 8, 1, 0, 3, 0⟩)
  , (0x1F90400800400000, .vmov Pfx.zero .vb ⟨9, 0, 0, 0, 0, 16, 8, 1, 0, 0, 0⟩)
  , (0x2790101400416000, .vext Pfx.zero .vb ⟨9, 0, 0, 0, 0, 4, 20, 1, 22, 0, 0⟩)
  , (0x3A902C0800416000, .vrotl Pfx.zero .vb ⟨9, 0, 0, 0, 0, 11, 8, 1, 22, 0, 0⟩)
  , (0x50903C0800400010, .vcvt Pfx.zero ⟨9, 0, 0, 0, 0, 15, 8, 1, 0, 0, 16⟩)
  , (0x519018080240002F, .vnarrow Pfx.zero ⟨9, 0, 0, 0, 0, 6, 8, 9, 0, 0, 47⟩)
  , (0x52903C080040002D, .vwiden Pfx.zero ⟨9, 0, 0, 0, 0, 15, 8, 1, 0, 0, 45⟩)
  , (0x53906C140100008F, .vqntScale Pfx.zero ⟨9, 0, 0, 0, 0, 27, 20, 4, 0, 0, 143⟩)
  , (0x53906C080101600F, .vqnt Pfx.zero ⟨9, 0, 0, 0, 0, 27, 8, 4, 22, 0, 15⟩)
  , (0x54903C080041601B, .vdqnt Pfx.zero ⟨9, 0, 0, 0, 0, 15, 8, 1, 22, 0, 27⟩)
  , (0x559028080040000F, .vdsenc Pfx.zero ⟨9, 0, 0, 0, 0, 10, 8, 1, 0, 0, 15⟩)
  , (0x56903C08004020A0, .vdsmul Pfx.zero ⟨9, 0, 0, 0, 0, 15, 8, 1, 2, 0, 160⟩)
  , (0xE090001405416001, .smir Pfx.zero ⟨9, 0, 0, 0, 0, 0, 20, 21, 22, 0, 1⟩) ]

theorem test_decode_vectorBWords : vectorBWords.all (fun x => decodeSlot 2 Pfx.zero x.1 == some x.2) = true := by decide +kernel

theorem test_issues_vectorBWords : ∀ x ∈ vectorBWords, ∃ s, Issues s Pfx.zero (opsOf x.2) ∧ Calm s :=
  shown_of [st] _ (by decide +kernel)

/-- Words of slot 3, put together from Tables 5-3 to 5-16 (R81 to R95). -/
def matrixWords : List (W64 × Instr) :=
  [ (0x010644000001A000, .mdsa Pfx.zero ⟨0, 25, 1, 0, 0, 0, 0, 26, 0⟩)
  , (0x020644000001A000, .mdsb Pfx.zero ⟨0, 25, 1, 0, 0, 0, 0, 26, 0⟩)
  , (0x0300080000016000, .mdsk Pfx.zero ⟨0, 0, 2, 0, 0, 0, 0, 22, 0⟩)
  , (0x0405840000016009, .mdss Pfx.zero ⟨0, 22, 1, 0, 0, 0, 0, 22, 9⟩)
  , (0x0871443100000004, .mma Pfx.zero ⟨7, 5, 1, 3, 4, 0, 0, 0, 4⟩)
  , (0x0971843100000004, .mmaz Pfx.zero ⟨7, 6, 1, 3, 4, 0, 0, 0, 4⟩)
  , (0x0A71C43100000004, .mmac Pfx.zero ⟨7, 7, 1, 3, 4, 0, 0, 0, 4⟩)
  , (0x0B72043100000004, .mmar Pfx.zero ⟨7, 8, 1, 3, 4, 0, 0, 0, 4⟩)
  , (0x1060043000000001, .mfret Pfx.zero ⟨6, 0, 1, 3, 0, 0, 0, 0, 1⟩)
  , (0x1160043000000001, .mfretr Pfx.zero ⟨6, 0, 1, 3, 0, 0, 0, 0, 1⟩)
  , (0x12C0403000000000, .mpark Pfx.zero ⟨12, 1, 0, 3, 0, 0, 0, 0, 0⟩)
  , (0x13C0803000000000, .munpark Pfx.zero ⟨12, 2, 0, 3, 0, 0, 0, 0, 0⟩)
  , (0x14C0803000000000, .mmerge Pfx.zero ⟨12, 2, 0, 3, 0, 0, 0, 0, 0⟩)
  , (0x15A0443000000000, .mdrain Pfx.zero ⟨10, 1, 1, 3, 0, 0, 0, 0, 0⟩)
  , (0x1630003000000000, .mfclr Pfx.zero ⟨3, 0, 0, 3, 0, 0, 0, 0, 0⟩)
  , (0x1851C03000000000, .mzero Pfx.zero ⟨5, 7, 0, 3, 0, 0, 0, 0, 0⟩)
  , (0x19F1C03000016008, .mrdv Pfx.zero ⟨15, 7, 0, 3, 0, 0, 0, 22, 8⟩)
  , (0x1A61C03000016008, .mwrv Pfx.zero ⟨6, 7, 0, 3, 0, 0, 0, 22, 8⟩)
  , (0x1BB1C0300001B000, .mdrainp Pfx.zero ⟨11, 7, 0, 3, 0, 0, 0, 27, 0⟩)
  , (0x1DB1C0300001A00D, .msts Pfx.zero ⟨11, 7, 0, 3, 0, 0, 0, 26, 13⟩)
  , (0x1EF1C03000014000, .mstat Pfx.zero ⟨15, 7, 0, 3, 0, 0, 0, 20, 0⟩) ]

theorem test_decode_matrixWords : matrixWords.all (fun x => decodeSlot 3 Pfx.zero x.1 == some x.2) = true := by decide +kernel

theorem test_issues_matrixWords : ∀ x ∈ matrixWords, ∃ s, Issues s Pfx.zero (opsOf x.2) ∧ Calm s :=
  shown_of [st, stF, stG, stR] _ (by decide +kernel)

/-- Words of slot 4, put together from Tables 5-3 to 5-16 (R81 to R95). -/
def loadWords : List (W64 × Instr) :=
  [ (0x0193205019680000, .ld Pfx.zero ⟨9, 3, 1, 0, 20, 25, 26, 0⟩)
  , (0x0296105000680008, .ldaq Pfx.zero ⟨9, 6, 0, 1, 20, 0, 26, 8⟩)
  , (0x0391605000000010, .ldf Pfx.zero ⟨9, 1, 3, 0, 20, 0, 0, 16⟩)
  , (0x0497402000680080, .ldv Pfx.zero ⟨9, 7, 2, 0, 8, 0, 26, 128⟩)
  , (0x0597A02019680000, .ldvs Pfx.zero ⟨9, 7, 5, 0, 8, 25, 26, 0⟩)
  , (0x0697C02003680000, .ldvx Pfx.zero ⟨9, 7, 6, 0, 8, 3, 26, 0⟩)
  , (0x0792002000680004, .ldvb Pfx.zero ⟨9, 2, 0, 0, 8, 0, 26, 4⟩)
  , (0x0893805002000000, .qpop Pfx.zero ⟨9, 3, 4, 0, 20, 2, 0, 0⟩)
  , (0x09F3005003680000, .ldt Pfx.zero ⟨15, 3, 0, 0, 20, 3, 26, 0⟩)
  , (0x0AF7002003680000, .ldvt Pfx.zero ⟨15, 7, 0, 0, 8, 3, 26, 0⟩) ]

theorem test_decode_loadWords : loadWords.all (fun x => decodeSlot 4 Pfx.zero x.1 == some x.2) = true := by decide +kernel

theorem test_issues_loadWords : ∀ x ∈ loadWords, ∃ s, Issues s Pfx.zero (opsOf x.2) ∧ Calm s :=
  shown_of [st, stQ] _ (by decide +kernel)

/-- Words of slot 5, put together from Tables 5-3 to 5-16 (R81 to R95). -/
def storeWords : List (W64 × Instr) :=
  [ (0x01034054006BFFF8, .st Pfx.zero ⟨0, 3, 2, 0, 21, 0, 26, 262136⟩)
  , (0x0202105400680000, .strl Pfx.zero ⟨0, 2, 0, 1, 21, 0, 26, 0⟩)
  , (0x03036054000003F8, .stf Pfx.zero ⟨0, 3, 3, 0, 21, 0, 0, 1016⟩)
  , (0x0408200419680000, .stv Pfx.zero ⟨0, 8, 1, 0, 1, 25, 26, 0⟩)
  , (0x0507A00419680000, .stvs Pfx.zero ⟨0, 7, 5, 0, 1, 25, 26, 0⟩)
  , (0x0607C00403680000, .stvx Pfx.zero ⟨0, 7, 6, 0, 1, 3, 26, 0⟩)
  , (0x0703805405000000, .qpush Pfx.zero ⟨0, 3, 4, 0, 21, 5, 0, 0⟩)
  , (0x0893105015680000, .amoadd Pfx.zero ⟨9, 3, 0, 1, 20, 21, 26, 0⟩)
  , (0x099A005015680000, .amomin Pfx.zero ⟨9, 10, 0, 0, 20, 21, 26, 0⟩)
  , (0x0A93005015680000, .amomax Pfx.zero ⟨9, 3, 0, 0, 20, 21, 26, 0⟩)
  , (0x0B9A105015680000, .amominu Pfx.zero ⟨9, 10, 0, 1, 20, 21, 26, 0⟩)
  , (0x0C93005015680000, .amomaxu Pfx.zero ⟨9, 3, 0, 0, 20, 21, 26, 0⟩)
  , (0x0D9A005015680000, .amoand Pfx.zero ⟨9, 10, 0, 0, 20, 21, 26, 0⟩)
  , (0x0E93105015680000, .amoor Pfx.zero ⟨9, 3, 0, 1, 20, 21, 26, 0⟩)
  , (0x0F9A005015680000, .amoxor Pfx.zero ⟨9, 10, 0, 0, 20, 21, 26, 0⟩)
  , (0x1093005015680000, .amoswap Pfx.zero ⟨9, 3, 0, 0, 20, 21, 26, 0⟩)
  , (0x119A105015680000, .amocas Pfx.zero ⟨9, 10, 0, 1, 20, 21, 26, 0⟩)
  , (0x1292005015680000, .amofadd Pfx.zero ⟨9, 2, 0, 0, 20, 21, 26, 0⟩) ]

theorem test_decode_storeWords : storeWords.all (fun x => decodeSlot 5 Pfx.zero x.1 == some x.2) = true := by decide +kernel

theorem test_issues_storeWords : ∀ x ∈ storeWords, ∃ s, Issues s Pfx.zero (opsOf x.2) ∧ Calm s :=
  shown_of [st] _ (by decide +kernel)

/-- Words of slot 6, put together from Tables 5-3 to 5-16 (R81 to R95). -/
def copyWords : List (W64 × Instr) :=
  [ (0x0105F59500000000, .cdset Pfx.zero ⟨0, 5, 15, 22, 21, 0, 0, 0, 0, 0⟩)
  , (0x0200359C00000000, .cdfmt Pfx.zero ⟨0, 0, 3, 22, 28, 0, 0, 0, 0, 0⟩)
  , (0x0802369E0C400020, .cpy Pfx.zero ⟨0, 2, 3, 26, 30, 3, 4, 0, 0, 32⟩)
  , (0x0902369D0C400080, .cpym Pfx.zero ⟨0, 2, 3, 26, 29, 3, 4, 0, 0, 128⟩)
  , (0x0A02369E0C400040, .cpyr Pfx.zero ⟨0, 2, 3, 26, 30, 3, 4, 0, 0, 64⟩)
  , (0x0B0206800C000000, .chain Pfx.zero ⟨0, 2, 0, 26, 0, 3, 0, 0, 0, 0⟩)
  , (0x0C0200240C000000, .cpyw Pfx.zero ⟨0, 2, 0, 0, 36, 3, 0, 0, 0, 0⟩)
  , (0x100236A30C400010, .lxfer Pfx.zero ⟨0, 2, 3, 26, 35, 3, 4, 0, 0, 16⟩)
  , (0x110236A30C400000, .lxred Pfx.zero ⟨0, 2, 3, 26, 35, 3, 4, 0, 0, 0⟩)
  , (0x1202191E0C400009, .xamo Pfx.zero ⟨0, 2, 1, 36, 30, 3, 4, 0, 0, 9⟩)
  , (0x1902000000000000, .cabort Pfx.zero ⟨0, 2, 0, 0, 0, 0, 0, 0, 0, 0⟩) ]

theorem test_decode_copyWords : copyWords.all (fun x => decodeSlot 6 Pfx.zero x.1 == some x.2) = true := by decide +kernel

theorem test_issues_copyWords : ∀ x ∈ copyWords, ∃ s, Issues s Pfx.zero (opsOf x.2) ∧ Calm s :=
  shown_of [st] _ (by decide +kernel)

/-- Words of slot 7, put together from Tables 5-3 to 5-16 (R81 to R95). -/
def syncWords : List (W64 × Instr) :=
  [ (0x0100000000028E00, .tkwait Pfx.zero ⟨0, 0, 5, 7, 0, 0⟩)
  , (0x0200000000048000, .tkpost Pfx.zero ⟨0, 0, 9, 0, 0, 0⟩)
  , (0x0300000000028E00, .tkclr Pfx.zero ⟨0, 0, 5, 7, 0, 0⟩)
  , (0x0800000F80000000, .bara Pfx.zero ⟨31, 0, 0, 0, 0, 0⟩)
  , (0x0900000F80000000, .barw Pfx.zero ⟨31, 0, 0, 0, 0, 0⟩)
  , (0x0A00000F82C00000, .barx Pfx.zero ⟨31, 22, 0, 0, 0, 0⟩)
  , (0x1000000000000000, .drain Pfx.zero ⟨0, 0, 0, 0, 0, 0⟩)
  , (0x1100000000000002, .fence Pfx.zero ⟨0, 0, 0, 0, 0, 2⟩)
  , (0x1800000B00000000, .brel Pfx.zero ⟨22, 0, 0, 0, 0, 0⟩)
  , (0x1900000B00000000, .bacq Pfx.zero ⟨22, 0, 0, 0, 0, 0⟩)
  , (0x2000000A82A00000, .chkeq Pfx.zero ⟨21, 21, 0, 0, 0, 0⟩)
  , (0x2100000080200000, .chkv Pfx.zero ⟨1, 1, 0, 0, 0, 0⟩)
  , (0x2300000A8000A82A, .vote Pfx.zero ⟨21, 0, 1, 20, 5, 2⟩)
  , (0x2800001000000000, .racq Pfx.zero ⟨32, 0, 0, 0, 0, 0⟩)
  , (0x2900001004200002, .rrel Pfx.zero ⟨32, 33, 0, 0, 0, 2⟩)
  , (0x2A00001000000000, .reos Pfx.zero ⟨32, 0, 0, 0, 0, 0⟩)
  , (0x3000000000000007, .slack Pfx.zero ⟨0, 0, 0, 0, 0, 7⟩)
  , (0x3100000B00000000, .twait Pfx.zero ⟨22, 0, 0, 0, 0, 0⟩)
  , (0x3200000000000001, .phase Pfx.zero ⟨0, 0, 0, 0, 0, 1⟩)
  , (0x3300000B02A00000, .tevt Pfx.zero ⟨22, 21, 0, 0, 0, 0⟩)
  , (0x3400000000000001, .uien Pfx.zero ⟨0, 0, 0, 0, 0, 1⟩) ]

theorem test_decode_syncWords : syncWords.all (fun x => decodeSlot 7 Pfx.zero x.1 == some x.2) = true := by decide +kernel

theorem test_issues_syncWords : ∀ x ∈ syncWords, ∃ s, Issues s Pfx.zero (opsOf x.2) ∧ Calm s :=
  shown_of [st] _ (by decide +kernel)

theorem test_decode_chka : decodeSlot 7 Pfx.zero 0x2200000D00000000 = some (.chka Pfx.zero ⟨26, 0, 0, 0, 0, 0⟩) := by decide +kernel
/-! ## Well-formedness -/

/-- An RRR operation with its fields zero. -/
def r0 : Rrr := { lat := 0, rm := 0, fi := 0, fo := 0, sat := 0, ef := 0, d := 0, a := 0, b := 0, msk := 0, x := 0 }
/-- An RI operation with its fields zero. -/
def i0 : Ri := { lat := 0, rm := 0, fi := 0, fo := 0, sat := 0, ef := 0, d := 0, a := 0, imm := 0 }

/-- The checks of `Instr.wf`, each with a term that it refuses: the form of VQNT in X[7] (R187), the low bits of a compressed instruction
(R104), the cause of a hart exception (R230). -/
theorem test_wf_refuses :
    Instr.wf (.vqnt Pfx.zero { r0 with x := 0x80 }) = false ∧ Instr.wf (.vqntScale Pfx.zero r0) = false
      ∧ Instr.wf (.hartInstruction (.compressed 0x0003)) = false ∧ Instr.wf (.hartException 0x02) = false := by decide +kernel
theorem test_wf_allows :
    Instr.wf (.vqnt Pfx.zero r0) = true ∧ Instr.wf (.vqntScale Pfx.zero { r0 with x := 0x80 }) = true
      ∧ Instr.wf (.hartInstruction (.compressed 0x0001)) = true ∧ Instr.wf (.hartException 0x19) = true := by decide +kernel

/-! ## Words that the manual writes out -/

/-- Words of sections 05, 06, 08, 09, 11, 12 and 13, in their slots, with what each stands for. -/
def manualWords : List (Nat × W64 × Option Instr) :=
  [ (0, 0x2000001405000040, some (.addi Pfx.zero { i0 with d := 20, a := 20, imm := 64 }))
  , (1, 0x01303C0400803000, some (.vadd Pfx.zero .va { r0 with lat := 3, ef := 0x0F, d := 4, a := 2, b := 3 }))
  , (4, 0x0467000800500000, some (.ldv Pfx.zero { lat := 6, wd := 7, am := 0, aq := 0, d := 2, x := 0, base := 20, imm := 0 }))
  , (0, 0x2A00001500159E26, some (.lix Pfx.zero { i0 with d := 21, imm := 0x159E26 }))
  , (0, 0x6C00000000000020, some (.vshrink Pfx.zero { i0 with imm := 32 }))
  , (0, 0x6D10001400000010, some (.vgrow Pfx.zero { i0 with lat := 1, d := 20, imm := 16 }))
  , (0, 0x6300000000000000, some (.tret Pfx.zero r0))
  , (0, 0x6400000000000000, some (.uiret Pfx.zero r0))
  , (1, 0x1B103C0202009000, some (.vclt Pfx.zero .va { r0 with lat := 1, ef := 0x0F, d := 2, a := 8, b := 9 }))
  , (2, 0x5130980C0200002F, some (.vnarrow Pfx.zero { r0 with lat := 3, sat := 1, ef := 0x06, d := 12, a := 8, x := 0x2F }))
  , (1, 0x26104005003FFFFF, some (.vsplati Pfx.zero .va { i0 with lat := 1, ef := 0x10, d := 5, imm := 0x3FFFFF }))
  , (1, 0x4000000000C00000, some (.mpush Pfx.zero { r0 with a := 3 }))
  , (4, 0x0133002400500008, some (.ld Pfx.zero { lat := 3, wd := 3, am := 0, aq := 0, d := 9, x := 0, base := 20, imm := 8 }))
  , (4, 0x0813802401000000, some (.qpop Pfx.zero { lat := 1, wd := 3, am := 4, aq := 0, d := 9, x := 1, base := 0, imm := 0 }))
  , (5, 0x117B10781F580000, some (.amocas Pfx.zero { lat := 7, wd := 11, am := 0, aq := 1, d := 30, x := 31, base := 22, imm := 0 }))
  , (6, 0x0802351514600000, some (.cpy Pfx.zero { cf := 0, ch := 2, cd := 3, ss := 20, sd := 21, ko := 5, ki1 := 6, ki2 := 0, ki3 := 0, z := 0 }))
  , (6, 0x1101251518000000, some (.lxred Pfx.zero { cf := 0, ch := 1, cd := 2, ss := 20, sd := 21, ko := 6, ki1 := 0, ki2 := 0, ki3 := 0, z := 0 }))
  , (3, 0x0105480000014000, some (.mdsa Pfx.zero { lat := 0, ad := 21, md := 2, ko := 0, ki1 := 0, ki2 := 0, ki3 := 0, sp := 20, mf := 0 }))
  , (3, 0x0870C85100000006, some (.mma Pfx.zero { lat := 7, ad := 3, md := 2, ko := 5, ki1 := 4, ki2 := 0, ki3 := 0, sp := 0, mf := 6 }))
  , (3, 0x10600C7080000061, some (.mfret Pfx.zero { lat := 6, ad := 0, md := 3, ko := 7, ki1 := 2, ki2 := 0, ki3 := 0, sp := 0, mf := 0x61 }))
  , (3, 0x15A4040000000001, some (.mdrain Pfx.zero { lat := 10, ad := 16, md := 1, ko := 0, ki1 := 0, ki2 := 0, ki3 := 0, sp := 0, mf := 1 }))
  , (3, 0x1961400000015028, some (.mrdv Pfx.zero { lat := 6, ad := 5, md := 0, ko := 0, ki1 := 0, ki2 := 0, ki3 := 0, sp := 21, mf := 40 }))
  , (7, 0x0100000000028E00, some (.tkwait Pfx.zero { a := 0, b := 0, k1 := 5, k2 := 7, k3 := 0, sf := 0 }))
  , (7, 0x0920000A02A00000, some (.barw { Pfx.zero with sc := 2 } { a := 20, b := 21, k1 := 0, k2 := 0, k3 := 0, sf := 0 }))
  , (7, 0x1030000000000000, some (.drain { Pfx.zero with sc := 3 } { a := 0, b := 0, k1 := 0, k2 := 0, k3 := 0, sf := 0 }))
  , (7, 0x2000000A05000000, some (.chkeq Pfx.zero { a := 20, b := 40, k1 := 0, k2 := 0, k3 := 0, sf := 0 }))
  , (7, 0x2900000C03200002, some (.rrel Pfx.zero { a := 24, b := 25, k1 := 0, k2 := 0, k3 := 0, sf := 2 }))
  , (7, 0x3100000B00000000, some (.twait Pfx.zero { a := 22, b := 0, k1 := 0, k2 := 0, k3 := 0, sf := 0 }))
  , (7, 0x3000000000000002, some (.slack Pfx.zero { a := 0, b := 0, k1 := 0, k2 := 0, k3 := 0, sf := 2 })) ]

/-- The table's rows of 512 bits: a bundle that holds the one word. -/
theorem test_decode_manualWords : manualWords.all (fun x => decodeTableWord 512 (x.2.1.toNat * 2 ^ (64 * x.1)) == x.2.2) = true := by
  decide +kernel

/-- What the encoder writes for each of them is the bundle again. -/
theorem test_encode_manualWords :
    manualWords.all (fun x => match x.2.2 with
      | some i => leValue (encode i) == x.2.1.toNat * 2 ^ (64 * x.1)
      | none => false) = true := by decide +kernel

/-- Words of a hart: jq.push q1, a0, a1 and jc.sub a0, a1, ch2 (sections 05 and 11); addi x1, x2, -1; c.nop; ecall. -/
theorem test_decode_hart :
    decodeTableWord 32 0x02B5000B = some (.jqPush 1 11 10) ∧ decodeTableWord 32 0x0405A50B = some (.jcSub 2 11 10)
      ∧ decodeTableWord 32 0xFFF10093 = some (.hartInstruction (.full (.imm .addi 1 2 (-1))))
      ∧ decodeHart [0x01, 0x00] = some (.hartInstruction (.compressed 1), 2)
      ∧ decodeTableWord 32 0x00000073 = some .hartEcall := by decide +kernel

/-- A word in slot VB with a reserved opcode is no instruction; its bundle traps with 0x02 in that slot (section 05). -/
theorem test_decode_reserved : decodeTableWord 512 (1 * 2 ^ 128) = none := by decide +kernel

/-! ## Values that the manual works out, one step each -/

/-- The values in flight after an instruction of context 0 of core 0. -/
def put (o : Out) : List Nat :=
  match o with
  | .next t => (t.ctx 0).inflight.map fun w => w.val.toNat % 2 ^ 64
  | _ => []
/-- The state with two scalar registers. -/
def two (a b : Nat) : Machine.State := st.modCtx 0 (regs [(21, a), (22, b)])
def dab : Rrr := { r0 with lat := 9, d := 20, a := 21, b := 22 }

/-- The rows of section 08's division table. -/
theorem test_division :
    put (exec (.div Pfx.zero { dab with ef := 16 }) (two 0xFFFFFFFF80000000 0xFFFFFFFFFFFFFFFF)) = [0xFFFFFFFF80000000]
      ∧ put (exec (.rem Pfx.zero { dab with ef := 16 }) (two 0xFFFFFFFF80000000 0xFFFFFFFFFFFFFFFF)) = [0]
      ∧ put (exec (.div Pfx.zero dab) (two 0xFFFFFFFF80000000 0xFFFFFFFFFFFFFFFF)) = [0x80000000]
      ∧ put (exec (.divu Pfx.zero { dab with ef := 16 }) (two 0x0000000100000006 0x0000000200000003)) = [2] := by decide +kernel
/-- LIX in section 08's chain. -/
theorem test_lix :
    put (exec (.lix Pfx.zero { i0 with lat := 9, d := 21, imm := 0x159E26 }) (two 0x1234 0)) = [0x48D159E26] := by decide +kernel
/-- MFSR of CT, whose count is 5,000. -/
theorem test_mfsr_ct : put (exec (.mfsr Pfx.zero { i0 with lat := 1, d := 22, imm := 0x10 }) st) = [5000] := by decide +kernel
/-- A branch of −3 from bundle 5 that is taken, and one that is not. -/
theorem test_branch :
    (match exec (.br Pfx.zero { z1 := 0, cond := 3, sa := 22, sb := 21, hint := 1, z2 := 0, off := BitVec.ofInt 32 (-3) }) st with
      | .next t => (t.ctx 0).pc
      | _ => 0) = 2
    ∧ (match exec (.br Pfx.zero { z1 := 0, cond := 3, sa := 21, sb := 22, hint := 1, z2 := 0, off := BitVec.ofInt 32 (-3) }) st with
      | .next t => (t.ctx 0).pc
      | _ => 0) = 6 := by decide +kernel
/-- VREDADD.F32 of 1, +∞, a NaN of payload 0x7FC00042 and −∞ (section 09): the NaN comes before the clash of infinities. -/
theorem test_vredadd :
    redAddF f32 { rm := 0, fi := false, fo := false, sat := false } [0x3F800000, 0x7F800000, 0x7FC00042, 0xFF800000] = (0x7FC00042, 0)
      ∧ redAddF f32 { rm := 0, fi := false, fo := false, sat := false } [0x3F800000, 0x7F800000, 0xFF800000] = (0x7FC00001, 1) := by
  decide +kernel
/-- SHAKE256 of no bytes begins 46 B9 DD 2B (FIPS 202, which the manual names). -/
theorem test_shake256 : (shake256 4 []) = [0x46, 0xB9, 0xDD, 0x2B] := by decide +kernel
/-- CRC-32C of "123456789", its check value. -/
theorem test_crc32c : crc32c ((List.range 9).map fun i => BitVec.ofNat 8 (0x31 + i)) = 0xE3069283 := by decide +kernel
/-! ## States that meet the hypotheses of the statements

`test_issues_<words>` above give, for each operation of a bundle, a state in which it issues (`Issues`, `Calm`): all that most statements
about a bundle ask for. What follows meets the other hypotheses. -/

/-- A state before a bundle that holds `i`. -/
def issues (s : Machine.State) (i : Instr) : Bool := issuesB s Pfx.zero (opsOf i) && calmB s
theorem issues_and_calm {s : Machine.State} {i : Instr} (h : issues s i = true) : Issues s Pfx.zero (opsOf i) ∧ Calm s := by
  rw [issues, Bool.and_eq_true] at h
  exact ⟨issues_of h.1, calm_of h.2⟩
def legalB (s : Machine.State) (i : Instr) : Bool :=
  decide (gate s.cur Pfx.zero = .go) && (staticTrap s.cur Pfx.zero (opsOf i)).isNone && s.atIssue.bad.isEmpty
theorem legal_of {s : Machine.State} {i : Instr} (h : legalB s i = true) : Claims.Legal s Pfx.zero i := by
  simp only [legalB, Bool.and_eq_true, decide_eq_true_eq, Option.isNone_iff_eq_none, List.isEmpty_iff] at h
  exact ⟨h.1.1, h.1.2, h.2⟩
def inCtx (f : Ctx → Ctx) : Machine.State := st.modCtx 0 f

/-- The resident image of the handlers, and a TVEC that names it (R311). -/
def withHandler (s : Machine.State) : Machine.State :=
  (s.modChip 0 fun c => { c with images := [{ kind := 2, part := 0, svn := 1, base := 0x2000000, len := 0x10000, seq := 1 }] }).modCtx 0
    fun c => { c with tvec := 0x2000000 }

/-! ### Scalar operations, branches, calls, loops -/

theorem witness_ScalarRegisterOperations :
    Claims.rrr? (.add Pfx.zero dab) = some (Pfx.zero, dab) ∧ Issues st Pfx.zero (opsOf (.add Pfx.zero dab)) ∧ Calm st :=
  ⟨rfl, issues_and_calm (by decide +kernel)⟩
theorem witness_ScalarRegisterOperations_smir :
    let f := { dab with x := 0x06 }
    Claims.rrr? (.div Pfx.zero { f with x := 0 }) = some (Pfx.zero, { f with x := 0 })
    ∧ slotWord (.div Pfx.zero { f with x := 0 }) = some (Pfx.zero, 0, rrrWord (f.x.setWidth 8) { f with x := 0 })
    ∧ Issues st Pfx.zero (opsOf (.smir Pfx.zero f)) ∧ Calm st :=
  ⟨rfl, by decide +kernel, issues_and_calm (by decide +kernel)⟩

/-- The three traps of EXT and INS: a bit above IMM22[12], SX for INS, a field that reaches bit 64 of 64. -/
theorem witness_ScalarImmediateOperations :
    gate st.cur Pfx.zero = .go ∧ 1 ≤ st.cur.npdef.toNat ∧ st.cur.npdef.toNat ≤ 8
    ∧ 2 ^ 13 ≤ ({ i0 with imm := 0x2000 } : Ri).imm.toNat ∧ ({ i0 with imm := 0x1000 } : Ri).imm.getLsbD 12 = true
    ∧ Claims.width 0 < (0x0041 : Nat) % 64 + (0x0FC1 / 64 % 64 + 1) := by decide +kernel

theorem witness_BranchesTakeTheirTargets :
    let f : Br := { z1 := 0, cond := 1, sa := 20, sb := 21, hint := 1, z2 := 0, off := 4 }
    Claims.br? (.br Pfx.zero f) = some (Pfx.zero, f) ∧ Issues st Pfx.zero (opsOf (.br Pfx.zero f)) ∧ Calm st :=
  ⟨rfl, issues_and_calm (by decide +kernel)⟩

theorem witness_CallsMoveTheWindow :
    let f : Br := { z1 := 0, cond := 0, sa := 0, sb := 6, hint := 0, z2 := 0, off := 9 }
    Issues st Pfx.zero (opsOf (.call Pfx.zero f)) ∧ Calm st ∧ ∀ l ∈ st.cur.loops, l.tag.2.2 ≤ st.cur.wdepth :=
  ⟨(issues_and_calm (by decide +kernel)).1, (issues_and_calm (i := .halt Pfx.zero r0) (by decide +kernel)).2, by decide +kernel⟩
/-- Five frames of advance 6 do not fit the bank; the oldest frame is free of writes, or has one in flight. -/
def deep : Machine.State :=
  inCtx fun c => { c with wdepth := 5, wp := 240, link := (List.range 5).map fun i => (i + 1, (7, 6)), resid := 0 }
def deepBusy : Machine.State :=
  deep.modCtx 0 fun c => { c with inflight := [{ id := 9, dest := .s 3, val := 1, lanes := laneS, groups := 3, ready := false, t := 999
                                                 acc := none, bound := 9, lvl := 0, hold := false, fl := 0 }] }
theorem witness_CallsMoveTheWindow_spill :
    (deep.memOk ∧ deep.atIssue.weak = [] ∧ deep.cur.live = true ∧ deep.cur.trapDue = none ∧ Claims.overfull deep.cur
      ∧ deep.cur.inflight = [] ∧ deep.atIssue.bad = [])
    ∧ Claims.overfull deepBusy.cur ∧ ∃ w ∈ deepBusy.cur.inflight, ∃ k, k < 48 ∧ w.dest = .s (Claims.oldest deepBusy.cur k) := by
  refine ⟨?_, ?_, ?_⟩
  · unfold State.memOk Claims.overfull; decide +kernel
  · unfold Claims.overfull; decide +kernel
  · exact ⟨_, List.mem_singleton.mpr rfl, 3, by decide, by decide +kernel⟩

theorem witness_ReturnsRestoreTheWindow :
    let f : Br := { z1 := 0, cond := 0, sa := 0, sb := 0, hint := 2, z2 := 0, off := 0 }
    let s := inCtx fun c => { c with wdepth := 1, link := [(1, (40, 2))], wp := 16, resid := 1 }
    Issues s Pfx.zero (opsOf (.ret Pfx.zero f)) ∧ Calm s ∧ sget (0, 0) s.cur.link s.cur.wdepth = (40, 2) ∧ s.cur.wdepth ≤ s.cur.resid
      ∧ s.cur.loops = [] := by
  refine ⟨issues_of (by decide +kernel), calm_of (by decide +kernel), by decide +kernel, by decide +kernel, by decide +kernel⟩

/-- A level that was closed for pre-emption at this LOOP, and a level at whose last bundle the context stands, before its last iteration,
in it, and served for pre-emption. -/
def reopen : Machine.State :=
  inCtx fun c => { c with resume := some { pc := 5, tag := (0, false, 0), count := 2, strides := [(20, 8)] }, closing := true }
def atLast (l : Loop) : Machine.State := inCtx fun c => { c with loops := [l], pc := 9 }
theorem witness_Loops :
    let f : Br := { z1 := 0, cond := 0, sa := 21, sb := 0, hint := 0, z2 := 0, off := 4 }
    (Calm reopen ∧ Issues reopen Pfx.zero (opsOf (.loop Pfx.zero f)) ∧ (Claims.reopened reopen).isSome = true)
    ∧ (Calm st ∧ Issues st Pfx.zero (opsOf (.loop Pfx.zero { f with sa := 0 })) ∧ st.sr 0 = 0) := by
  refine ⟨⟨calm_of (by decide +kernel), issues_of (by decide +kernel), by decide +kernel⟩, calm_of (by decide +kernel),
    issues_of (by decide +kernel), by decide +kernel⟩
theorem witness_Loops_boundary :
    ∀ l ∈ [{ lvl with strides := [(20, 8)] }, { lvl with iter := 3 }, { lvl with serve := true }],
      Issues (atLast l) Pfx.zero (opsOf (.emptyBundle Pfx.zero)) ∧ (atLast l).cur.dbgStep = false ∧ (atLast l).cur.loops.getLast? = some l
        ∧ l.tag = ((atLast l).cur.tl, (atLast l).cur.ui.inh, (atLast l).cur.wdepth) ∧ (atLast l).cur.pc = l.last := by
  intro l hl
  have h : [{ lvl with strides := [(20, 8)] }, { lvl with iter := 3 }, { lvl with serve := true }].all (fun l =>
      issuesB (atLast l) Pfx.zero (opsOf (.emptyBundle Pfx.zero)) && decide ((atLast l).cur.dbgStep = false
        ∧ (atLast l).cur.loops.getLast? = some l ∧ l.tag = ((atLast l).cur.tl, (atLast l).cur.ui.inh, (atLast l).cur.wdepth)
        ∧ (atLast l).cur.pc = l.last)) = true := by decide +kernel
  have h1 := List.all_eq_true.mp h l hl
  rw [Bool.and_eq_true, decide_eq_true_eq] at h1
  exact ⟨issues_of h1.1, h1.2⟩

theorem witness_SpecialRegisters :
    Issues st Pfx.zero (opsOf (.mfsr Pfx.zero { i0 with lat := 1, d := 22, imm := 0x033 }))
      ∧ Issues st Pfx.zero (opsOf (.mtsr Pfx.zero { i0 with a := 21, imm := 0x10A })) ∧ Calm st :=
  ⟨issues_of (by decide +kernel), issues_of (by decide +kernel), calm_of (by decide +kernel)⟩

/-! ### Traps and checks -/

theorem witness_TrapsEnterOrKill :
    let i := Instr.div Pfx.zero { dab with b := 0 }
    let s := withHandler st
    ∃ o t, partsOf i = some o ∧ Claims.Traps s Pfx.zero [o] t ∧ t.cause = 0x07 ∧ (∀ e u, o.onFault e u = u) ∧ s.atIssue.weak = []
      ∧ s.atIssue.bad = [] ∧ Claims.handler s ∧ s.cur.late.length + (Claims.captured s).length ≤ 96 := by
  refine ⟨_, _, rfl, { live := by decide +kernel, noStall := by decide +kernel, noStep := by decide +kernel, ready := by decide +kernel
                       noFault := by decide +kernel, fails := Option.eq_some_of_isSome (by decide +kernel) }, by decide +kernel,
    fun _ _ => rfl, by decide +kernel, by decide +kernel, ?_, by decide +kernel⟩
  unfold Claims.handler; decide +kernel
/-- Without a resident image there is no handler, and at TL 2 none is entered. -/
theorem witness_TrapsEnterOrKill_kill : ¬ Claims.handler st ∧ 2 ≤ (inCtx fun c => { c with tl := 2 }).cur.tl := by
  unfold Claims.handler; decide +kernel

/-- A level that is active around bundle 5, and six levels. -/
def around : Machine.State := inCtx fun c => { c with loops := [lvl] }
def bro : Br := { z1 := 0, cond := 0, sa := 0, sb := 0, hint := 0, z2 := 0, off := 0 }
theorem witness_ScalarSlotFaults :
    Claims.Legal st Pfx.zero (.div Pfx.zero { dab with b := 0 }) ∧ (st.sr 0).setWidth (Claims.width 0) = 0
    ∧ (Claims.Legal around Pfx.zero (.br Pfx.zero { bro with off := 5 }) ∧ around.cur.loops.getLast? = some lvl
        ∧ lvl.last < Claims.target (.br Pfx.zero { bro with off := 5 }) { bro with off := 5 } around)
    ∧ (let s := inCtx fun c => { c with wdepth := 63 }
      Claims.Legal s Pfx.zero (.call Pfx.zero { bro with sb := 1 }) ∧ s.cur.wdepth = 63)
    ∧ Claims.Legal st Pfx.zero (.ret Pfx.zero { bro with hint := 2 }) ∧ st.cur.wdepth = 0
    ∧ (let s := inCtx fun c => { c with wdepth := 1, loops := [{ lvl with tag := (0, false, 1) }] }
      Claims.Legal s Pfx.zero (.ret Pfx.zero { bro with hint := 2 }) ∧ s.cur.wdepth ≠ 0)
    ∧ (Claims.Legal st Pfx.zero (.loop Pfx.zero { bro with sa := 20, off := 4 }) ∧ 0xFFFFFFFF < (st.sr 20).toNat)
    ∧ (let s := inCtx fun c => { c with loops := List.replicate 6 lvl }
      Claims.Legal s Pfx.zero (.loop Pfx.zero { bro with sa := 21, off := 4 }) ∧ Claims.reopened s = none ∧ 6 ≤ s.cur.loops.length)
    ∧ Claims.Legal st Pfx.zero (.lbrk Pfx.zero bro) ∧ st.cur.loops[0]? = none
    ∧ Claims.Legal st Pfx.zero (.lstr Pfx.zero { bro with sa := 21, sb := 22, off := 1 }) := by
  refine ⟨legal_of (by decide +kernel), by decide +kernel, ⟨legal_of (by decide +kernel), by decide +kernel, by decide +kernel⟩,
    ⟨legal_of (by decide +kernel), by decide +kernel⟩, legal_of (by decide +kernel), by decide +kernel,
    ⟨legal_of (by decide +kernel), by decide +kernel⟩, ⟨legal_of (by decide +kernel), by decide +kernel⟩,
    ⟨legal_of (by decide +kernel), by decide +kernel, by decide +kernel⟩, legal_of (by decide +kernel), by decide +kernel,
    legal_of (by decide +kernel)⟩
theorem witness_ScalarSlotFaults_system :
    Claims.Legal st Pfx.zero (.tret Pfx.zero r0) ∧ st.cur.tl = 0 ∧ Claims.Legal st Pfx.zero (.uiret Pfx.zero r0) ∧ st.cur.ui.inh = false
    ∧ Claims.Legal stH Pfx.zero (.halt Pfx.zero r0) ∧ stH.cur.tl ≠ 0
    ∧ Claims.Legal st Pfx.zero (.mtsr Pfx.zero { i0 with a := 21, imm := 0x031 }) ∧ 5 ≤ (st.sr 21).toNat % 8
    ∧ Claims.Legal st Pfx.zero (.bkpt Pfx.zero { i0 with imm := 0xFFFF })
    ∧ Claims.Legal st Pfx.zero (.vshrink Pfx.zero { i0 with imm := 65 }) ∧ st.cur.vSize < 65
    ∧ Claims.Legal st Pfx.zero (.icinv Pfx.zero { r0 with a := 21 }) ∧ (st.sr 21).toNat % 4096 ≠ 0 := by
  refine ⟨legal_of (by decide +kernel), by decide +kernel, legal_of (by decide +kernel), by decide +kernel,
    legal_of (by decide +kernel), by decide +kernel, legal_of (by decide +kernel), by decide +kernel, legal_of (by decide +kernel),
    legal_of (by decide +kernel), by decide +kernel, legal_of (by decide +kernel), by decide +kernel⟩

/-- One operation for each check: a field that must be zero, an illegal value, an illegal LAT, a resident operation at node privilege, a
register beyond the allotment. -/
theorem witness_SlotChecks :
    let s := inCtx fun c => { c with res := false }
    gate s.cur Pfx.zero = .go ∧ 1 ≤ s.cur.npdef.toNat ∧ s.cur.npdef.toNat ≤ 8 ∧ s.cur.res = false
    ∧ ((partsOf (.tret Pfx.zero { r0 with d := 1 })).any fun o => !o.zeroOk && o.slot != 7) = true
    ∧ ((partsOf (.ext Pfx.zero { i0 with lat := 1, imm := 0x0FC1 })).any fun o => o.zeroOk && o.bad == some 0x01) = true
    ∧ ((partsOf (.div Pfx.zero { dab with lat := 0 })).any fun o => o.zeroOk && o.bad.isNone && o.latBad.isSome) = true
    ∧ ((partsOf (.tret Pfx.zero r0)).any fun o => o.zeroOk && o.bad.isNone && o.latBad.isNone && o.priv) = true
    ∧ ((partsOf (.vmov Pfx.zero .va { r0 with lat := 9, ef := 16, d := 64, a := 1 })).any fun o =>
        o.zeroOk && o.bad.isNone && o.latBad.isNone && !o.priv && o.vregs.any fun n => decide (s.cur.vSize ≤ n)) = true := by
  decide +kernel

theorem witness_TrapsAndReturns :
    (withHandler st).cur.late.length + (Claims.captured (withHandler st)).length ≤ 96
    ∧ Issues (withHandler st) Pfx.zero (opsOf (.ecall Pfx.zero { i0 with imm := 7 })) ∧ Calm (withHandler st)
    ∧ Reaches (withHandler st) Pfx.zero (opsOf (.bkpt Pfx.zero { i0 with imm := 7 }))
    ∧ Claims.Legal (withHandler st) Pfx.zero (.bkpt Pfx.zero { i0 with imm := 7 }) ∧ Claims.handler (withHandler st)
    ∧ Issues stH Pfx.zero (opsOf (.tret Pfx.zero r0)) ∧ Issues stU Pfx.zero (opsOf (.uiret Pfx.zero r0)) := by
  refine ⟨by decide +kernel, issues_of (by decide +kernel), calm_of (by decide +kernel),
    { live := by decide +kernel, noStall := by decide +kernel, noStep := by decide +kernel, ready := by decide +kernel
      noFault := by decide +kernel }, legal_of (by decide +kernel), ?_, issues_of (by decide +kernel), issues_of (by decide +kernel)⟩
  unfold Claims.handler; decide +kernel

theorem witness_LeavingTheCore :
    let s := st.modCtx 1 fun c => { c with st := .ready, gid := 3, idx := 4 }
    let f : Rrr := { r0 with a := 33, b := 21 }
    Issues s Pfx.zero (opsOf (.kill Pfx.zero f)) ∧ Calm s ∧ (s.atIssue.ctx (ckCore s.fck * 4 + (s.sr 33).toNat % 4)).st ≠ .idle
    ∧ (s.atIssue.ctx (ckCore s.fck * 4 + (s.sr 33).toNat % 4)).halted = false :=
  ⟨issues_of (by decide +kernel), calm_of (by decide +kernel), by decide +kernel, by decide +kernel⟩

theorem witness_VectorAllotment :
    Issues st Pfx.zero (opsOf (.vshrink Pfx.zero { i0 with imm := 64 })) ∧ Calm st
    ∧ Issues st Pfx.zero (opsOf (.vgrow Pfx.zero { i0 with lat := 1, d := 20, imm := 577 })) ∧ (st.cur.vBase + 64) + 577 > 640 :=
  ⟨issues_of (by decide +kernel), calm_of (by decide +kernel), issues_of (by decide +kernel), by decide +kernel⟩

/-- A bundle that LIO holds back, and one that waits for a write in flight. -/
def lio : Pfx := { Pfx.zero with lio := 1 }
theorem witness_BundlesThatDoNothing :
    let o := opsOf (.add lio dab)
    Reaches around lio o ∧ preemptPoint around.atIssue around.fck = false ∧ around.cur.userReady = false ∧ Calm around
    ∧ around.cur.loops[0]? = some lvl ∧ lvl.iter + 1 ≠ lvl.trip ∧ pfxOf? (.add lio dab) = lio := by
  refine ⟨{ live := by decide +kernel, noStall := by decide +kernel, noStep := by decide +kernel, ready := by decide +kernel
            noFault := by decide +kernel }, by decide +kernel, by decide +kernel, calm_of (by decide +kernel), by decide +kernel,
    by decide +kernel, by decide +kernel⟩
theorem witness_BundlesThatDoNothing_wait :
    let s := inCtx fun c => { c with toks := [] }
    let i := Instr.tkwait Pfx.zero { a := 0, b := 0, k1 := 5, k2 := 0, k3 := 0, sf := 0 }
    s.cur.live = true ∧ s.cur.stalled = false ∧ ¬ (s.cur.stepDue.isSome = true ∧ s.cur.tl = 0)
    ∧ (bundleHeld (s.env Pfx.zero (opsOf i)) (opsOf i)).isSome = true ∧ ∀ o, partsOf i = some o → ∀ e u, o.arrive e u = u := by
  refine ⟨by decide +kernel, by decide +kernel, by decide +kernel, by decide +kernel, fun o h e u => ?_⟩
  obtain rfl := Option.some.inj h
  rfl

/-! ### Masks, memory, tokens, banks, objects -/

theorem witness_MaskOperations :
    let s := inCtx fun c => { c with mstack := List.replicate 16 0xFF }
    Claims.Legal s Pfx.zero (.mpush Pfx.zero { r0 with a := 3 }) ∧ 16 ≤ s.cur.mstack.length
    ∧ Claims.Legal st Pfx.zero (.minv Pfx.zero r0) ∧ Claims.Legal st Pfx.zero (.mpop Pfx.zero r0) ∧ st.cur.mstack = []
    ∧ Issues stL Pfx.zero (opsOf (.mpop Pfx.zero r0)) ∧ Calm stL := by
  refine ⟨legal_of (by decide +kernel), by decide +kernel, legal_of (by decide +kernel), legal_of (by decide +kernel),
    by decide +kernel, issues_of (by decide +kernel), calm_of (by decide +kernel)⟩

/-- Both ends of the frame area: offset 0 and the last 8 bytes of it. -/
theorem witness_FrameSlots :
    let f : MemF := { lat := 0, wd := 3, am := 3, aq := 0, d := 21, x := 0, base := 0, imm := 1016 }
    Issues st Pfx.zero (opsOf (.stf Pfx.zero f)) ∧ Issues st Pfx.zero (opsOf (.ldf Pfx.zero { f with lat := 9, imm := 0 })) ∧ Calm st
    ∧ st.cur.outst = [] ∧ st.cur.lq = [] ∧ st.cur.tq = [] ∧ st.focus.busy.l = false ∧ st.focus.busy.t = false
    ∧ unitOk st.focus.pos st.focus.core st.focus.ctx = true ∧ st.cur.wdepth ≤ 63 ∧ (st.atIssue.core 0).objs = []
    ∧ Claims.noneSeen st.atIssue
    ∧ ∀ y, y < 4 → y ≠ 0 → (st.atIssue.ctx y).lq = [] ∧ (st.atIssue.ctx y).tq = [] := by
  refine ⟨issues_of (by decide +kernel), issues_of (by decide +kernel), calm_of (by decide +kernel), by decide +kernel,
    by decide +kernel, by decide +kernel, by decide +kernel, by decide +kernel, by decide +kernel, by decide +kernel, by decide +kernel, ?_,
    by decide +kernel⟩
  unfold Claims.noneSeen; decide +kernel

/-! ### Vector operations -/

def vabf (ef x : Nat) : Rrr := { lat := 9, rm := 0, fi := 0, fo := 0, sat := 0, ef := BitVec.ofNat 5 ef, d := 8, a := 1, b := 2, msk := 0, x := BitVec.ofNat 9 x }
def issueIn (i : Instr) : Prop := Issues st Pfx.zero (opsOf i) ∧ Calm st
theorem issueIn_of {i : Instr} (h : (issuesB st Pfx.zero (opsOf i) && calmB st) = true) : issueIn i := by
  rw [Bool.and_eq_true] at h; exact ⟨issues_of h.1, calm_of h.2⟩

/-- An integer format and a float format of an operation with both. -/
theorem witness_VectorIntegerOperations_VectorFloatOperations :
    (Claims.vecInt? (.vadd Pfx.zero .va (vabf 4 0)) = some (Pfx.zero, vabf 4 0) ∧ isFltGrp 4 = false ∧ issueIn (.vadd Pfx.zero .va (vabf 4 0)))
    ∧ Claims.vecFlt? (.vmad Pfx.zero .va (vabf 15 0)) = some (Pfx.zero, vabf 15 0) ∧ isFltGrp 15 = true ∧ issueIn (.vmad Pfx.zero .va (vabf 15 0)) :=
  ⟨⟨rfl, by decide, issueIn_of (by decide +kernel)⟩, rfl, by decide, issueIn_of (by decide +kernel)⟩
/-- A tie under RM 0, with an even and an odd neighbour below. -/
theorem witness_ExactArithmeticAndRounding : 2 * 10 = 2 * (2 * 2 ^ 2) + 2 ^ 2 ∧ roundShift 0 false 10 2 = 2 ∧ roundShift 0 false 14 2 = 4 := by decide
theorem witness_VectorCompares :
    let f := { vabf 15 0 with d := 2 }
    Claims.cmp? (.vclt Pfx.zero .va f) = some (Pfx.zero, f) ∧ issueIn (.vclt Pfx.zero .va f) := ⟨rfl, issueIn_of (by decide +kernel)⟩
theorem witness_VectorMovesAndImmediates :
    (issueIn (.vmov Pfx.zero .vb { vabf 11 0 with b := 0 }) ∧ issueIn (.vsel Pfx.zero .va (vabf 11 3)) ∧ issueIn (.vsplat Pfx.zero .va { vabf 11 0 with a := 21, b := 0 })
      ∧ issueIn (.vext Pfx.zero .vb { vabf 11 0 with b := 22, d := 20 }) ∧ issueIn (.vins Pfx.zero .va { vabf 11 0 with a := 21, b := 22 }))
    ∧ ∀ i ∈ [Instr.vaddi Pfx.zero .va { i0 with lat := 9, ef := 4, d := 8, a := 1, imm := 0x3FFFFF }, .vsrai Pfx.zero .va { i0 with lat := 9, ef := 4, d := 8, a := 1, imm := 7 }],
      issueIn i := by
  refine ⟨⟨issueIn_of (by decide +kernel), issueIn_of (by decide +kernel), issueIn_of (by decide +kernel), issueIn_of (by decide +kernel),
    issueIn_of (by decide +kernel)⟩, fun i hi => ?_⟩
  simp only [List.mem_cons, List.not_mem_nil, or_false] at hi
  obtain rfl | rfl := hi <;> exact issueIn_of (by decide +kernel)
/-- A reduction with ACC on an integer and on a float format; VDOT4 on both. -/
theorem witness_VectorReductions :
    (∀ e ∈ [4, 15], let f := { vabf e 1 with b := 0 }
      Claims.red? (.vredadd Pfx.zero .va f) = some (Pfx.zero, f) ∧ issueIn (.vredadd Pfx.zero .va f))
    ∧ issueIn (.vdot4 Pfx.zero .va (vabf 4 0)) ∧ isFltGrp 4 = false ∧ issueIn (.vdot4 Pfx.zero .va (vabf 13 0)) ∧ isFltGrp 13 = true := by
  refine ⟨fun e he => ?_, issueIn_of (by decide +kernel), by decide, issueIn_of (by decide +kernel), by decide⟩
  simp only [List.mem_cons, List.not_mem_nil, or_false] at he
  obtain rfl | rfl := he <;> exact ⟨rfl, issueIn_of (by decide +kernel)⟩
theorem witness_LaneMovement :
    issueIn (.vshuf Pfx.zero .va (vabf 4 0)) ∧ issueIn (.vslide Pfx.zero .va { vabf 4 0 with b := 22 }) ∧ issueIn (.vzip Pfx.zero .va (vabf 4 1)) :=
  ⟨issueIn_of (by decide +kernel), issueIn_of (by decide +kernel), issueIn_of (by decide +kernel)⟩
theorem witness_Conversions :
    issueIn (.vcvt Pfx.zero { vabf 15 16 with b := 0 }) ∧ issueIn (.vnarrow Pfx.zero { vabf 6 47 with a := 9, b := 0 })
    ∧ issueIn (.vwiden Pfx.zero { vabf 15 45 with b := 0 }) ∧ issueIn (.vqntScale Pfx.zero { vabf 27 143 with d := 20, a := 4, b := 0 })
    ∧ issueIn (.vqnt Pfx.zero { vabf 27 15 with a := 4, b := 22 }) ∧ issueIn (.vdqnt Pfx.zero { vabf 15 27 with b := 22 })
    ∧ issueIn (.vdsenc Pfx.zero { vabf 10 15 with b := 0 }) ∧ issueIn (.vdsmul Pfx.zero (vabf 15 160)) :=
  ⟨issueIn_of (by decide +kernel), issueIn_of (by decide +kernel), issueIn_of (by decide +kernel), issueIn_of (by decide +kernel),
    issueIn_of (by decide +kernel), issueIn_of (by decide +kernel), issueIn_of (by decide +kernel), issueIn_of (by decide +kernel)⟩
/-! ### Accesses, tokens, banks, objects -/

def inMem (s : Machine.State) (l : List (Nat × Nat × Nat)) : Machine.State := { s with mem := poke l s.mem }
def busyAll (s : Machine.State) : Machine.State :=
  { s with focus := { s.focus with busy := { m := true, l := true, t := true, c := true } } }

/-- Each unit of the core accepts at issue, and each is busy. -/
theorem witness_MemoryOperationsIssue_MatrixOperationsEnter_CopyOperationsIssue :
    unitRefuses st.atIssue st.fck 1 true = false ∧ unitRefuses (busyAll st).atIssue st.fck 1 true = true
    ∧ Claims.accepts st ∧ ¬ Claims.accepts (busyAll st) ∧ Claims.acceptsCopy st ∧ ¬ Claims.acceptsCopy (busyAll st) := by
  unfold Claims.accepts Claims.acceptsCopy
  refine ⟨by decide +kernel, by decide +kernel, ?_, ?_, ?_, ?_⟩ <;> decide +kernel

def acc (k : AccKind) (q : Piece) : Access :=
  { id := 77, bundle := 3, kind := k, pieces := [q], va := 0x200000, data := 0x1122334455667788, opnd := 0xFFFFFFFF, expect := 0x11
    dest := some (.s 20), scope := 0, acq := false, rel := false, isLocal := false, part := 0, res := false, tok := 0, lvl := 0
    sent := [], done := [], aborted := 0, seen := 0, bound := 9, acc := some 990 }
/-- An access of context 0 that waits, with the write of its result. -/
def waits (a : Access) : Machine.State :=
  inMem (inCtx fun c => { c with
    outst := [a]
    inflight := [{ id := 77, dest := .s 20, val := 0, lanes := laneS, groups := 3, ready := false, t := 990, acc := some 990
                   bound := 900, lvl := 0, hold := false, fl := 0 }] }) [(0x200000, 8, 0x8899AABBCCDDEEFF)]
/-- The last byte of a page of DRAM and the first of the scratchpad; an atomic; the queue's two ends, empty and full. -/
theorem witness_AccessesPerform :
    (∀ a ∈ [acc .store ⟨0x200FFF, 0, 1⟩, acc (.load true 8) ⟨0x200000, 0, 8⟩, acc (.amo 9 4) ⟨0x200004, 0, 4⟩, acc .store ⟨0x100000000000, 0, 8⟩],
      ∀ q ∈ a.pieces, (waits a).bad = [] ∧ (waits a).weak = [] ∧ (waits a).images = [] ∧ (waits a).memOk
        ∧ Claims.performs (waits a) 0 0 a q ∧ Claims.plainPlace (waits a) 0 q ∧ ((waits a).ctx 0).halted = false ∧ a.tok = 0)
    ∧ ∀ l ∈ [[], List.replicate 16 7], ∀ k ∈ [AccKind.qpop 2, .qpush 2],
        let s := (waits (acc k ⟨0, 0, 8⟩)).modCore 0 fun c => { c with queues := [(2, l)] }
        (s.ctx 0).outst.find? (fun x => x.id == 77) = some (acc k ⟨0, 0, 8⟩) ∧ mayPerform s 0 (acc k ⟨0, 0, 8⟩) = true := by
  refine ⟨?_, by decide +kernel⟩
  have h : [acc .store ⟨0x200FFF, 0, 1⟩, acc (.load true 8) ⟨0x200000, 0, 8⟩, acc (.amo 9 4) ⟨0x200004, 0, 4⟩, acc .store ⟨0x100000000000, 0, 8⟩].all
      (fun a => a.pieces.all fun q => decide ((waits a).bad = [] ∧ (waits a).weak = [] ∧ (waits a).images = [] ∧ (waits a).mem.wf = true)
        && decide (((waits a).ctx 0).outst.find? (fun x => x.id == a.id) = some a ∧ a.aborted = 0 ∧ mayPerform (waits a) 0 a = true
          ∧ a.sent.contains 0 = false ∧ a.done.contains 0 = false ∧ a.pieces[0]? = some q ∧ pieceWaits a 0 q = false
          ∧ ∀ x ∈ (waits a).ctxs, ∀ b ∈ x.2.unperformed, b.seen = 0)
        && (match placeOf (waits a) (ckPos 0) q.pa with
          | .dram p => p == ckPos 0
          | .window k off => corePos k == ckPos 0 && decide (areaOf off ≠ .ctl)
            && ((waits a).core (homeCore (realPa (waits a) (ckPos 0) q.pa))).objs.isEmpty
          | _ => false)
        && decide (((waits a).ctx 0).halted = false ∧ a.tok = 0)) = true := by decide +kernel
  intro a ha q hq
  have h1 := List.all_eq_true.mp (List.all_eq_true.mp h a ha) q hq
  simp only [Bool.and_eq_true, decide_eq_true_eq] at h1
  obtain ⟨⟨⟨h1, h2⟩, h3⟩, h4⟩ := h1
  refine ⟨h1.1, h1.2.1, h1.2.2.1, h1.2.2.2, h2, ?_, h4.1, h4.2⟩
  unfold Claims.plainPlace
  cases e : placeOf (waits a) (ckPos 0) q.pa <;> rw [e] at h3
  all_goals simp_all

theorem witness_DescriptorsAndShapes :
    Issues st Pfx.zero (opsOf (.mdsk Pfx.zero { lat := 0, ad := 0, md := 2, ko := 0, ki1 := 0, ki2 := 0, ki3 := 0, sp := 22, mf := 0 }))
      ∧ Calm st := ⟨issues_of (by decide +kernel), calm_of (by decide +kernel)⟩

def syn0 : Syn := { a := 0, b := 0, k1 := 0, k2 := 0, k3 := 0, sf := 0 }
/-- A post to the context's own token, with nothing earlier to perform, with an earlier load, and at FIRE 15; a post to another context. -/
theorem witness_TokenOperations :
    let f := { syn0 with k1 := 5 }
    let s := waits (acc .loadV ⟨0x200000, 0, 128⟩)
    let full := inCtx fun c => { c with toks := [(5, { fire := 15, pend := false })] }
    Issues st Pfx.zero (opsOf (.tkpost Pfx.zero f)) ∧ Claims.earlier st Pfx.zero = []
    ∧ Issues s Pfx.zero (opsOf (.tkpost Pfx.zero f)) ∧ Calm s ∧ Claims.earlier s Pfx.zero ≠ []
    ∧ Issues full Pfx.zero (opsOf (.tkpost Pfx.zero f)) ∧ Calm full
    ∧ Issues st Pfx.zero (opsOf (.tkpost Pfx.zero { f with a := 21, sf := 1 })) := by
  refine ⟨issues_of (by decide +kernel), by decide +kernel, issues_of (by decide +kernel), calm_of (by decide +kernel),
    by decide +kernel, issues_of (by decide +kernel), calm_of (by decide +kernel), issues_of (by decide +kernel)⟩

/-- CHKA beside a load of the address in S[A]; CHKA alone; a check that fails. -/
theorem witness_WaitsAndChecks :
    (∃ o, partsOf (.ld Pfx.zero { lat := 9, wd := 3, am := 0, aq := 0, d := 9, x := 0, base := 26, imm := 0 }) = some o ∧ o.slot = 4
      ∧ Issues st Pfx.zero [o, chkaParts Pfx.zero { syn0 with a := 26 }])
    ∧ Calm st ∧ Claims.Legal st Pfx.zero (.chka Pfx.zero { syn0 with a := 26 })
    ∧ Claims.Legal st Pfx.zero (.chkeq Pfx.zero { syn0 with a := 21, b := 22 }) ∧ st.sr 21 ≠ st.sr 22
    ∧ Claims.Legal (inMem st [(vregAddr 0 8, 8, 5)]) Pfx.zero (.chkv Pfx.zero { syn0 with a := 8, b := 9 })
    ∧ (inMem st [(vregAddr 0 8, 8, 5)]).vr 8 ≠ (inMem st [(vregAddr 0 8, 8, 5)]).vr 9 := by
  refine ⟨⟨_, rfl, rfl, issues_of (by decide +kernel)⟩, calm_of (by decide +kernel), legal_of (by decide +kernel),
    legal_of (by decide +kernel), by decide +kernel, legal_of (by decide +kernel), by decide +kernel⟩

/-- Three equal registers; the first differs; the second differs; all differ. -/
theorem witness_Votes :
    let f := { syn0 with a := 21, k1 := 1, k2 := 24, k3 := 6 }
    Claims.voters f = (21, 22, 24) ∧ Claims.synImm f % 2 = 0
    ∧ ∀ l ∈ [[(21, 7), (22, 7), (24, 7)], [(21, 1), (22, 7), (24, 7)], [(21, 7), (22, 1), (24, 7)]],
      Issues (st.modCtx 0 (regs l)) Pfx.zero (opsOf (.vote Pfx.zero f)) := by
  refine ⟨by decide +kernel, by decide +kernel, fun l hl => ?_⟩
  have h : [[(21, 7), (22, 7), (24, 7)], [(21, 1), (22, 7), (24, 7)], [(21, 7), (22, 1), (24, 7)]].all (fun l =>
      issuesB (st.modCtx 0 (regs l)) Pfx.zero (opsOf (.vote Pfx.zero { syn0 with a := 21, k1 := 1, k2 := 24, k3 := 6 }))) = true := by
    decide +kernel
  exact issues_of (List.all_eq_true.mp h l hl)
/-- A case that traps: all three differ. -/
theorem witness_Votes_trap :
    let f := { syn0 with a := 21, k1 := 1, k2 := 24, k3 := 6 }
    Claims.Legal st Pfx.zero (.vote Pfx.zero f) ∧ st.sr 22 ≠ st.sr 24 ∧ st.sr 21 ≠ st.sr 24 :=
  ⟨legal_of (by decide +kernel), by decide +kernel, by decide +kernel⟩

/-- Banks 0 and 1 are the context's; bank 3 is nobody's. -/
theorem witness_BankHandOver :
    Issues st Pfx.zero (opsOf (.brel Pfx.zero { syn0 with a := 22 })) ∧ Calm st
    ∧ Issues st Pfx.zero (opsOf (.brel Pfx.zero { syn0 with a := 24, sf := 1 }))
    ∧ (sget Bank.reset (st.atIssue.core 0).banks 0).owner = some 0 ∧ Claims.named st { syn0 with a := 22 } 1
    ∧ (sget Bank.reset (st.atIssue.core 0).banks 3).owner = none
    ∧ Issues st Pfx.zero (opsOf (.bacq Pfx.zero { syn0 with a := 21 })) := by
  refine ⟨issues_of (by decide +kernel), calm_of (by decide +kernel), issues_of (by decide +kernel), by decide +kernel, ?_,
    by decide +kernel, issues_of (by decide +kernel)⟩
  unfold Claims.named; decide +kernel

def barrier0 : Obj :=
  { kind := .barrier, addr := 0x100000000000, size := 32, holders := [], landing := [], broken := false, frozen := false, upd := none, parties := [] }
def ringObj : Obj := { barrier0 with kind := .ring, addr := 0x100000000040, size := 0x200 }
def withObjs (l : List (Nat × Nat × Nat)) : Machine.State := inMem (st.modCore 0 fun k => { k with objs := [barrier0, ringObj] }) l

/-- A wait that passes at home, a stage that can be acquired, and a wait whose answer has come from another core. -/
theorem witness_ObjectOperationsIssue :
    Issues st Pfx.zero (opsOf (.barw Pfx.zero { syn0 with a := 31 })) ∧ Calm st
    ∧ Issues st Pfx.zero (opsOf (.racq Pfx.zero { syn0 with a := 32, b := 28 }))
    ∧ Issues st Pfx.zero (opsOf (.phase Pfx.zero syn0)) ∧ Issues st Pfx.zero (opsOf (.bara Pfx.zero { syn0 with a := 31 })) :=
  ⟨issues_of (by decide +kernel), calm_of (by decide +kernel), issues_of (by decide +kernel), issues_of (by decide +kernel),
    issues_of (by decide +kernel)⟩

theorem object_of {s : Machine.State} {kind : ObjKind} {a : Nat} {o : Obj}
    (h : decide (objAt (s.core (homeCore a)) a = some o ∧ o.addr = a ∧ o.kind = kind ∧ (o.broken = false ∧ o.frozen = false)
      ∧ fieldsBad s kind a = false ∧ (s.bad = [] ∧ s.weak = [] ∧ s.mem.wf = true) ∧ o.upd = none) = true) : Claims.Object s kind a o := by
  obtain ⟨h1, h2, h3, h4, h5, h6, h7⟩ := of_decide_eq_true h
  exact { here := h1, at_ := h2, same := h3, fits := h4, good := h5, clean := h6, now := fun u hu => by rw [h7] at hu; cases hu }
/-- A barrier; a ring with two stages, whose producer holds stage 0 and whose consumer holds stage 1; the ring's last producer has ended. -/
theorem witness_ObjectsAtTheirHome :
    Claims.Object (withObjs []) .barrier 0x100000000000 barrier0
    ∧ (let s := withObjs [(0x100000000048, 8, 1 + 4 * 16)]
      Claims.Object s .ring 0x100000000040 ringObj ∧ ringNst s 0x100000000040 = 2 ∧ ringStage s 0x100000000040 0 = 1
      ∧ ringStage s 0x100000000040 1 = 4 ∧ ringNprod s 0x100000000040 = 1 ∧ (ringEnded s 0x100000000040).testBit 0 = false
      ∧ (s.chip (corePos (homeCore 0x100000000040))).tbMode ≠ 1) :=
  ⟨object_of (by decide +kernel), object_of (by decide +kernel), by decide +kernel, by decide +kernel, by decide +kernel,
    by decide +kernel, by decide +kernel, by decide +kernel⟩

theorem witness_ProgramEvents :
    let s := st.modChip 0 fun c => { c with tbCtl := 0xFF040000, tbBase := BitVec.ofNat 64 (0x300000 + 8 * 2 ^ 46) }
    Issues s Pfx.zero (opsOf (.tevt Pfx.zero { syn0 with a := 21, b := 22 })) ∧ Calm s ∧ (s.atIssue.chip 0).tbMode = 1
      ∧ (s.atIssue.chip 0).tbPart s.cur.part = true ∧ (s.atIssue.chip 0).tbPol = 0 :=
  ⟨issues_of (by decide +kernel), calm_of (by decide +kernel), by decide +kernel, by decide +kernel, by decide +kernel⟩

/-! ### Harts -/

/-- The core's loader, or its storer, at index 0x100 with two registers. -/
def hartAt (a b : Nat) (storer : Bool := false) : Machine.State :=
  let h : Hart := { Hart.reset with running := true, pc := 0x100, regs := [(10, BitVec.ofNat 32 a), (11, BitVec.ofNat 32 b)] }
  let s := (withObjs []).modCore 0 fun k =>
    { k with loader := if storer then k.loader else h, storer := if storer then h else k.storer, queues := [(1, [5]), (5, [6, 7])] }
  { s with focus := { s.focus with storer := storer } }

theorem witness_HartArithmeticAndControl :
    let r := RvInst.branch .bltu 10 11 0xFFC
    (hartAt 1 2).hart.live = true ∧ Claims.rvInst (.full r) = some (r, 4) ∧ Claims.rvBranches (hartAt 1 2).hart r
      ∧ Claims.rvValue (hartAt 1 2).hart 4 true r = some (0, 0, 0xF8) := by
  refine ⟨by decide +kernel, by decide +kernel, ?_, by decide +kernel⟩
  unfold Claims.rvBranches Claims.rvTaken; decide +kernel
/-- The last word of the data store and of the scratchpad, one beyond, and a misaligned one. -/
theorem witness_HartMemoryAndExceptions :
    (hartAt 0 0).hart.live = true ∧ (hartAt 0 0).bad = [] ∧ (hartAt 0 0).weak = [] ∧ Claims.noneSeen (hartAt 0 0)
    ∧ (Claims.hartPlace (hartAt 0 0) 0x11FFC 4).isSome = true ∧ (Claims.hartPlace (hartAt 0 0) 0x7FFFFC 4).isSome = true
    ∧ Claims.hartPlace (hartAt 0 0) 0x12000 4 = none ∧ Claims.rvInst (.compressed 0) = none
    ∧ Claims.rvInst (.full .ebreak) = some (.ebreak, 4) := by
  unfold Claims.noneSeen; decide +kernel
/-- jr.wait on stage 0 of a registered ring, and on an address that names none; jc.sub of a block in the data store. -/
theorem witness_HartCustomInstructions :
    let s := hartAt 0x400040 0
    let b := inMem (hartAt 0x10000 0) [(0x100000648000, 8, 0x200000), (0x100000648008, 8, 0x200800), (0x100000648010, 8, 0xF00), (0x100000648040, 4, 64),
      (0x100000648050, 4, 1), (0x100000648060, 4, 1), (0x100000648070, 4, 1), (0x100000648080, 4, 1), (0x100000648090, 4, 1)]
    s.hart.live = true ∧ s.bad = [] ∧ s.weak = [] ∧ objRefused s .ring 0x100000000040 = none ∧ ringNst s 0x100000000040 = 2
    ∧ ringStage s 0x100000000040 0 = 0 ∧ objRefused s .ring 0x100000000000 ≠ none
    ∧ b.hart.mig = none ∧ b.focus.busy.c = false ∧ blockBad b 0x100000648000 = false
    ∧ ∃ x y x2 y2, let o := blockCopy b 0x100000648000 2
      copyAddr b b.fk (o.acc b.fk pteER false false) b.focus.arg.flag b.focus.arg.n 1 o.src = (.ok x y, b)
      ∧ copyAddr b b.fk (o.acc b.fk pteEW true false) b.focus.arg.flag b.focus.arg.n 1 o.dst = (.ok x2 y2, b) := by
  refine ⟨by decide +kernel, by decide +kernel, by decide +kernel, by decide +kernel, by decide +kernel, by decide +kernel,
    by decide +kernel, by decide +kernel, by decide +kernel, by decide +kernel, 0x200000, .dram 0, 0x200800, .dram 0,
    by decide +kernel, by decide +kernel⟩
/-! ### The graph engine -/

def sources : List Nat := [3 * 2 ^ 30 + 7, 3 * 2 ^ 30 + 8] ++ List.replicate 14 0
/-- A node with two input slots in state `x`, `w0` and `w1` added to its first record words. -/
def nodeIn (x : Nat) (w0 w1 : Nat := 0) : Node :=
  { w := [BitVec.ofNat 64 (2 * 2 ^ 36 + w0), BitVec.ofNat 64 w1, 0, 0, 0, 0, 0, 0, 10, 11, 12, 13, 14, 15, 0x5000, 0]
    tt := [BitVec.ofNat 64 (0x1000000 + 64 * 2 ^ 46), BitVec.ofNat 64 (9 + 16 * 2 ^ 12 + 2 * 2 ^ 22 + 2 ^ 44), 0, 0, 0, 0, 0, 0]
    succ := [], counts := List.replicate 16 0, srcs := sources, st := x, rused := 0, stamp := 0, frame := 0, ctx := 0, lcore := 0
    fcause := 0, rvalid := false, rrow := 0, readyCt := 10, place := none, must := none, tiles := false, rec? := none, asked := none
    dlSeen := false, overWith := false }
def graphOf (nodes : List (Nat × Node)) (period : Nat := 0) : Graph :=
  { addr := 0x600000, part := 0, ncount := 16, nodesA := 0x601000, toksA := 0x602000, stretch := 2, period := period, fstart := 1
    gstate := 1, drops := 0, slips := 65535, frameno := 2 ^ 32 - 1, cancels := 0, misroute := 0, nodes := nodes, held := []
    waiting := false, told := false, streak := 0, lastEnd := 0, ending := false, mirror := [] }
/-- An event of chiplet 0 about node 4 of graph 3. -/
def about4 : EvArg := { EvArg.zero with gid := 3, idx := 4 }
def focusOn (a : EvArg) (s : Machine.State) : Machine.State :=
  { s with focus := { s.focus with pos := a.pos, core := a.core, ctx := a.ctx, arg := a } }
def withGraph (g : Graph) (e : Engine → Engine := id) : Machine.State :=
  focusOn about4 (st.modChip 0 fun c => { c with ct := 15000, eng := e { c.eng with graphs := [(3, g)] } })

theorem mem_of_sget? {α : Type} (m : SMap α) (k : Nat) (v : α) (h : sget? m k = some v) : (k, v) ∈ m := by
  induction m with
  | nil => cases h
  | cons x m ih =>
    obtain ⟨a, b⟩ := x
    rw [sget?] at h
    split at h
    · next e => cases h; exact e ▸ .head _
    · exact .tail _ (ih h)
/-- A node has finished only if it runs in a place. -/
theorem nodeDone_none {s : Machine.State} {pos : Nat} (i j : Nat)
    (h : ((s.eng pos).graphs.all fun x => x.2.nodes.all fun y =>
      match y.2.place with
      | some p => (x.1 == i && y.1 == j) || !(y.2.st == 3 && (placeCtxs s pos p).all (ctxFinished s))
      | none => true) = true) : ∀ a b, nodeDone s pos a b ≠ none → a = i ∧ b = j := by
  intro a b hd
  cases hg : s.graph? pos a with
  | none => rw [nodeDone, hg] at hd; exact absurd rfl hd
  | some g =>
    cases hn : s.node? pos a b with
    | none => rw [nodeDone, hg, hn] at hd; exact absurd rfl hd
    | some n =>
      rw [nodeDone, hg, hn] at hd
      have h1 := List.all_eq_true.mp h _ (mem_of_sget? _ _ _ hg)
      rw [State.node?, hg] at hn
      have h2 := List.all_eq_true.mp h1 _ (mem_of_sget? _ _ _ hn)
      cases hp : n.place with
      | none => simp [hp] at hd
      | some p =>
        simp only [hp] at h2 hd
        split at hd
        · next e =>
          simp only [e, Bool.not_true, Bool.or_false, Bool.and_eq_true, beq_iff_eq] at h2
          exact h2
        · exact absurd rfl hd
/-- No node of any graph has finished: none that has a place runs with its contexts finished. -/
theorem none_done {s : Machine.State} {pos : Nat}
    (h : ((s.eng pos).graphs.all fun x => x.2.nodes.all fun y =>
      match y.2.place with
      | some p => !(y.2.st == 3 && (placeCtxs s pos p).all (ctxFinished s))
      | none => true) = true) : ∀ a b, nodeDone s pos a b = none := by
  intro a b
  cases hd : nodeDone s pos a b with
  | none => rfl
  | some v =>
    have h1 : ∀ i j, ((s.eng pos).graphs.all fun x => x.2.nodes.all fun y =>
        match y.2.place with
        | some p => (x.1 == i && y.1 == j) || !(y.2.st == 3 && (placeCtxs s pos p).all (ctxFinished s))
        | none => true) = true := fun i j => List.all_eq_true.mpr fun x hx => List.all_eq_true.mpr fun y hy => by
      have h2 := List.all_eq_true.mp (List.all_eq_true.mp h x hx) y hy
      cases hp : y.2.place with
      | none => rfl
      | some p => simp only [hp] at h2 ⊢; rw [h2, Bool.or_true]
    have e1 := (nodeDone_none 0 0 (h1 0 0) a b (by rw [hd]; exact nofun)).1
    have e2 := (nodeDone_none 1 1 (h1 1 1) a b (by rw [hd]; exact nofun)).1
    omega
def engineB (s : Machine.State) (g : Graph) : Bool :=
  decide (s.graph? 0 3 = some g ∧ (1 ≤ g.gstate ∧ g.gstate ≤ 4) ∧ (s.eng 0).walk = none
    ∧ ((s.eng 0).dead = [] ∧ ∀ x ∈ (s.eng 0).graphs, x.2.ending = false) ∧ (s.chip 0).tbMode = 0 ∧ s.bad = [])
theorem engine_of {s : Machine.State} {g : Graph} (h : engineB s g = true) : Claims.Engine s 0 3 g := by
  obtain ⟨h1, h2, h3, h4, h5, h6⟩ := of_decide_eq_true h
  exact { held := h1, live := h2, noWalk := h3, stays := h4, quiet := h5, clean := h6 }
def settledB (s : Machine.State) : Bool :=
  decide (((s.eng 0).dead = [] ∧ ∀ x ∈ (s.eng 0).graphs, x.2.ending = false) ∧ (s.chip 0).tbMode = 0 ∧ s.bad = [] ∧ s.weak = [])
theorem settled_of {s : Machine.State} (h : settledB s = true) : Claims.Settled s 0 := by
  obtain ⟨h1, h2, h3⟩ := of_decide_eq_true h
  exact { stays := h1, quiet := h2, clean := h3 }

def tok (slot : Nat) : TokMsg := { gid := 3, idx := 4, slot := slot, src := 3 * 2 ^ 30 + 7 }
/-- Tokens that a node expects, that it does not expect, at count 15 and at 14, and one to an idle node; the last of the cycle. -/
theorem witness_TokensArrive :
    ∀ n ∈ [nodeIn 1, { nodeIn 1 with counts := 15 :: List.replicate 15 0 }, { nodeIn 1 with counts := 14 :: 1 :: List.replicate 14 0 }, nodeIn 0],
      let g := graphOf [(4, n)]
      let s := withGraph g fun e => { e with tokQ := [tok 0] }
      s.focus.arg.pos = 0 ∧ Claims.Engine s 0 3 g ∧ Claims.noEnds s 0 ∧ (s.eng 0).tokQ = [tok 0] ∧ Claims.noTicks s 0 := by
  intro n hn
  have h : [nodeIn 1, { nodeIn 1 with counts := 15 :: List.replicate 15 0 }, { nodeIn 1 with counts := 14 :: 1 :: List.replicate 14 0 }, nodeIn 0].all
      (fun n =>
        let g := graphOf [(4, n)]
        let s := withGraph g fun e => { e with tokQ := [tok 0] }
        decide (s.focus.arg.pos = 0 ∧ (s.eng 0).tokQ = [tok 0] ∧ ((s.chip 0).reports = [] ∧ (s.eng 0).walkQ = [])
            ∧ ∀ x ∈ (s.eng 0).graphs, x.2.tickDue (Claims.tick s 0) = none)
          && engineB s g && (s.eng 0).graphs.all fun x => x.2.nodes.all fun y => match y.2.place with
            | some p => !(y.2.st == 3 && (placeCtxs s 0 p).all (ctxFinished s))
            | none => true) = true := by decide +kernel
  have h1 := List.all_eq_true.mp h n hn
  simp only [Bool.and_eq_true, decide_eq_true_eq] at h1
  obtain ⟨⟨⟨h1, h2, h3, h4⟩, h5⟩, h6⟩ := h1
  exact ⟨h1, engine_of h5, ⟨none_done h6, h3⟩, h2, h4⟩

/-- A frame that starts exactly at its tick; a nominal end with a node that runs; a deadline that passes in its tick; a stretch beyond
STRETCH. The tick is 10. -/
def timed : Nat := 2 ^ 40
/-- DL with a deadline of 60 ticks. -/
def late : Nat := 2 ^ 41 + 60 * 2 ^ 20
theorem witness_FramesAndDeadlines :
    (let g := graphOf [(4, nodeIn 4 0 timed)] 9
     Claims.Engine (withGraph g) 0 3 g ∧ Claims.ticksAlone (withGraph g) 0 3 g ∧ g.blocked = false
        ∧ Nat.max (g.fstart + g.period) (g.lastEnd + 1) = Claims.tick (withGraph g) 0)
    ∧ (let g := graphOf [(4, nodeIn 3 0 late)] 9
     Claims.Engine (withGraph g) 0 3 g ∧ Claims.ticksAlone (withGraph g) 0 3 g ∧ g.blocked = true ∧ g.waiting = false)
    ∧ (let n := nodeIn 3 0 (2 ^ 41 + 9 * 2 ^ 20)
     let g := graphOf [(4, n)] 90
     Claims.Engine (withGraph g) 0 3 g ∧ Claims.ticksAlone (withGraph g) 0 3 g ∧ n.dl = true ∧ g.fstart + n.deadline = Claims.tick (withGraph g) 0
        ∧ g.frameDue 10 = false ∧ g.nominalDue 10 = false)
    ∧ (let g := { graphOf [(4, nodeIn 3 0 late)] 6 with waiting := true }
     Claims.Engine (withGraph g) 0 3 g ∧ Claims.ticksAlone (withGraph g) 0 3 g ∧ g.fstart + g.period + g.stretch < 10 ∧ g.frameDue 10 = false) := by
  refine ⟨⟨engine_of (by decide +kernel), ⟨⟨none_done (by decide +kernel), by decide +kernel⟩, by decide +kernel, by decide +kernel⟩, ?_⟩,
    ⟨engine_of (by decide +kernel), ⟨⟨none_done (by decide +kernel), by decide +kernel⟩, by decide +kernel, by decide +kernel⟩, ?_⟩,
    ⟨engine_of (by decide +kernel), ⟨⟨none_done (by decide +kernel), by decide +kernel⟩, by decide +kernel, by decide +kernel⟩, ?_⟩,
    ⟨engine_of (by decide +kernel), ⟨⟨none_done (by decide +kernel), by decide +kernel⟩, by decide +kernel, by decide +kernel⟩, ?_⟩⟩
    <;> decide +kernel

def place0 : Placed := { lc := 0, ctx := 0, vb := 0, vn := 64, bb := 0, tb := 0, n := 1, granted := true, ct := 5 }
def running : Node := { nodeIn 3 with place := some place0, succ := [3 * 65536 + 7] }
def report4 : Report := { gid := 3, idx := 4, cause := 0x107, rrow := 0x1234567890, rvalid := true }
theorem witness_NodesAndWalksEnd :
    let g := graphOf [(4, running), (7, nodeIn 1)]
    let s := (withGraph g).modCtx 0 fun c => { c with halted := true, gid := 3, idx := 4 }
    let r := (withGraph g).modChip 0 fun c => { c with reports := [report4] }
    (s.focus.arg.pos = 0 ∧ Claims.Engine s 0 3 g ∧ s.node? 0 3 4 = some running ∧ (∀ ck ∈ placeCtxs s 0 place0, ctxFinished s ck = true)
      ∧ Claims.onlyDone s 0 3 4)
    ∧ (Claims.Engine r 0 3 g ∧ (r.chip 0).reports = [report4] ∧ (r.eng 0).walkQ = [] ∧ ∀ i j, nodeDone r 0 i j = none) := by
  refine ⟨⟨by decide +kernel, engine_of (by decide +kernel), by decide +kernel, by decide +kernel, nodeDone_none 3 4 (by decide +kernel)⟩,
    engine_of (by decide +kernel), by decide +kernel, by decide +kernel, none_done (by decide +kernel)⟩
theorem witness_NodesAndWalksEnd_walk :
    let g := graphOf [(4, nodeIn 7), (7, nodeIn 6)]
    let w : WalkSt := { gid := 3, root := some 4, origin := 4, retry := true, cone := [4, 7], sender := none, fcause := none }
    let c := withGraph g fun e => { e with walkQ := [.cancel 3 4 77 true] }
    let s := withGraph g fun e => { e with walk := some w }
    (Claims.Engine c 0 3 g ∧ (c.eng 0).walkQ = [.cancel 3 4 77 true] ∧ c.node? 0 3 4 = some (nodeIn 7) ∧ ∀ i j, nodeDone c 0 i j = none)
    ∧ ((s.eng 0).walk = some w ∧ s.graph? 0 3 = some g ∧ (s.eng 0).walkQ = [] ∧ (∀ i j, nodeDone s 0 i j = none)
      ∧ s.node? 0 3 7 = some (nodeIn 6)) := by
  refine ⟨⟨engine_of (by decide +kernel), by decide +kernel, by decide +kernel, none_done (by decide +kernel)⟩, by decide +kernel,
    by decide +kernel, by decide +kernel, none_done (by decide +kernel), by decide +kernel⟩

/-- A mirror on the way to another chiplet, in each of its three steps; posts of a port, of COUNT 15, and of another partition's port. -/
def mirror0 (sent hdr : Bool) : MirrorJob :=
  { ct := 77, fstart := 1, frameno := 2, bytes := [1, 2, 3, 4, 5, 6, 7, 8], buddy := 1, addr := 0x800700000, late := false, pend := 0
    sent := sent, hdr := hdr, failed := false }
theorem witness_MirrorsAndHostPorts :
    (∀ x ∈ [(false, false), (true, false), (true, true)],
      let j := mirror0 x.1 x.2
      let g := { graphOf [(4, nodeIn 1)] with mirror := [j] }
      let s := (withGraph g).modChip 0 fun c => { c with links := [(1, { Link.reset with st := 2 })] }
      s.graph? 0 3 = some g ∧ g.mirror = [j] ∧ s.bad = [] ∧ s.weak = [] ∧ s.mem.wf = true ∧ (s.link 0 j.buddy).st = 2)
    ∧ (let s := focusOn { about4 with m := 0, n := 7, value := 15 } (withGraph (graphOf [(4, nodeIn 1)]) fun e => { e with portOwn := [(7, 0)] })
      s.focus.arg.pos = 0 ∧ (s.chip 0).tbMode = 0 ∧ (s.chip 0).br.held = false ∧ (s.chip 0).ctlQ = [] ∧ (s.chip 0).pcie = true
        ∧ (∀ q, q < 4 → q ≠ 0 → (s.eng q).graphs = []) ∧ s.focus.arg.flag = false ∧ sget? (s.eng 0).portOwn 7 = some 0
        ∧ sget? (s.eng 0).portOwn 8 ≠ some 0) := by decide +kernel
/-- A post in a log that is replayed, whose time has come. -/
theorem witness_MirrorsAndHostPorts_replay :
    let s := inMem ((withGraph (graphOf [(4, nodeIn 1)]) fun e => { e with portOwn := [(7, 2)], repCt := 5000, repFirst := 9000 }).modChip 0 fun c =>
      { c with tbCtl := 0xFF080000, tbBase := BitVec.ofNat 64 (0x300000 + 8 * 2 ^ 46), tbWr := 1 })
      [(0x300000, 8, 9000), (0x300008, 8, 6 * 2 ^ 24), (0x300010, 8, 256 * 2 + 7), (0x300018, 8, 5)]
    nextRec s 0 (fun w1 a _ => recKind w1 == 6 && replayed s 0 w1 a) = some (0, 6 * 2 ^ 24, 256 * 2 + 7, 5) ∧ (s.chip 0).tbMode = 2
      ∧ (s.chip 0).tbOver = false ∧ s.readNat ((s.chip 0).recAddr 0) 8 + (s.eng 0).repCt ≤ (s.chip 0).ct + (s.eng 0).repFirst := by
  decide +kernel

/-! ### Placing, saving, translation -/

theorem witness_PlacementAndGrants :
    (let n := nodeIn 2
      let g := graphOf [(4, n)]
      let s := withGraph g fun e => { e with lastPlace := some 14992 }
      Claims.Settled s 0 ∧ s.memOk ∧ Claims.at s 0 3 4 g n ∧ allNodes s 0 = [(3, 4, g, n)] ∧ waiting g n = true ∧ noReports s 0 = true
        ∧ (fit s 0 3 4 g n []).isSome = true ∧ sget? (s.eng 0).reserve g.part = none)
    ∧ (let n := { nodeIn 2 with place := some { place0 with granted := false } }
      let g := graphOf [(4, n)]
      let s := withGraph g
      Claims.Settled s 0 ∧ Claims.at s 0 3 4 g n ∧ requests s 0 = [(3, 4, g, n)] ∧ noReports s 0 = true
        ∧ heldAmps s 0 (fun _ => true) + classAmps n.cls * n.cores ≤ (s.eng 0).quota) := by
  refine ⟨⟨settled_of (by decide +kernel), ?_⟩, settled_of (by decide +kernel), ?_⟩ <;> unfold Claims.at
  · unfold State.memOk; decide +kernel
  · decide +kernel
/-- A request of 2,000 counts with one victim; a quota at both limits; a block that a fetch lacks; a granted node. -/
theorem witness_PlacementAndGrants_shortfall :
    let n := { nodeIn 2 (5 * 2 ^ 22) with
               place := some { place0 with granted := false, ct := 13000 }
               tt := [0x1000000, BitVec.ofNat 64 (9 + 16 * 2 ^ 12 + 3 * 2 ^ 44), 0, 0, 0, 0, 0, 0] }
    let v := { nodeIn 3 (4 * 2 ^ 22) with
               place := some { place0 with lc := 1, vn := 16 }
               tt := [0x1000000, BitVec.ofNat 64 (9 + 16 * 2 ^ 12 + 4 * 2 ^ 44), 0, 0, 0, 0, 0, 0] }
    let g := graphOf [(4, n), (5, v)]
    let s := withGraph g fun e => { e with quota := 5, savepool := BitVec.ofNat 64 (0x600000 + 4 * 2 ^ 46) }
    requests s 0 = [(3, 4, g, n)] ∧ (∀ p, n.place = some p → p.ct + 2000 ≤ s.ctOf 0) ∧ Claims.victims s 0 n = [(3, 5, g, v)]
      ∧ (poolOf s 0).2 ≠ 0 ∧ ((s.eng 0).quota - heldAmps s 0 fun _ => true) < classAmps n.cls * n.cores := by
  unfold Claims.victims; decide +kernel
theorem witness_PlacementAndGrants_start :
    let n := { nodeIn 2 with place := some place0 }
    let g := graphOf [(4, n)]
    let s := (withGraph g).modCtx 0 fun c => { c with st := .idle }
    let q := focusOn { EvArg.zero with n := 280 } st
    let f := focusOn EvArg.zero (st.modCtx 0 fun c => { c with res := false })
    (Claims.Settled s 0 ∧ Claims.at s 0 3 4 g n ∧ (∀ ck ∈ placeCtxs s 0 place0, (s.ctx ck).st = .idle) ∧ (s.chip 0).reports = []
      ∧ (s.eng 0).walkQ = [])
    ∧ ((q.chip 0).br.closed = false ∧ 3 * 240 + 280 > 0 ∧ (q.eng 0).quota ≤ 280)
    ∧ ((f.ctx 0).live = true ∧ f.memOk ∧ blockSlot (f.core 0) 0x1000000 = none
      ∧ 0x1000000 = ((curImage f 0).1 + 64 * (f.ctx 0).pc) / 4096 * 4096 ∧ f.bad = [] ∧ f.weak = []) := by
  refine ⟨⟨settled_of (by decide +kernel), ?_⟩, by decide +kernel, ?_⟩
  · unfold Claims.at; decide +kernel
  · unfold State.memOk; decide +kernel

def recOf (cs : List Ctx) : SaveRec :=
  { addr := 0x700000, len := 0x60000, ctxs := cs, objs := cs.map fun _ => [], fheld := cs.map fun _ => false, held := cs.map fun _ => [] }
theorem witness_SavingSparesAndResets :
    (let n := { nodeIn 3 with place := some place0, rec? := some (recOf []), asked := some 900 }
      let g := graphOf [(4, n)]
      let s := (withGraph g).modCtx 0 fun c => { c with st := .draining, toks := [] }
      Claims.Settled s 0 ∧ Claims.at s 0 3 4 g n ∧ (s.eng 0).walk = none
        ∧ ∀ ck ∈ placeCtxs s 0 place0, (s.ctx ck).st = .draining ∧ drained s ck = true)
    ∧ (let n := { nodeIn 2 with place := some place0, rec? := some (recOf [ctx0]) }
      let g := graphOf [(4, n)]
      let s := (withGraph g).modCtx 0 fun c => { c with st := .idle }
      Claims.Settled s 0 ∧ Claims.at s 0 3 4 g n ∧ (placeCtxs s 0 place0).Nodup
        ∧ (∀ ck ∈ placeCtxs s 0 place0, (s.ctx ck).st = .idle) ∧ (recOf [ctx0]).ctxs.length = place0.n) := by
  refine ⟨⟨settled_of (by decide +kernel), ?_⟩, settled_of (by decide +kernel), ?_⟩ <;> unfold Claims.at <;> decide +kernel
/-- A core in each state of a substitution, with spares and without; a core with a TRIP bit; a reset of partition 0. -/
def substAt (n : Nat) (valid : Bool) (retired : Nat) : Machine.State :=
  focusOn { EvArg.zero with idx := 0 } ((st.modChip 0 fun c =>
    { c with lcmap := sput c.lcmap 0 { LcEnt.reset 0 with owned := true, cstate := n, valid := valid }, br := { c.br with retired := retired } }).modCore 0
      fun k => { k with trip := 3 })
theorem witness_SavingSparesAndResets_spares :
    (∀ x ∈ [(0, true), (1, true), (2, true), (2, false)], Claims.Settled (substAt x.1 x.2 0) 0 ∧ ((substAt x.1 x.2 0).chip 0).lc 0
      = { LcEnt.reset 0 with owned := true, cstate := x.1, valid := x.2 } ∧ nodesOn (substAt x.1 x.2 0) 0 0 = [])
    ∧ Claims.spare (substAt 2 true 0) 0 32 ∧ (∀ k, k < 34 → ¬ Claims.spare (substAt 2 true (3 * 2 ^ 32)) 0 k)
    ∧ ((substAt 0 true 0).core (coreKey 0 0)).trip ≠ 0 ∧ ∀ q, risingFrom none ((substAt 0 true 0).eng q).graphs = true := by
  refine ⟨fun x hx => ?_, ?_, ?_, by decide +kernel, fun q => ?_⟩
  · have h : [(0, true), (1, true), (2, true), (2, false)].all (fun x => settledB (substAt x.1 x.2 0) && decide
        (((substAt x.1 x.2 0).chip 0).lc 0 = { LcEnt.reset 0 with owned := true, cstate := x.1, valid := x.2 }
          ∧ nodesOn (substAt x.1 x.2 0) 0 0 = [])) = true := by decide +kernel
    have h1 := List.all_eq_true.mp h x hx
    rw [Bool.and_eq_true, decide_eq_true_eq] at h1
    exact ⟨settled_of h1.1, h1.2⟩
  · unfold Claims.spare; decide +kernel
  · unfold Claims.spare; decide +kernel
  · by_cases h : q = 0
    · subst h; decide +kernel
    · have e : (substAt 0 true 0).chip q = Chip.reset := by
        have h1 : (substAt 0 true 0).chip q = sget Chip.reset st.chips q := sget_sput_ne _ _ _ _ _ h
        rw [h1]
        have h2 : sget? [(0, chip0)] q = none := by rw [sget?, if_neg (Ne.symm h)]; rfl
        show (sget? [(0, chip0)] q).getD Chip.reset = Chip.reset
        rw [h2]; rfl
      rw [State.eng, e]; decide +kernel

/-! ### Translation, deliveries, boundaries -/

/-- The page tables of partition 0, with these entries of the path to `va4`. -/
def tables (e0 e1 e2 e3 : Nat) : Machine.State :=
  (inMem st [(0x300028, 8, e0), (0x310038, 8, e1), (0x320048, 8, e2), (0x330090, 8, e3)]).modChip 0 fun c =>
    { c with parts := [(0, { dram with ptroot := 0x300000 })] }
def va4 : Nat := 5 * 2 ^ 38 + 7 * 2 ^ 29 + 9 * 2 ^ 21 + 18 * 2 ^ 12 + 0x345
/-- A leaf at the last level, inside a region and outside all; a migrating entry; a table in a hole; a leaf of 2 MiB; a group. -/
theorem witness_Translation :
    (∀ e ∈ [0x234003, 0xA00003, 0x800, 0x230007], (tables 0x310001 0x320001 0x330001 e).bad = []
      ∧ (∀ j, j < 3 → Claims.pointer (Claims.entry (tables 0x310001 0x320001 0x330001 e) 0 0x300000 va4 j)
        ∧ Claims.tableRead (tables 0x310001 0x320001 0x330001 e) 0 0x300000 va4 j)
      ∧ Claims.tableRead (tables 0x310001 0x320001 0x330001 e) 0 0x300000 va4 3)
    ∧ (let e := Claims.entry (tables 0x310001 0x320001 0x330001 0x234003) 0 0x300000 va4 3
      Claims.v e = true ∧ Claims.lf e = true ∧ Claims.cg e = false ∧ Claims.leafOk e 3)
    ∧ ¬ Claims.tableRead (tables 0x100000518001 0 0 0) 0 0x300000 va4 1
    ∧ (let e := Claims.entry (tables 0x310001 0x320001 0x400003 0) 0 0x300000 va4 2
      Claims.leafOk e 2 ∧ ∃ x ∈ dram.regions, x.1 ≤ Claims.pteAddr e ∧ Claims.pteAddr e + Claims.page 2 ≤ x.1 + x.2)
    ∧ (let e := Claims.entry (tables 0x310001 0x320001 0x330001 0x230007) 0 0x300000 va4 3
      Claims.cg e = true ∧ walk (tables 0x310001 0x320001 0x330001 0x230007) 0 0 va4 2 = .leaf (va4 / 0x10000 * 0x10000) 0x10000 e) := by
  unfold Claims.pointer Claims.tableRead Claims.leafOk
  refine ⟨?_, by decide +kernel, by decide +kernel, ⟨by decide +kernel, (0x200000, 0x800000), by decide +kernel⟩, by decide +kernel⟩
  have h : [0x234003, 0xA00003, 0x800, 0x230007].all (fun e => decide ((tables 0x310001 0x320001 0x330001 e).bad = [])
      && (List.range 3).all (fun j =>
        let x := Claims.entry (tables 0x310001 0x320001 0x330001 e) 0 0x300000 va4 j
        decide (Claims.v x = true ∧ Claims.lf x = false ∧ x.toNat / 4 % 2 ^ 10 = 0 ∧ x.toNat / 2 ^ 46 = 0)
          && decide (tableAt (tables 0x310001 0x320001 0x330001 e) 0 (Claims.table (tables 0x310001 0x320001 0x330001 e) 0 0x300000 va4 j) ≠ none))
      && decide (tableAt (tables 0x310001 0x320001 0x330001 e) 0 (Claims.table (tables 0x310001 0x320001 0x330001 e) 0 0x300000 va4 3) ≠ none))
      = true := by decide +kernel
  intro e he
  have h1 := List.all_eq_true.mp h e he
  simp only [Bool.and_eq_true, decide_eq_true_eq, List.all_eq_true] at h1
  exact ⟨h1.1.1, fun j hj => h1.1.2 j (List.mem_range.mpr hj), h1.2⟩
/-- A walk that waits on a migrating page: its rewalk is due, and its time is over; an invalidation in the list that no unit still uses. -/
theorem witness_Translation_events :
    (let s := (focusOn EvArg.zero (tables 0x310001 0x320001 0x330001 0x800)).modCtx 0 fun c =>
        { c with walkVa := some (BitVec.ofNat 64 va4, true), walkMig := some (100, 3500) }
     unitOk 0 0 0 = true ∧ (s.ctx 0).walkVa = some (BitVec.ofNat 64 va4, true) ∧ (s.ctx 0).walkMig = some (100, 3500)
     ∧ 3500 + 1500 ≤ s.ctOf 0 ∧ s.ctOf 0 < 100 + 1500000)
    ∧ (let t : TlbInv := { ck := 0, bundle := 3, tok := 5, scope := 0, part := 0, va := 0x234567, users := some [] }
      let s := focusOn EvArg.zero (st.modChip 0 fun c => { c with tlbinvs := [t] })
      (s.chip 0).tlbinvs[0]? = some t ∧ (s.ctx 0).st ≠ .idle ∧ ((s.ctx 0).tok 5).fire < 15
      ∧ Claims.covered t (page 0x200000 0x200000 0x200000 0xFB)) := by
  unfold Claims.covered; decide +kernel

def landing (g : Nat) : Write :=
  { id := 77, dest := .s 20, val := 0x8877665544332211, lanes := laneS, groups := BitVec.ofNat 32 g, ready := true, t := 990, acc := some 990
    bound := 900, lvl := 0, hold := false, fl := 5 }
/-- Both groups of a landing, with an older write to the same register; an access that each queue holds; an abort. -/
theorem witness_Deliveries :
    (let s := focusOn { EvArg.zero with n := 77, m := 1 } (inCtx fun c => { c with inflight := [{ landing 3 with id := 70 }, landing 3] })
     s.bad = [] ∧ s.weak = [] ∧ s.memOk ∧ landing 3 ∈ (s.ctx 0).inflight ∧ (∀ x ∈ (s.ctx 0).inflight, x.id = 77 → x = landing 3)
     ∧ (landing 3).from + 1 ≤ s.now 0)
    ∧ (∀ m ∈ [1, 2], let a := { acc .store ⟨0x200000, 0, 8⟩ with acc := none }
      let s := focusOn { EvArg.zero with m := m } (inCtx fun c => { c with lq := [a], tq := [a] })
      (s.ctx 0).lq = [a] ∧ (s.ctx 0).tq = [a] ∧ a.isLocal = false
      ∧ (∀ y, y < 4 → y ≠ 0 → (s.ctx (0 * 4 + y)).head? m = none))
    ∧ (let a := { acc .store ⟨0x200000, 0, 8⟩ with aborted := 0x0F, tok := 5 }
      let s := focusOn { EvArg.zero with n := 77 } (inCtx fun c => { c with outst := [a] })
      a ∈ (s.ctx 0).outst ∧ (∀ x ∈ (s.ctx 0).outst, x.id = 77 → x = a) ∧ (s.ctx 0).halted = false ∧ (s.ctx 0).st ≠ .idle) := by
  unfold Machine.State.memOk; decide +kernel
/-- A post at home, at FIRE 14 and 15, and one that leaves over an open link; an arrival at a barrier of the context's chiplet. -/
theorem witness_Deliveries_messages :
    (∀ p ∈ [({ src := 1, ck := 0, tok := 5, after := [], scope := 0, bundle := 3 } : Post), { src := 1, ck := ctxKey 1 0 0, tok := 5, after := [], scope := 0, bundle := 3 }],
      ∀ n ∈ [14, 15],
        let s := focusOn EvArg.zero { ((st.modChip 0 fun c => { c with links := [(1, { Link.reset with st := 2 })] }).modCtx 0 fun c =>
          { c with toks := [(5, { fire := n, pend := true })] }) with posts := [p] }
        s.posts[0]? = some p ∧ (s.ctx p.src).allDone p.after = true ∧ ((s.ctx 0).tok 5).fire = n ∧ Claims.open s 0 1 4)
    ∧ (let m : ObjMsg := 
      { id := 77, ck := 0, kind := .barrier, op := 0, addr := 0x100000000000, va := 0x400000, arg := 0, cnt := 1, prod := false, direct := false
        after := [], node := 0, scope := 0, bundle := 3 }
      let s := focusOn EvArg.zero { withObjs [] with objMsgs := [m] }
      s.objMsgs[0]? = some m ∧ (s.ctx m.ck).allDone m.after = true ∧ corePos (homeCore m.addr) = ckPos m.ck
      ∧ objWaits s m.addr = false ∧ (∀ x ∈ (s.core (homeCore m.addr)).waitObjs, x.addr ≠ m.addr)
      ∧ (performObj { s with objMsgs := [] } m).2 = none) := by
  unfold Claims.open; decide +kernel

def fault23 : AsyncFault :=
  { cause := 23, own := 3, tok := 5, slots := 8, value := 0x1234, rp := some 0x99, bundle := none, cy := 3, id := 5 }
def atBoundary (f : Ctx → Ctx) : Machine.State :=
  focusOn EvArg.zero ((withHandler st).modCtx 0 fun c => f { c with fetched := some (List.replicate 8 0) })
/-- An asynchronous fault before TRET; one at a boundary; a user interrupt of channel 2; a step trap. -/
theorem witness_BoundaryEvents :
    (let s := (withHandler st).modCtx 0 fun c => { c with async := [fault23], tl := 1 }
     partsOf (.tret Pfx.zero dab) = some (tretParts dab) ∧ bundleHeld (s.env Pfx.zero [tretParts dab]) [tretParts dab] = none ∧ s.cur.async = [fault23] ∧ Claims.handler s)
    ∧ (let s := atBoundary fun c => { c with async := [fault23] }
      Claims.Boundary s ∧ heldNext s.atIssue s.fck = false ∧ Claims.handler s)
    ∧ (let s := atBoundary fun c => { c with ui := { UserInt.reset with en := true, pend := 0x14, vec := 0x55 } }
      Claims.Boundary s ∧ heldNext s.atIssue s.fck = false ∧ trapsNext s.atIssue s.fck = false ∧ preemptPoint s.atIssue s.fck = false
      ∧ (2 : Nat) < 8 ∧ (passOn s.atIssue 0 0 |>.ctx 0).ui.pend.testBit 2 = true)
    ∧ (let s := atBoundary fun c => { c with stepDue := some (3, 4, 4) }
      Claims.Boundary s ∧ Claims.handler s) := by
  refine ⟨?_, ⟨⟨by decide +kernel, by decide +kernel, by decide +kernel, by decide +kernel, by decide +kernel⟩, by decide +kernel, ?_⟩,
    ⟨⟨by decide +kernel, by decide +kernel, by decide +kernel, by decide +kernel, by decide +kernel⟩, by decide +kernel⟩,
    ⟨by decide +kernel, by decide +kernel, by decide +kernel, by decide +kernel, by decide +kernel⟩, ?_⟩
    <;> (unfold Claims.handler)
  · exact ⟨rfl, by decide +kernel⟩
  all_goals decide +kernel

/-! ### The copy engine and the matrix engine -/

def copyOf (kind : CopyKind) (src dst n : Nat) : CopyOp :=
  { id := 77, bundle := 3, ctx := 0, hart := none, kind := kind, ch := 2, src := BitVec.ofNat 64 src, dst := BitVec.ofNat 64 dst
    shape := { Shape.reset with count := [n, 1, 1, 1, 1, 1], fmt := 0xF00 }, shapes := [], rows := [], ko := 6, kis := [4]
    mc := false, rg := false, un := true, wl := false, aop := 0, w32 := false, scope := 0, part := 0, res := true, dom := none, lvl := 0
    post := none, rrel := none, started := false, chunks := [], foreign := [], wrote := [], rec? := none, nextRec := 0x201100
    ended := false, aborted := false, stop? := none, migs := [], home := none, targets := [], credits := [], holds := [], opnd := 0, expect := 0, old := 0, fl := 0, sched := none }
def copying (o : CopyOp) : Machine.State :=
  focusOn EvArg.zero (inMem (st.modCore 0 fun k => { k with copies := [o] }) [(0x201100, 8, 2 ^ 63 + 0x201000), (0x201108, 8, 3 * 2 ^ 48 + 0x202000)])
def oneCopyB (o : CopyOp) : Bool :=
  let s := copying o
  decide (((s.core 0).copies = [o] ∧ s.focus.arg.n = 0) ∧ o.hart = none
    ∧ (o.foreign = [] ∧ o.holds = [] ∧ o.credits = [] ∧ o.stop? = none ∧ o.migs = [] ∧ o.aborted = false ∧ o.ended = false)
    ∧ (s.core 0).past = [] ∧ (s.bad = [] ∧ s.weak = [] ∧ s.images = [] ∧ s.mem.wf = true) ∧ ∀ x ∈ s.ctxs, ∀ b ∈ x.2.unperformed, b.seen = 0)
theorem oneCopy_of {o : CopyOp} (h : oneCopyB o = true) : Claims.OneCopy (copying o) 0 o := by
  obtain ⟨h1, h2, h3, h4, h5, h6⟩ := of_decide_eq_true h
  exact { core := ⟨rfl, by decide⟩, one := h1, ctx := h2, calm := h3, past := ⟨h4, h6⟩, clean := h5 }
/-- A copy that starts; an atomic; chunks of a whole copy and of one that a page divides; a chain at its record; a copy that is done. -/
theorem witness_CopyEngineSteps :
    (∀ o ∈ [copyOf .cpy 0x201000 0x202000 64, copyOf .xamo 0x201000 0x202000 64], Claims.OneCopy (copying o) 0 o ∧ o.started = false
      ∧ ((copying o).core 0).engine = [] ∧ Claims.fired (copying o) 0 o.kis)
    ∧ (let o := copyOf .xamo 0x201000 0x202000 64
      Claims.reaches (copying o) 0 o (pteER + pteEW) true false 16 o.src 0x201000 ∧ Claims.reaches (copying o) 0 o (pteER + pteEW) true true 8 o.dst 0x202000)
    ∧ (∀ n ∈ [64, 5000], let o := { copyOf .cpy 0x201000 0x203000 n with started := true }
      Claims.OneCopy (copying o) 0 o ∧ o.shape.runs = 1 ∧ Claims.reaches (copying o) 0 o pteER false false (Nat.min n 4096) o.src 0x201000
      ∧ Claims.reaches (copying o) 0 o pteEW true false (Nat.min n 4096) o.dst 0x203000)
    ∧ (let o := { copyOf .chain 0x201000 0x202000 64 with started := true }
      Claims.OneCopy (copying o) 0 o ∧ o.nextRec % 32 = 0
      ∧ Claims.reaches (copying o) 0 o (pteER + pteEW) false false 32 (BitVec.ofNat 64 o.nextRec) 0x201100)
    ∧ (let o := { copyOf .cpy 0x201000 0x202000 64 with
        started := true, chunks := [{ run := 0, off := 0, len := 64, tgt := 0, spa := 0x201000, dpa := 0x202000, stage := 2 }] }
      Claims.OneCopy (copying o) 0 o ∧ o.allMoved = true ∧ (((copying o).ctx 0).tok o.ko).fire < 15) := by
  unfold Claims.fired Claims.reaches
  have h : [copyOf .cpy 0x201000 0x202000 64, copyOf .xamo 0x201000 0x202000 64].all (fun o => oneCopyB o && decide (o.started = false
      ∧ ((copying o).core 0).engine = [] ∧ ∀ t ∈ o.kis, t = 0 ∨ 1 ≤ (((copying o).ctx 0).tok t).fire)) = true := by decide +kernel
  refine ⟨fun o ho => ?_, by decide +kernel, fun n hn => ?_, ⟨oneCopy_of (by decide +kernel), by decide +kernel⟩,
    oneCopy_of (by decide +kernel), by decide +kernel⟩
  · have h1 := List.all_eq_true.mp h o ho
    rw [Bool.and_eq_true, decide_eq_true_eq] at h1
    exact ⟨oneCopy_of h1.1, h1.2⟩
  · simp only [List.mem_cons, List.not_mem_nil, or_false] at hn
    obtain rfl | rfl := hn <;> exact ⟨oneCopy_of (by decide +kernel), by decide +kernel⟩
/-- A credit that is due, for bytes of a bank in the barrier's mask; one that is not. -/
theorem witness_CopyEngineSteps_credit :
    ∀ t ∈ [5000, 5001], let s := focusOn EvArg.zero ((withObjs [(0x100000000008, 8, 0xFF)]).modCore 0 fun k =>
        { k with credQ := [(t, 9, [(0x100000020000, 64)])], objs := [barrier0] })
      (s.core 0).credQ = [(t, 9, [(0x100000020000, 64)])] ∧ (t ≤ s.ctOf 0 ∨ s.ctOf 0 < t) ∧ homeCore 0x100000020000 = 0
      ∧ Claims.Object s .barrier 0x100000000000 barrier0 ∧ (barMask s 0x100000000000).testBit 1 = true := by
  intro t ht
  simp only [List.mem_cons, List.not_mem_nil, or_false] at ht
  obtain rfl | rfl := ht
  all_goals exact ⟨by decide +kernel, by decide +kernel, by decide +kernel, object_of (by decide +kernel), by decide +kernel⟩

def desc5 : BitVec 256 := BitVec.ofNat 256 (0x201000 + 0x202000 * 2 ^ 64 + 64 * 2 ^ 128 + 64 * 2 ^ 160 + 8 * 2 ^ 192)
def opOf (op mf : Nat) : EngOp :=
  { id := 70, bundle := 3, ctx := 0, op := op, f := { lat := 15, ad := 9, md := 1, ko := 6, ki1 := 4, ki2 := 0, ki3 := 0, sp := 0, mf := BitVec.ofNat 12 mf }
    prof := 1, scope := 0, part := 0, res := true, dom := none, lvl := 0, desc := desc5, sp := 0x1234, vdat := [], k0 := 0, tile := 9, stat := 0
    wids := [], cd := false, pair := 0, dn := 0, started := false, bound := 0, acc := none, migs := [], got := [], loaded := false, outs := []
    aRows := [], bRows := [], aScl := [], bScl := [], kOk := 0, abort? := none, blk := 0, cells := [], fl := 0 }
def engineAt (o : EngOp) : Machine.State := focusOn EvArg.zero (st.modCore 0 fun k => { k with engine := [o], pseq := [(5, 3)] })
def oneEngB (o : EngOp) : Bool :=
  let s := engineAt o
  decide (o.ctx = 0 ∧ ((s.core 0).engine = [o] ∧ s.focus.arg.n = 0)
    ∧ (o.migs = [] ∧ o.got = [] ∧ o.outs = [] ∧ (s.core 0).copies = [] ∧ (s.ctx 0).heldM = none ∧ (s.ctx 0).st ≠ .idle ∧ (s.ctx 0).halted = false
      ∧ o.tile < 64)
    ∧ (s.ctx 0).async = [] ∧ (s.bad = [] ∧ s.weak = [] ∧ s.mem.wf = true) ∧ ∀ x ∈ s.ctxs, ∀ b ∈ x.2.unperformed, b.seen = 0)
theorem oneEng_of {o : EngOp} (h : oneEngB o = true) : Claims.OneEng (engineAt o) 0 o := by
  obtain ⟨h1, h2, h3, h4, h5, h6⟩ := of_decide_eq_true h
  exact { core := ⟨rfl, by decide, by decide, by omega⟩, one := h2, calm := by rw [h1]; exact h3
          old := by rw [h1]; intro x hx; rw [h4] at hx; cases hx
          clean := ⟨h5.1, h5.2.1, h5.2.2, h6⟩ }
/-- A streaming start whose pieces both pipes find; a whole product; a stopped one; a block of a K-blocked count; a peer contribution
that comes early, in turn and late. -/
theorem witness_MatrixEngineSteps :
    (let o := opOf 0x08 4
     Claims.OneEng (engineAt o) 0 o ∧ Claims.fired (engineAt o) 0 [4, 0, 0]
      ∧ ∀ isB, ∀ l ∈ Claims.pieces o isB, ∀ p ∈ l, Claims.pipes (engineAt o) 0 o isB p.1 p.2 p.1)
    ∧ (∀ op ∈ [0x08, 0x09, 0x0A, 0x0B], let o := { opOf op 4 with started := true, loaded := true, kOk := 8 }
      Claims.OneEng (engineAt o) 0 o ∧ fmtBits (fmtA o.f) = 8 ∧ (fmtD (fmtA o.f)).kind = .int true ∧ fmtBits (fmtB o.f) = 8
      ∧ (fmtD (fmtB o.f)).kind = .int true ∧ descAsm o.desc = 0 ∧ descBsm o.desc = 0)
    ∧ (let o := { opOf 0x09 4 with started := true, loaded := true, kOk := 3, abort? := some (15, 0x44) }
      Claims.OneEng (engineAt o) 0 o)
    ∧ (let o := { opOf 0x10 1 with started := true, loaded := true, kOk := 8, pair := 1, desc := BitVec.ofNat 256 (desc5.toNat + 2 ^ 208) }
      Claims.OneEng (engineAt o) 0 o ∧ o.kblk = true ∧ o.blk < (o.k + 127) / 128 ∧ fmtA o.f = 1 ∧ fmtB o.f = 1)
    ∧ ∀ i ∈ [2, 3, 4], let o := { opOf 0x1B i with started := true, loaded := true, desc := BitVec.ofNat 256 (0x100000400000 + 0x4000 * 5) }
      Claims.OneEng (engineAt o) 0 o ∧ sget 0 ((engineAt o).core 0).pseq 5 = 3 ∧ o.f.mf.toNat % 32 = i
      ∧ placeOf (engineAt o) 0 (o.desc.toNat % 2 ^ 46) = .window 0 (o.desc.toNat % 2 ^ 46 % 2 ^ 24) ∧ ((engineAt o).core 0).peer = [] := by
  unfold Claims.fired Claims.pipes
  refine ⟨⟨oneEng_of (by decide +kernel), by decide +kernel, by decide +kernel⟩, fun op hop => ?_, oneEng_of (by decide +kernel),
    ⟨oneEng_of (by decide +kernel), by decide +kernel⟩, fun i hi => ?_⟩
  · simp only [List.mem_cons, List.not_mem_nil, or_false] at hop
    obtain rfl | rfl | rfl | rfl := hop <;> exact ⟨oneEng_of (by decide +kernel), by decide +kernel⟩
  · simp only [List.mem_cons, List.not_mem_nil, or_false] at hi
    obtain rfl | rfl | rfl := hi <;> exact ⟨oneEng_of (by decide +kernel), by decide +kernel⟩

/-! ### Links, health, the quorum, the host, a step -/

/-- The four chiplets after bring-up, joined, their links up. -/
def package (f : Nat → Chip → Chip) : Machine.State :=
  (List.range 4).foldl (fun s p => s.modChip p fun c => f p { c with
    ct := 100000, pcie := true, links := ((List.range 4).filter (· != p)).map fun q => (q, { Link.reset with st := 2 })
    boot := { c.boot with romOk := true, dramOk := true, linksUp := true, fwRun := true, ctOk := true, joined := true } }) st
def write4 : ZOp := .write 0x200100 [1, 2, 3, 0] false false
def sending (l : List TxMsg) (w : List ZWire) : TxStream := { TxStream.reset with next := 9, unacked := l, wire := w }
def msg6 (n : Nat) (t : Tag) : TxMsg := { seq := 6, op := write4, tag := t, resends := n, sent := 50, cts := 7 }
/-- Chiplet 0 receives from chiplet 1 (errors `bs`), which has sent message 6 of class 0. -/
def receiving (e : Nat) (bs : List Byte) (st : Nat := 2) : Machine.State :=
  focusOn { EvArg.zero with peer := 1, bytes := bs } (package fun p c =>
    if p = 1 then { c with tx := [(0, sending [msg6 0 .none] [{ seq := 6, op := write4, cts := 7 }])] }
    else if p = 0 then { c with links := [(1, { Link.reset with st := st })], rx := [(8, { RxStream.reset with e := e })] } else c)
/-- The expected message, a duplicate and a gap; errors that fail HCHK, and that fail the CRC alone; a closed link. -/
theorem witness_Links :
    (∀ e ∈ [6, 7, 5], let s := receiving e []
      linkOk 0 1 = true ∧ (s.link 0 1).st = 2 ∧ (s.txOf 1 0 0).wire = [{ seq := 6, op := write4, cts := 7 }] ∧ (s.rxOf 0 1 0).e = e
      ∧ placeOf s 0 0x200100 = .dram 0 ∧ s.bad = [] ∧ s.weak = [] ∧ s.mem.wf = true ∧ (s.rxOf 0 1 0).nak = false ∧ (s.rxOf 0 1 0).gap = false)
    ∧ crc8 ([1] ++ List.replicate 14 0) ≠ 0
    ∧ (let b : List Byte := List.replicate 16 0 ++ [1]
      crc8 (b.take 15) = b.getD 15 0 ∧ (b.getD 7 0).toNat % 16 = 0
      ∧ crcLin ((List.range 32).map fun i => b.getD i 0) ≠ leValue ((List.range 4).map fun i => b.getD (32 + i) 0)
      ∧ 16 + 16 * lenUnits write4.payload = 32)
    ∧ ((receiving 6 [] 3).link 0 1).st = 3 := by decide +kernel
/-- The sender: an acknowledgement, a NAK, a time-out with resends left and without, a response that has not come. -/
theorem witness_Links_sender :
    ∀ n ∈ [0, 2, 3], ∀ nak ∈ [false, true],
      let k : AckMsg := { cls := 0, seq := 6, nak := nak, old := 0, fl := 0, ok := true, cts := 3 }
      let m := msg6 n (.acc 0 77 1)
      let a := { acc .store ⟨0x800200100, 0, 8⟩ with pieces := [⟨0x800200100, 0, 8⟩, ⟨0x800200108, 8, 8⟩, ⟨0x800200110, 16, 8⟩], sent := [0, 1], done := [2] }
      let s := focusOn { EvArg.zero with peer := 1, n := 6 } ((package fun p c =>
        if p = 1 then { c with acks := [(0, [k])] } else if p = 0 then
          { c with tx := [(8, sending [m] [])], waitResp := [{ peer := 1, tag := .acc 0 77 1, since := 100 }] } else c).modCtx 0 fun c => { c with outst := [a] })
      Claims.acks s 1 0 = [k] ∧ (s.txOf 0 1 0).unacked.find? (fun x => x.seq == 6) = some m ∧ (s.txOf 0 1 0).wait = []
      ∧ ((s.txOf 0 1 0).unacked.map (·.seq)).Nodup ∧ m.sent + 12000 ≤ s.ctOf 0 ∧ (s.chip 0).waitResp[0]? = some { peer := 1, tag := .acc 0 77 1, since := 100 }
      ∧ 100 + 60000 ≤ s.ctOf 0 ∧ (s.ctx 0).outst.find? (fun x => x.id == 77) = some a ∧ (∀ x ∈ (s.ctx 0).outst, x.id = 77 → x = a)
      ∧ a.sent.contains 1 = true ∧ a.done.contains 1 = false ∧ a.aborted = 0 ∧ a.done.length + 1 < a.pieces.length := by
  decide +kernel

/-- A sector that is correctable; an idle core that can be scanned; a scan that is over; the lead's sample within and beyond the bound;
a droop; a throttle that ends; a chiplet 2 counts ahead of the lead. -/
theorem witness_HealthAndTime :
    (let s := focusOn { EvArg.zero with value := 0x200000, idx := 1, core := 33, n := 7, m := 699 } { (package fun _ c => { c with ct := 15000000000 }) with weak := [0x200000] }
     (0x200000 ∉ s.bad ∧ 0x200000 ∈ s.weak) ∧ (s.chip 0).br.decayCt + 15000000000 ≤ (s.chip 0).ct ∧ scanOk s 0 1 = true
      ∧ (∀ k, k < 34 → (s.core (coreKey 0 k)).inScan = false) ∧ (∀ n, n < 32 → ¬ (((s.chip 0).lc n).valid = true ∧ ((s.chip 0).lc n).pcore = 33))
      ∧ leadOf s 0 = 0 ∧ (s.chip 0).power.thr = false)
    ∧ (let s := focusOn { EvArg.zero with core := 2, bytes := List.replicate 48 1 } ((package fun _ c => { c with
        ct := 400000, disc := { c.disc with sample := some (100, 104), since := 3 }, power := { c.power with thr := true, okCt := some 100, thrCt := 150 }
        tbHold := true }).modCore 2 fun k => { k with inScan := true })
      (s.core 2).inScan = true ∧ (s.core 2).scanCt + 300000 ≤ (s.chip 0).ct ∧ (s.chip 0).disc.sample = some (100, 104)
      ∧ (s.chip 0).power.okCt = some 100 ∧ (s.chip 0).power.thrCt + 1500 ≤ (s.chip 0).ct ∧ (s.chip 0).power.tempCt + 1500 ≤ (s.chip 0).ct)
    ∧ (let s := package fun p c => { c with ct := if p = 2 then 1002 else 1000, disc := { c.disc with off := if p = 2 then 2 else 0, since := 4, lead := 1 } }
      (s.chip 2).boot.ctOk = true ∧ (s.chip 2).disc.lead = 1 ∧ (s.chip 1).disc.lead = 1 ∧ s.ctOf 2 ≤ s.ctOf 1 + 2 ∧ (s.chip 2).disc.loose = false) := by
  decide +kernel

def evidence (a src rep : Nat) : Evid := { accused := a, source := src, ct := 5, reporter := rep, pair := none }
def pending : Proposal := { num := 5, mask := 7, level := 2, carr := 0xE4, spare := some 2, ct := 100000, coord := 0, cap := 4, votes := [(0, true), (1, true)] }
/-- A beat that is due and one that is missed; evidence that counts; a coordinator that must propose; votes: the third yes, and after
the time; a closed chiplet that has been reset; a rotation that is due. -/
theorem witness_Quorum :
    (let s := focusOn { EvArg.zero with peer := 1 } (package fun _ c => { c with
        ct := 400000, br := { c.br with dec := 15, level := 3, spare := some 3, missed := [(1, 2)], evidIn := [evidence 3 5 3], evid := [evidence 3 5 3], firstEv := some 1 } })
     (s.chip 0).br.beatCt + 75000 ≤ (s.chip 0).ct ∧ sget 0 (s.chip 0).br.missed 1 = 2 ∧ 76000 * 3 ≤ (s.chip 0).ct
      ∧ (s.chip 0).br.evidIn[0]? = some (evidence 3 5 3) ∧ Claims.coordinator s 0 0 ∧ viewOf s 0 = 7
      ∧ s.quorum.prop = none ∧ (s.chip 0).br.dec.testBit 0 = true)
    ∧ (∀ ct ∈ [100000, 400000], let s := focusOn { EvArg.zero with pos := 2 } { (package fun _ c => { c with
        ct := ct, br := { c.br with dec := 15, evid := [evidence 3 5 3] } }) with quorum := { State.reset.quorum with prop := some pending } }
      s.quorum.prop = some pending ∧ (s.chip 0).br.dec.testBit 2 = true ∧ sget? pending.votes 2 = none ∧ (pending.mask == viewOf s 2) = true
      ∧ (s.ctOf 0 < pending.ct + 225000 ∨ pending.ct + 225000 ≤ s.ctOf 0))
    ∧ (let s := focusOn { EvArg.zero with pos := 3, flag := true } (package fun p c => { c with
        br := { c.br with dec := if p = 3 then 15 else 7, closed := p == 3, wasReset := p == 3, spare := some 3 } })
      (s.chip 3).br.closed = true ∧ (s.chip 3).br.wasReset = true ∧ (∀ p, p < 4 → p ≠ 3 → (s.chip p).br.dec.testBit 3 = false)
      ∧ (s.eng 3).graphs = [] ∧ s.quorum.cand.testBit 3 = false) := by
  unfold Claims.coordinator; decide +kernel

/-- A write and a read of DRAM through the window, and one before DRAM is trained; each step of bring-up, in time and too late. -/
theorem witness_HostAndBringUp :
    (let s := focusOn { EvArg.zero with pos := 1, value := 0x7FFFFFFFC, bytes := [1, 2, 3, 4], n := 8 } (package fun _ c => c)
     Claims.port s 1 ∧ s.focus.arg.value.toNat + 4 ≤ 0x800000000 ∧ (s.chip 1).tbMode = 0 ∧ s.images = [] ∧ s.mem.wf = true ∧ (s.chip 1).mail.req.length = 8
      ∧ Claims.Settled s 1 ∧ unitOk 1 0 0 = true)
    ∧ (∀ ct ∈ [300000000, 300000001], let s := focusOn { EvArg.zero with pos := 1, m := 13 } (package fun _ c => { c with ct := ct, boot := { c.boot with linksUp := false } })
      (s.chip 1).boot.linksUp = false ∧ ((s.chip 1).ct ≤ (s.chip 1).boot.since + 300000000 ∨ (s.chip 1).boot.since + 300000000 < (s.chip 1).ct)
      ∧ (s.chip 1).br.closed = false)
    ∧ (let s := focusOn { EvArg.zero with pos := 1 } (package fun _ c => { c with mail := { c.mail with busy := true }, boot := { c.boot with dramOk := false } })
      (s.chip 1).boot.romOk = true ∧ (s.chip 1).pcie = true ∧ (s.chip 1).boot.dramOk = false ∧ (s.chip 1).mail.busy = true) := by
  unfold Claims.port
  refine ⟨⟨by decide +kernel, by decide +kernel, by decide +kernel, by decide +kernel, by decide +kernel, by decide +kernel,
    { stays := by decide +kernel, quiet := by decide +kernel, clean := by decide +kernel }, by decide +kernel⟩, by decide +kernel, by decide +kernel⟩

def commanded (k : Nat) (l : List Nat) (i : List Image) : Machine.State :=
  focusOn { EvArg.zero with pos := 1 } (package fun _ c => { c with images := i, mail := { c.mail with job := some k, busy := true, req := (k :: l).map (BitVec.ofNat 64) } })
def image5 : Image := { kind := 5, part := 0, svn := 3, base := 0x300000, len := 0x10000, seq := 4 }
/-- Each command; a UNSEAL and a TTSET whose image is there; a quote into home DRAM; a LEVELCAP that is in range. -/
theorem witness_Mailbox :
    (∀ k, k < 10 → let s := commanded k [] []
      (s.chip 1).mail.job = some k ∧ (s.chip 1).boot.fwRun = true ∧ ((s.eng 1).dead = [] ∧ (s.eng 1).graphs = []) ∧ (s.chip 1).tbMode = 0 ∧ s.bad = [] ∧ s.weak = [])
    ∧ (let s := commanded 2 [0x300000] [image5]
      s.images.find? (fun x => x.kind != 1 && x.base == Claims.req s 1 1) = some image5 ∧ imageUsed s image5 = false)
    ∧ (let s := commanded 5 [0x300040, 10, 3] [image5]
      confImage s (Claims.req s 1 1) (64 * 3) = some image5 ∧ Claims.req s 1 2 = 10 ∧ Claims.req s 1 3 = 3)
    ∧ (let s := commanded 3 [1, 2, 3, 4, 0x800200000] []
      (s.chip 1).boot.sigNext < 2 ^ 20 ∧ placeOf s 1 (Claims.req s 1 5) = .dram 1)
    ∧ (let s := commanded 8 [4] []
      Claims.req s 1 1 ≤ 4 ∧ ({ s with quorum := { s.quorum with host := true } } : Machine.State).quorum.host = true ∧ (s.chip 1).boot.joined = true) := by
  decide +kernel

/-- A core's turn after reset whose context fetches ADD at its pc; a hart's turn; an event's turn. -/
theorem witness_StepRunsWhatItFetches :
    (let s := State.reset.withFetchWord 512 0x0109001405546000
     let s2 := evalObjs ((advance { s with agenda := [] } []).modCore 0 fun c => { c with cycle := c.cycle + 0 }) 0
     let s3 := passOn s2 0 0
     s.agenda = [{ who := .core 0 0 Busy.none 0, dts := [] }] ∧ asleep (advance { s with agenda := [] } []) 0 = false
      ∧ (s2.core 0).consort = none ∧ holder s2 0 = some 0 ∧ ¬ ((s3.ctx 0).live = true ∧ ((s3.ctx 0).stalled = true ∨ (s3.ctx 0).stepReady = true))
      ∧ (s3.ctx 0).fetched = none ∧ (s3.ctx 0).pc < (curImage s3 0).2 ∧ (s3.ctx 0).buffered = none
      ∧ ∃ a, storePa s3 0 = some a ∧ s3.readBad a 64 = false ∧ decode (s3.mem.readBytes a 64) = decodeTableWord 512 0x0109001405546000
        ∧ (decode (s3.mem.readBytes a 64)).isSome = true)
    ∧ (let s := { hartAt 1 2 with agenda := [{ who := .hart 0 0 false false, dts := [] }] }
      s.agenda = [{ who := .hart 0 0 false false, dts := [] }] ∧ asleep (advance { s with agenda := [] } []) 0 = false ∧ s.hart.live = true
      ∧ s.hart.pc.toNat % 2 = 0 ∧ s.bad = [] ∧ s.weak = [])
    ∧ isEvent .railFault = true ∧ unitOk 3 33 3 = true := by
  refine ⟨⟨by decide +kernel, by decide +kernel, by decide +kernel, by decide +kernel, by decide +kernel, by decide +kernel, by decide +kernel,
    by decide +kernel, _, rfl, by decide +kernel, by decide +kernel, by decide +kernel⟩, by decide +kernel, by decide +kernel, by decide +kernel⟩

/-- Well-formed instructions of a bundle and of a hart. -/
theorem witness_EncodingsRoundTrip :
    (∀ i ∈ [Instr.add Pfx.zero dab, .ecall Pfx.zero { lat := 0, rm := 0, fi := 0, fo := 0, sat := 0, ef := 0, d := 0, a := 0, imm := 7 }],
      i.wf = true ∧ (slotWord i).isSome = true)
    ∧ (Instr.jcSub 2 11 10).wf = true ∧ (hartBytes (.jcSub 2 11 10)).isSome = true := by decide +kernel

/-- A state with memory in its form whose step goes on. -/
theorem witness_EveryStepKeepsMemoryCanonical :
    State.reset.mem.wf = true ∧ ∃ t, step { State.reset with agenda := [{ who := .event .railFault EvArg.zero, dts := [] }] } = .next t :=
  ⟨by decide +kernel, _, rfl⟩

end Sys2Proof.Tests
end

/-!
SUPPORT and PROOF for section 08, scalar operations with an immediate (R147, R151, R152).
-/
namespace Sys2Proof.Machine
open Sys2Proof

/-! ## A bundle of one operation that fails a check of R77 -/

/-- A zero prefix fails no check of the Y slot in a bundle whose one operation stands in neither slot M nor slot Y (R77, R88). -/
theorem yFail_zero_alone (c : Ctx) {o : Parts} (h3 : o.slot ≠ 3) (h7 : o.slot ≠ 7) : yFail c Pfx.zero [o] = none := by
  simp [yFail, Pfx.zero, Parts.fail, h3, h7]

/-- An operation alone in its bundle under a zero prefix traps with the cause of the first check that it fails (R77). -/
theorem bundleTrap_alone_of_fail {s : State} {o : Parts} {cause : Nat} (hgate : gate s.cur Pfx.zero = .go) (h3 : o.slot ≠ 3)
    (h7 : o.slot ≠ 7) (hfail : o.fail s.cur = some cause) (hc : cause ≠ 0x12) :
    bundleTrap (s.env Pfx.zero [o]) [o]
      = some { cause := cause, own := 0, tok := 0, isAsync := false, slots := 2 ^ o.slot, value := o.word } := by
  have hfails : failures s.cur Pfx.zero [o] = [(o.slot, cause, o.word)] := by
    simp [failures, yFail_zero_alone s.cur h3 h7, h7, hfail]
  have hstatic : staticTrap s.cur Pfx.zero [o]
      = some { cause := cause, own := 0, tok := 0, isAsync := false, slots := 2 ^ o.slot, value := o.word } := by
    simp [staticTrap, hfails, trapOfFailures, slotMask, hc]
  have hgate' : gate (s.env Pfx.zero [o]).c (s.env Pfx.zero [o]).p = .go := hgate
  have hstatic' : staticTrap (s.env Pfx.zero [o]).c (s.env Pfx.zero [o]).p [o] = _ := hstatic
  simp only [bundleTrap, hgate', hstatic', Option.or]

theorem fail_of_not_zeroOk {o : Parts} (c : Ctx) (hk : o.known = true) (hz : o.zeroOk = false) : o.fail c = some 0x02 := by
  simp [Parts.fail, hk, hz]

theorem fail_of_bad {o : Parts} {cause : Nat} (c : Ctx) (hk : o.known = true) (hz : o.zeroOk = true) (hb : o.bad = some cause) :
    o.fail c = some cause := by
  simp [Parts.fail, hk, hz, hb]

/-! ## The width of a scalar operation (R147) -/

theorem sWidthD_eq_width (ef : BitVec 5) : sWidthD ef = Claims.width ef := by
  revert ef; decide

theorem claimsWidth_cases (ef : BitVec 5) : Claims.width ef = 32 ∨ Claims.width ef = 64 := by
  unfold Claims.width; split <;> simp

/-- A function that gives at every width the low bits of an integer gives, at the width of EF, that integer's WB (R147). -/
theorem atWidth_eq_wb {fn : SFn} {r : (w : Nat) → BitVec w → BitVec w → BitVec w → Int}
    (h : ∀ w A B D, fn w A B D = BitVec.ofInt w (r w A B D)) (ef : BitVec 5) (a b d : W64) :
    atWidth (sWidthD ef) fn a b d = Claims.wb (Claims.width ef)
      (r (Claims.width ef) (a.setWidth (Claims.width ef)) (b.setWidth (Claims.width ef)) (d.setWidth (Claims.width ef))) := by
  rw [sWidthD_eq_width]
  rcases claimsWidth_cases ef with hw | hw <;> rw [hw] <;> simp [atWidth, Claims.wb, h]

/-! ## The integers of Table 8-4

Each is stated at every width, of the operands as the operation reads them. -/

theorem immW_eq_ofInt (f : Ri) (w : Nat) : immW f w = BitVec.ofInt w f.imm.toInt := rfl

theorem flagW_decide (w : Nat) (P : Prop) [Decidable P] : flagW w (decide P) = BitVec.ofInt w (if P then 1 else 0) := by
  by_cases h : P <;> simp [flagW, h]

theorem eq_ofInt_of_toNat {w n : Nat} {v : BitVec w} (h : v.toNat = n) : v = BitVec.ofInt w n := by
  rw [← h, BitVec.ofInt_natCast, BitVec.ofNat_toNat, BitVec.setWidth_eq]

theorem shiftLeft_eq_ofInt {w : Nat} (a : BitVec w) (n : Nat) : a <<< n = BitVec.ofInt w (a.toInt * (2 ^ n : Nat)) := by
  rw [BitVec.ofInt_mul, BitVec.ofInt_toInt, BitVec.ofInt_natCast]
  apply BitVec.eq_of_toNat_eq
  simp only [BitVec.toNat_shiftLeft, Nat.shiftLeft_eq, BitVec.toNat_mul, BitVec.toNat_ofNat, Nat.mul_mod_mod]

theorem shiftLeft_add_eq_ofInt {w m : Nat} (d : BitVec w) (v : BitVec m) (n : Nat) :
    d <<< n + v.setWidth w = BitVec.ofInt w (d.toNat * 2 ^ n + v.toNat : Nat) := by
  rw [BitVec.ofInt_natCast]
  apply BitVec.eq_of_toNat_eq
  simp only [BitVec.toNat_add, BitVec.toNat_shiftLeft, BitVec.toNat_setWidth, BitVec.toNat_ofNat, Nat.shiftLeft_eq, ← Nat.add_mod]

theorem ushiftRight_eq_ofInt {w : Nat} (a : BitVec w) (n : Nat) : a >>> n = BitVec.ofInt w (a.toNat / 2 ^ n : Nat) :=
  eq_ofInt_of_toNat (by rw [BitVec.toNat_ushiftRight, Nat.shiftRight_eq_div_pow])

theorem sshiftRight_eq_ofInt {w : Nat} (a : BitVec w) (n : Nat) :
    a.sshiftRight n = BitVec.ofInt w (a.toInt / (2 ^ n : Nat)) := by
  rw [← Int.shiftRight_eq_div_pow]; rfl

/-- Instruction `i` is the operation of definition `t` with opcode `op`, and `t` computes its integer of Table 8-4. -/
structure ComputesRi (i : Instr) (p : Pfx) (f : Ri) (op : BitVec 8) (t : IDef) : Prop where
  parts : opsOf i = [sRi op t f] := by rfl
  word  : Claims.word i = riWord op f := by rfl
  exec  : ∀ s, exec i s = issueOne p (sRi op t f) s := by intro s; rfl
  value : ∀ (w : Nat) (A B D : BitVec w), t.fn f w A B D = BitVec.ofInt w (Claims.riInt i f w A D)

theorem addi_computes (p : Pfx) (f : Ri) : ComputesRi (.addi p f) p f 0x20 addiDef where
  value w A _ D := by simp [addiDef, Claims.riInt, immW_eq_ofInt, BitVec.ofInt_add]

theorem andi_computes (p : Pfx) (f : Ri) : ComputesRi (.andi p f) p f 0x21 andiDef where
  value w A _ D := eq_ofInt_of_toNat (BitVec.toNat_and A (immW f w))

theorem ori_computes (p : Pfx) (f : Ri) : ComputesRi (.ori p f) p f 0x22 oriDef where
  value w A _ D := eq_ofInt_of_toNat (BitVec.toNat_or A (immW f w))

theorem xori_computes (p : Pfx) (f : Ri) : ComputesRi (.xori p f) p f 0x23 xoriDef where
  value w A _ D := eq_ofInt_of_toNat (BitVec.toNat_xor A (immW f w))

theorem shli_computes (p : Pfx) (f : Ri) : ComputesRi (.shli p f) p f 0x24 shliDef where
  value w A _ D := shiftLeft_eq_ofInt A (shAmt f)

theorem shri_computes (p : Pfx) (f : Ri) : ComputesRi (.shri p f) p f 0x25 shriDef where
  value w A _ D := ushiftRight_eq_ofInt A (shAmt f)

theorem srai_computes (p : Pfx) (f : Ri) : ComputesRi (.srai p f) p f 0x26 sraiDef where
  value w A _ D := sshiftRight_eq_ofInt A (shAmt f)

theorem slti_computes (p : Pfx) (f : Ri) : ComputesRi (.slti p f) p f 0x27 sltiDef where
  value w A _ D := flagW_decide w (A.toInt < f.imm.toInt)

theorem sltui_computes (p : Pfx) (f : Ri) : ComputesRi (.sltui p f) p f 0x28 sltuiDef where
  value w A _ D := flagW_decide w (A.toNat < (immW f w).toNat)

theorem li_computes (p : Pfx) (f : Ri) : ComputesRi (.li p f) p f 0x29 liDef where
  value _ _ _ _ := immW_eq_ofInt f _

theorem lix_computes (p : Pfx) (f : Ri) : ComputesRi (.lix p f) p f 0x2A lixDef where
  value w A _ D := shiftLeft_add_eq_ofInt D f.imm 22

theorem ext_computes (p : Pfx) (f : Ri) : ComputesRi (.ext p f) p f 0x2B extDef where
  value w A _ D := by
    have hbit : bitOf f.imm.toNat 12 = fSx f := rfl
    simp only [extDef, extFn, Claims.riInt, hbit, Bool.and_eq_true, decide_eq_true_eq, ← BitVec.ofInt_natCast, ← apply_ite]
    rfl

theorem ins_computes (p : Pfx) (f : Ri) : ComputesRi (.ins p f) p f 0x2C insDef where
  value w A _ D := (BitVec.ofInt_natCast ..).symm

theorem muli_computes (p : Pfx) (f : Ri) : ComputesRi (.muli p f) p f 0x2D muliDef where
  value w A _ D := by simp [muliDef, Claims.riInt, immW_eq_ofInt, BitVec.ofInt_mul]

/-- Every RI operation of the S slot is the model's operation of a definition that computes its row of Table 8-4. -/
theorem exists_computesRi {i : Instr} {p : Pfx} {f : Ri} (h : Claims.ri? i = some (p, f)) : ∃ op t, ComputesRi i p f op t := by
  unfold Claims.ri? at h
  split at h <;> simp only [Option.some.injEq, Prod.mk.injEq, reduceCtorEq] at h <;> obtain ⟨rfl, rfl⟩ := h
  · exact ⟨_, _, addi_computes ..⟩
  · exact ⟨_, _, andi_computes ..⟩
  · exact ⟨_, _, ori_computes ..⟩
  · exact ⟨_, _, xori_computes ..⟩
  · exact ⟨_, _, shli_computes ..⟩
  · exact ⟨_, _, shri_computes ..⟩
  · exact ⟨_, _, srai_computes ..⟩
  · exact ⟨_, _, slti_computes ..⟩
  · exact ⟨_, _, sltui_computes ..⟩
  · exact ⟨_, _, li_computes ..⟩
  · exact ⟨_, _, lix_computes ..⟩
  · exact ⟨_, _, ext_computes ..⟩
  · exact ⟨_, _, ins_computes ..⟩
  · exact ⟨_, _, muli_computes ..⟩

section
variable {i : Instr} {p : Pfx} {f : Ri} {op : BitVec 8} {t : IDef} {s : State} {cause : Nat}

/-! ## The effect -/

/-- The value that the operation of a definition computes is the one of Table 8-4. -/
theorem ComputesRi.atWidth_eq_riValue (h : ComputesRi i p f op t) (s : State) :
    atWidth (sWidthD f.ef) (t.fn f) (s.sr (s6 f.a)) 0 (s.sr (s6 f.d)) = Claims.riValue i f s :=
  atWidth_eq_wb (r := fun w A _ D => Claims.riInt i f w A D) h.value ..

/-- An RI operation that issues puts in flight the write of its value. -/
theorem ComputesRi.did (h : ComputesRi i p f op t) (hi : Issues s p (opsOf i)) (hc : Calm s) :
    NextWith (Machine.exec i s) fun u => Did s u (scalarWrite s (s6 f.d) (Claims.riValue i f s) (latBound f.lat.toNat)) := by
  rw [h.parts] at hi
  refine ⟨_, (h.exec s).trans (issueOne_commit hi), did_writeS hc rfl (fun _ => rfl) ?_⟩
  rw [← h.atWidth_eq_riValue s]; rfl

/-! ## The traps of EXT and INS (R152) -/

/-- A failing check of an RI operation alone in its bundle is its trap, with the operation's word. -/
theorem ComputesRi.trapAt (h : ComputesRi i p f op t) (hgate : gate s.cur Pfx.zero = .go)
    (hfail : (sRi op t f).fail s.cur = some cause) (hc : cause ≠ 0x12) : Claims.trapAt s Pfx.zero i 0 cause (Claims.word i) := by
  rw [Claims.trapAt, h.parts, h.word]
  exact bundleTrap_alone_of_fail hgate (by decide : (0 : Nat) ≠ 3) (by decide : (0 : Nat) ≠ 7) hfail hc

/-- Bits of the immediate that must be zero and are not trap with cause 0x02. -/
theorem ComputesRi.trapAt_of_zero (h : ComputesRi i p f op t) (hgate : gate s.cur Pfx.zero = .go)
    (hz : t.zero f = false) : Claims.trapAt s Pfx.zero i 0 0x02 (Claims.word i) :=
  h.trapAt hgate (fail_of_not_zeroOk _ rfl (by simp [sRi, hz])) (by decide)

/-- A value of the immediate out of range traps with its cause where the other fields of the operation are legal. -/
theorem ComputesRi.trapAt_of_bad (h : ComputesRi i p f op t) (hgate : gate s.cur Pfx.zero = .go)
    (hplain : riPlain f = true) (hd : s6Ok f.d = true) (ha : s6Ok f.a = true) (hA : t.useA = true)
    (hz : t.zero f = true) (hw : (sWidth f.ef).isSome = true) (hb : t.bad f = some cause)
    (hc : cause ≠ 0x12) : Claims.trapAt s Pfx.zero i 0 cause (Claims.word i) := by
  have hzero : (sRi op t f).zeroOk = true := by simp [sRi, hplain, hd, ha, hA, hz]
  have hbad : (sRi op t f).bad = some cause := by simp [sRi, Option.isNone_eq_false_iff.2 hw, hb]
  exact h.trapAt hgate (fail_of_bad _ rfl hzero hbad) hc

end

theorem fBad_of_width_lt {f : Ri} (h : Claims.width f.ef < f.imm.toNat % 64 + (f.imm.toNat / 64 % 64 + 1)) :
    fBad f = some 0x01 := by
  have hlt : sWidthD f.ef < fLo f + fW f := by
    rw [sWidthD_eq_width]
    simpa [fLo, fW, bitsOf, Nat.shiftRight_eq_div_pow] using h
  rw [fBad, if_pos hlt]

theorem toNat_lt_of_sx_clear {x : BitVec 22} (h : x.toNat < 2 ^ 13) (hsx : x.getLsbD 12 = false) : x.toNat < 2 ^ 12 := by
  have hbit : ¬ x.toNat / 2 ^ 12 % 2 = 1 := by simpa [BitVec.getLsbD, Nat.testBit_eq_decide_div_mod_eq] using hsx
  omega

end Sys2Proof.Machine

section
open Sys2Proof Sys2Proof.Machine

/-- Settles O2: each RI operation is the model's operation of a definition that computes its row of Table 8-4, and the checks of EXT
and INS are that definition's. -/
theorem scalarImmediateOperations : Obligations.ScalarImmediateOperations := by
  unfold Obligations.ScalarImmediateOperations
  refine ⟨fun s i p f hri hi hc => ?_, ?_⟩
  · obtain ⟨op, t, h⟩ := exists_computesRi hri
    exact h.did hi hc
  rintro s i _ f hi rfl hgate - -
  refine ⟨fun himm => ?_, ?_, fun himm hsx hrm hfi hfo hsat hd ha hef hw => ?_⟩
  · rcases hi with rfl | rfl
    · exact (ext_computes ..).trapAt_of_zero hgate (decide_eq_false himm.not_gt)
    · exact (ins_computes ..).trapAt_of_zero hgate (decide_eq_false (by omega))
  · rintro rfl hsx
    exact (ins_computes ..).trapAt_of_zero hgate (decide_eq_false (Nat.ge_two_pow_of_testBit hsx).not_gt)
  · have hplain : riPlain f = true := by simp [riPlain, hrm, hfi, hfo, hsat]
    have hwidth : (sWidth f.ef).isSome = true := by rcases hef with h | h | h <;> rw [h] <;> rfl
    have hbad := fBad_of_width_lt hw
    rcases hi with rfl | rfl
    · exact (ext_computes ..).trapAt_of_bad hgate hplain (decide_eq_true hd) (decide_eq_true ha) rfl (decide_eq_true himm) hwidth
        hbad (by decide)
    · exact (ins_computes ..).trapAt_of_bad hgate hplain (decide_eq_true hd) (decide_eq_true ha) rfl
        (decide_eq_true (toNat_lt_of_sx_clear himm (hsx rfl))) hwidth hbad (by decide)

end

/-!
SUPPORT and PROOF for section 09, the mask stack and the mask registers (R182 to R184).
-/
namespace Sys2Proof.Machine
open Sys2Proof

section
variable {s : State} {p : Pfx} {i : Instr} {o : Parts} {f : Rrr} {cause : Nat} {v : W64}

/-! ## A bundle of one operation: the checks that it has passed, and its fault at issue -/

/-- An operation that fails no check of R77 has its zero bits zero, its field values legal and its LAT legal. -/
theorem checks_of_fail_eq_none {c : Ctx} (h : o.fail c = none) : o.zeroOk = true ∧ o.bad = none ∧ o.latBad = none := by
  have hk : o.known = true := Bool.eq_true_of_not_eq_false fun hk => by simp [Parts.fail, hk] at h
  have hz : o.zeroOk = true := Bool.eq_true_of_not_eq_false fun hz => by simp [fail_of_not_zeroOk c hk hz] at h
  have hb : o.bad = none := Option.eq_none_iff_forall_ne_some.2 fun b hb => by simp [fail_of_bad c hk hz hb] at h
  have hl : o.latBad = none := Option.eq_none_iff_forall_ne_some.2 fun b hl => by simp [Parts.fail, hk, hz, hb, hl] at h
  exact ⟨hz, hb, hl⟩

/-- The one operation of a bundle that issues meets no fault of its own (R381). -/
theorem Issues.fault_eq_none (h : Issues s p [o]) : o.fault (s.env p [o]) = none := by
  have hnone := h.fault
  cases hf : o.fault (s.env p [o]) with
  | none => rfl
  | some x => simp [Parts.faultOf, hf] at hnone

/-- No other slot of a bundle of one operation names the tokens that it produces (R266). -/
theorem dupToken_alone (o : Parts) : dupToken [o] o = none := by
  simp [dupToken]

/-- An operation alone in its bundle that passes the checks of R77 and R78 traps with its fault at issue (R381). -/
theorem trapAt_of_fault (hops : opsOf i = [o]) (hl : Claims.Legal s p i) (hfault : o.fault (s.env p [o]) = some (cause, v))
    (hc : cause ≠ 0x12) : Claims.trapAt s p i o.slot cause v := by
  obtain ⟨hgate, hstatic, -⟩ := hl
  rw [hops] at hstatic
  have hgate' : gate (s.env p [o]).c (s.env p [o]).p = .go := hgate
  have hstatic' : staticTrap (s.env p [o]).c (s.env p [o]).p [o] = none := hstatic
  have hslot : slotFault (s.env p [o]) [o] o = some (cause, v) := by
    simp [slotFault, Parts.faultOf, hfault, dupToken_alone]
  rw [Claims.trapAt, hops]
  simp [bundleTrap, hgate', hstatic', issueTrap, hslot, trapOfFailures, slotMask, hc]

/-! ## Mask operands (R122, R182) -/

theorem maskOf_eq_mask (s : State) (k : Nat) : s.cur.maskOf k = Claims.mask s k := by
  unfold Ctx.maskOf Claims.mask Claims.topMask
  cases s.cur.mstack <;> rfl

theorem mNum_eq_toNat {x : BitVec 10} (h : mOk x = true) : mNum x = x.toNat :=
  Nat.mod_eq_of_lt (of_decide_eq_true h)

/-! ## Mode bits that are zero (R182) -/

theorem noFp_iff : noFp f = true ↔ f.rm = 0 ∧ f.fi = 0 ∧ f.fo = 0 := by
  simp [noFp, and_assoc]

theorem noSat_iff : noSat f = true ↔ f.sat = 0 := by
  simp [noSat]

/-! ## The stack operations (R183) -/

section
variable {op : BitVec 8} {zero : Bool} {src : List Nat} {fault : Ctx → Option Nat} {act : Ctx → List (BitVec 128)}

/-- A stack operation that issues has every field but OP, A and X zero, its own check passed, and no fault. -/
theorem stackParts_legal (h : Issues s p [stackParts op f zero src fault act]) :
    f = { Claims.bare with a := f.a, x := f.x } ∧ zero = true ∧ fault s.cur = none := by
  obtain ⟨hz, hb, hlat⟩ := checks_of_fail_eq_none h.fail
  simp only [stackParts, Bool.and_eq_true, beq_iff_eq, noFp_iff, noSat_iff] at hz
  obtain ⟨⟨⟨⟨⟨⟨hrm, hfi, hfo⟩, hsat⟩, hmsk⟩, hzero⟩, hd⟩, hB⟩ := hz
  have hef : f.ef = 0 := by simpa [stackParts] using hb
  have hlat' : f.lat = 0 := by simpa [stackParts, latNone] using hlat
  refine ⟨?_, hzero, Option.map_eq_none_iff.1 h.fault_eq_none⟩
  cases f
  simp_all [Claims.bare]

/-- A stack operation that takes neither A nor X has no field but OP. -/
theorem stackParts_bare (h : Issues s p [stackParts op f (f.a == 0 && f.x == 0) src fault act]) : f = Claims.bare := by
  obtain ⟨hf, hax, -⟩ := stackParts_legal h
  simp only [Bool.and_eq_true, beq_iff_eq] at hax
  rw [hf, hax.1, hax.2]
  rfl

/-- A stack operation that faults at depth 0 issues only where the stack has an entry. -/
theorem stackParts_nonempty
    (h : Issues s p [stackParts op f zero src (fun c => if c.mstack.isEmpty then some 0x0D else none) act]) :
    ∃ m r, s.cur.mstack = m :: r := by
  obtain ⟨-, -, hfault⟩ := stackParts_legal h
  exact List.exists_cons_of_ne_nil (by simpa using hfault)

/-- A stack operation that issues replaces the mask stack and does nothing else. -/
theorem stackParts_did (hi : Issues s p [stackParts op f zero src fault act]) (hc : Calm s) :
    NextWith (issueOne p (stackParts op f zero src fault act) s) fun t => Did s t fun c => { c with mstack := act s.cur } :=
  ⟨_, issueOne_commit hi, did_commit (f := fun c => { c with mstack := act s.cur }) (n := s.atIssue.nextId) hc rfl rfl nofun
    (calm_begun hc) rfl⟩

/-- A stack operation whose fault stands traps in slot VA. -/
theorem stackParts_trapAt (hops : opsOf i = [stackParts op f zero src fault act]) (hl : Claims.Legal s p i)
    (hfault : fault s.cur = some cause) (hc : cause ≠ 0x12) : Claims.trapAt s p i 1 cause (rrrWord op f) :=
  trapAt_of_fault hops hl (congrArg (Option.map fun c => (c, rrrWord op f)) hfault) hc

end

theorem mpush_trapAt (hl : Claims.Legal s p (.mpush p f)) (hfull : 16 ≤ s.cur.mstack.length) :
    Claims.trapAt s p (.mpush p f) 1 0x0C (Claims.word (.mpush p f)) :=
  stackParts_trapAt rfl hl (if_pos hfull) (by decide)

theorem minv_trapAt (hl : Claims.Legal s p (.minv p f)) (hempty : s.cur.mstack = []) :
    Claims.trapAt s p (.minv p f) 1 0x0D (Claims.word (.minv p f)) :=
  stackParts_trapAt rfl hl (if_pos (List.isEmpty_iff.2 hempty)) (by decide)

theorem mpop_trapAt (hl : Claims.Legal s p (.mpop p f)) (hempty : s.cur.mstack = []) :
    Claims.trapAt s p (.mpop p f) 1 0x0D (Claims.word (.mpop p f)) :=
  stackParts_trapAt rfl hl (if_pos (List.isEmpty_iff.2 hempty)) (by decide)

/-- MPUSH that issues has legal fields and room on the stack, and pushes A within the top, or A alone with ABS. -/
theorem mpush_did (hi : Issues s p (opsOf (.mpush p f))) (hc : Calm s) :
    f = { Claims.bare with a := f.a, x := f.x } ∧ f.a.toNat < 8 ∧ f.x.toNat < 2 ∧ s.cur.mstack.length < 16
      ∧ NextWith (exec (.mpush p f) s) fun t => Did s t fun c =>
        { c with mstack := (if f.x = 1 then Claims.mask s f.a.toNat else Claims.topMask s &&& Claims.mask s f.a.toNat) :: c.mstack } := by
  obtain ⟨hf, hax, hroom⟩ := stackParts_legal hi
  simp only [Bool.and_eq_true, decide_eq_true_eq] at hax
  obtain ⟨ha, hx⟩ := hax
  have hlen : s.cur.mstack.length < 16 := by simpa using hroom
  refine ⟨hf, of_decide_eq_true ha, hx, hlen, ?_⟩
  obtain ⟨t, ht, hsame, hcore, hctx⟩ := stackParts_did hi hc
  refine ⟨t, ht, hsame, hcore, hctx.trans ?_⟩
  simp only [maskOf_eq_mask, mNum_eq_toNat ha]
  rfl

/-- MINV that issues has an entry to invert, which it inverts within the entry below. -/
theorem minv_did (hi : Issues s p (opsOf (.minv p f))) (hc : Calm s) :
    f = Claims.bare ∧ ∃ m r, s.cur.mstack = m :: r ∧ NextWith (exec (.minv p f) s) fun t =>
      Did s t fun c => { c with mstack := (match r with | [] => ~~~m | u :: _ => u &&& ~~~m) :: r } := by
  obtain ⟨m, r, hm⟩ := stackParts_nonempty hi
  have hdid := stackParts_did hi hc
  rw [hm] at hdid
  refine ⟨stackParts_bare hi, m, r, hm, ?_⟩
  cases r with
  | nil =>
    simp only [List.headD_nil, BitVec.allOnes_and] at hdid
    exact hdid
  | cons u r => exact hdid

/-- MPOP that issues has an entry to remove, and removes it. -/
theorem mpop_did (hi : Issues s p (opsOf (.mpop p f))) (hc : Calm s) :
    f = Claims.bare ∧ ∃ m r, s.cur.mstack = m :: r ∧ NextWith (exec (.mpop p f) s) fun t =>
      Did s t fun c => { c with mstack := r } := by
  obtain ⟨m, r, hm⟩ := stackParts_nonempty hi
  have hdid := stackParts_did hi hc
  rw [hm] at hdid
  exact ⟨stackParts_bare hi, m, r, hm, hdid⟩

/-! ## The mask-register operations (R184) -/

/-- A mask-register operation that issues names a mask that it may write, and puts in flight the write of all of its lanes. -/
theorem maskParts_did {op : BitVec 8} {useB : Bool} {fn : BitVec 128 → BitVec 128 → BitVec 128}
    (hi : Issues s p [maskParts op f useB fn]) (hc : Calm s) :
    1 ≤ f.d.toNat ∧ f.d.toNat ≤ 7 ∧ NextWith (issueOne p (maskParts op f useB fn) s) fun t =>
      Did s t (maskWrite s f.d.toNat (BitVec.allOnes 128) (fn (Claims.mask s f.a.toNat) (Claims.mask s f.b.toNat))
        (latBound f.lat.toNat) 0) := by
  obtain ⟨hz, hb, -⟩ := checks_of_fail_eq_none hi.fail
  simp only [maskParts, Bool.and_eq_true] at hz
  obtain ⟨⟨⟨⟨-, hd⟩, ha⟩, hB⟩, -⟩ := hz
  have hne : f.d.toNat ≠ 0 := by
    rw [← mNum_eq_toNat hd]
    intro h0
    simp only [maskParts, if_pos h0] at hb
    split at hb <;> cases hb
  have hlt : f.d.toNat < 8 := of_decide_eq_true hd
  refine ⟨Nat.pos_of_ne_zero hne, Nat.le_of_lt_succ hlt, _, issueOne_commit hi, did_writeM hc rfl (fun _ => rfl) ?_⟩
  rw [← mNum_eq_toNat hd, ← mNum_eq_toNat ha, ← mNum_eq_toNat hB, ← maskOf_eq_mask, ← maskOf_eq_mask]
  rfl

/-- MCNT that issues puts in flight the write of the number of one bits of A among the lanes that EF names. -/
theorem mcnt_did (hi : Issues s p (opsOf (.mcnt p f))) (hc : Calm s) :
    NextWith (exec (.mcnt p f) s) fun t =>
      let k := if f.ef = 0 then 1 else (fmtD f.ef.toNat).bits / 8
      Did s t (scalarWrite s (s6 f.d) (BitVec.ofNat 64
        ((List.range 128).filter fun j => decide (j % k = 0) && (Claims.mask s f.a.toNat).getLsbD j).length) (latBound f.lat.toNat)) := by
  have hz := (checks_of_fail_eq_none (Issues.fail (o := mcntParts f) hi)).1
  simp only [mcntParts, Bool.and_eq_true] at hz
  obtain ⟨-, ha⟩ := hz
  refine ⟨_, issueOne_commit hi, did_writeS hc rfl (fun _ => rfl) ?_⟩
  rw [← mNum_eq_toNat ha, ← maskOf_eq_mask]
  rfl

end

end Sys2Proof.Machine

section
open Sys2Proof Sys2Proof.Machine

/-- Settles O22: the stack operations are one operation that replaces the mask stack, with a fault of its own for each, and MAND, MOR,
MNOT and MCPY are one operation that writes a whole mask register. -/
theorem maskOperations : Obligations.MaskOperations := by
  unfold Obligations.MaskOperations
  intro s p f
  exact ⟨mpush_trapAt, minv_trapAt, mpop_trapAt, fun hc =>
    ⟨fun hi => mpush_did hi hc, fun hi => minv_did hi hc, fun hi => mpop_did hi hc,
      fun hi => maskParts_did hi hc, fun hi => maskParts_did hi hc, fun hi => maskParts_did hi hc, fun hi => maskParts_did hi hc,
      fun hi => mcnt_did hi hc⟩⟩

end
